-- ==== Sys2Proof/Word.lean ====
section
/-!
DEFINITION. Word.lean: the bit-vector types of the machine (R4, R5) and nothing that computes beyond them.
-/

namespace Sys2Proof

/-- One byte of memory. -/
abbrev Byte := BitVec 8

/-- A 32-bit instruction word or vector register (R4, R5). -/
abbrev Word := BitVec 32

/-- A 64-bit uniform register, special register or pair of vector registers (R4, R5). -/
abbrev DWord := BitVec 64

/-- An active, exited or recovery mask: one bit per physical lane (R69, R314). -/
abbrev Mask := BitVec 128

end Sys2Proof
end

