-- ==== Sys2Proof/Config.lean ====
section
/-!
DEFINITION. Config.lean: what the spec leaves open. Each constant has no body, so no proof can see a value of it; a
statement about the machine holds for every value it could take. Log entries 2, 3, 4, 6, 28 and 81 name each
use.
-/

namespace Sys2Proof

/-- The free values of the machine, one for every count of State.free (log entry 2). -/
opaque Config.free : Nat → DWord

/-- The result that the device delivers for an approximated function of R103, as bits, by the function's number and its
operand; the machine uses it where it keeps the bound of R103 (log entry 3). -/
opaque Config.approx : Nat → DWord → DWord

/-- Which neighbour a tie takes that rounding to even does not settle (R98), by the instruction's number and its operands: the
result is fixed by them (R108; log entry 6). -/
opaque Config.tie : Nat → DWord → DWord → Bool

/-- How many of its non-lane arrays a core can replace by spares (R323, R364; log entry 28). -/
opaque Config.spares : Nat → Nat

/-- The public key of the module's identity key, certified at manufacture (R363; log entry 4). -/
opaque Config.identity : List Byte

/-- The signature that the management core makes of some bytes with the identity key of a public key, byte by byte (R363; log entry 4). -/
opaque Config.signature : List Byte → List Byte → Nat → Byte

/-- The digest of the firmware's public key that is fused at manufacture (R362; log entry 4). -/
opaque Config.fusedKey : List Byte

/-- The die whose L2 serves a second-tier page, by the page's number: R165 names a hash and does not give it (log entry 81). -/
opaque Config.secondDie : Nat → Nat

/-- The SHAKE256 digest of some bytes: R362 names the function and does not define it (log entry 4). -/
opaque Config.digest : List Byte → List Byte

/-- Does a signature of some bytes verify under a public key: R362 names the parameter set and does not define it (log entry 4). -/
opaque Config.verifies : List Byte → List Byte → List Byte → Bool

end Sys2Proof
end

