-- ==== Sys2Proof/Syntax.lean ====
section
/-!
DEFINITION. Syntax.lean: the instructions and the events of the device as data, one constructor for every row of
spec/opcode_table.json. The 253 rows that have a word carry the fields of their word; the 56 rows that are events of
the device carry what the outside world, or the choice of the agent that moves, supplies with the event.
-/

namespace Sys2Proof

/-- The fields SP, N and PI of a non-hint word (R22): safe point, negation, predicate index. -/
structure Ctl where
  sp : Bool
  n  : Bool
  pi : BitVec 3
  deriving DecidableEq, Repr

/-- Names a group of the package: its workgroup (an internal number that is never used twice), its number in the
workgroup, and whether it is the shadow group of an access slice (R110, R239). -/
structure GKey where
  wg     : Nat
  gid    : Nat
  shadow : Bool
  deriving DecidableEq, Repr

/-- Why a fetch for issue cannot execute (R13, R36, R39, R319). -/
inductive FetchFault where
  /-- the word at the address is no assigned, legal encoding on this stepping; TRAPVAL holds it (R30, R39) -/
  | word (w : Word)
  /-- the address lies outside the code extent or the supervisor region (R13) -/
  | bounds (pc : DWord)
  /-- the word lies in a poisoned unit (R319) -/
  | poisoned (pa : Nat)
  deriving DecidableEq, Repr

/-- Where a storage error was found (R318). -/
inductive ErrorPlace where
  | memory (pa : Nat)
  /-- a line of a core's L1: the unit at a physical address -/
  | l1 (core pa : Nat)
  | scratchpad (wg off : Nat)
  | vreg (g : GKey) (lane r : Nat)
  | frame (core idx elt : Nat)
  /-- a pseudo-channel of a die's HBM fails whole: its physical addresses (R323) -/
  | pseudoChannel (die base len : Nat)
  /-- a channel endpoint of a core fails: the outbound one, or the inbound one, of a number (R323) -/
  | endpoint (core ch : Nat) (out : Bool)
  deriving DecidableEq, Repr

/-- One detected storage error: the array's core and number (R325), and whether the code corrects it and whether the
unit has another copy (R318). -/
structure StorageError where
  place       : ErrorPlace
  core        : Nat
  array       : Nat
  correctable : Bool
  hasCopy     : Bool
  deriving DecidableEq, Repr

/-- One 10 ms bump-field test: was the current steady within 5 % for the whole interval, and the excess of the measured
drop over the 3-sigma bound in microvolts, 0 or less when it is within the bound (R360). -/
structure SupplyReading where
  steady : Bool
  excess : Int
  deriving DecidableEq, Repr

/-- What firmware gives one core at step 8 of bring-up (R13, R16, R17, R364), with the healthy lane cells of its four
quarters found at step 5 (R323). -/
structure CoreSetup where
  core     : Nat
  cells    : List Nat
  codeBase : Nat
  codeLen  : Nat
  handler  : Nat
  dataBase : Nat
  dataLen  : Nat
  deriving DecidableEq, Repr

/-- A trace buffer of a die (0 to 3) or the hub (4): where it lies and which KINDs it records (R349). -/
structure TraceSetup where
  unit  : Nat
  base  : Nat
  size  : Nat
  kinds : List Nat
  deriving DecidableEq, Repr

/-- Who stores to which launch port: an application core, by number, and the ADDRSPACE of the port (R287, R366). -/
structure LaunchPort where
  core : Nat
  ctx  : BitVec 16
  deriving DecidableEq, Repr

/-- A request for an attestation report: its nonce, and whether the requester has the supervisor right (R363). -/
structure ReportRequest where
  nonce      : List Byte
  supervisor : Bool
  deriving DecidableEq, Repr

/-- A sent message that has found no buffer: is this the no-buffer response itself, or the instant of its next
transmission (R342)? -/
structure SendRetry where
  msg    : Nat
  answer : Bool
  deriving DecidableEq, Repr

/-- Where a PTP event message comes from: a port, and the domain that it names (R345, R346). -/
structure PtpSource where
  port   : Nat
  domain : Nat
  deriving DecidableEq, Repr

/-- A firmware image and its signature (R362). -/
structure FwImage where
  bytes     : List Byte
  signature : List Byte
  deriving DecidableEq, Repr

/-- What bring-up finds and is given (R362, R364, R365). -/
structure Firmware where
  inputOk   : Bool
  romOk     : Bool
  /-- the images of the puppeteer, the health monitor, and time and trace (R361) -/
  images    : List FwImage
  /-- the public key that their signatures are checked against -/
  key       : List Byte
  /-- the links that fail training, by number (R332, R364) -/
  badLinks  : List Nat
  dies      : BitVec 4
  clusters  : Word
  ports     : BitVec 12
  coresUp   : List DWord
  near      : List Nat
  second    : Nat
  stepping  : Byte
  serial    : Word
  now       : Nat
  /-- the PTP domain number (R345) -/
  domain    : Nat
  traces    : List TraceSetup
  cores     : List CoreSetup
  savePool  : List (List Nat)
  spillPool : List (List Nat)
  cap       : List Nat
  power     : List (Nat × Nat × Nat)
  /-- channel endpoints that failed their built-in test: the core, the number, whether outbound (R323, R364) -/
  endpoints : List (Nat × Nat × Bool)
  deriving DecidableEq, Repr

/-- The operations of ATOM and RED (R191, R195). -/
inductive AtomOp where
  | add | exch | cas | and | or | xor | minS | maxS | minN | maxN | fadd
  deriving DecidableEq, Repr

/-- One access of an application core to global memory (R366): a plain store of its bytes or an atomic of 4 or 8
bytes; whether its own architecture makes it a release or an acquire at .sys. -/
structure AppAccess where
  core    : Nat
  ctx     : BitVec 16
  va      : DWord
  bytes   : List Byte
  atomic  : Option AtomOp
  expect  : DWord
  release : Bool
  acquire : Bool
  /-- an 8-byte load from this offset of the address space's launch-port page instead (R287, R289) -/
  portAt  : Option Nat
  deriving DecidableEq, Repr

/-- The operations of the network (R281, R339). -/
inductive NetOp where
  | send | tagged | rma
  deriving DecidableEq, Repr

/-- A queue the operating system opens, or reopens, for a launch through the hub (R339, R342). -/
structure QueueSpec where
  launch  : Nat
  number  : Nat
  send    : Bool
  port    : Option Nat
  ordered : Bool
  op      : NetOp
  peer    : DWord
  job     : Nat
  tclass  : BitVec 3
  /-- nanoseconds; none for the default of 100 ms -/
  timeout : Option Nat
  deriving DecidableEq, Repr

/-- A message that arrives at a receive queue of a launch (R282, R343): where from, and its place among the messages of the queue that sent
it (R341). -/
structure Message where
  launch : Nat
  queue  : Nat
  port   : Nat
  peer   : DWord
  job    : Nat
  seq    : Nat
  op     : NetOp
  tag    : Nat
  bytes  : List Byte
  deriving DecidableEq, Repr

/-- The instructions and events: one constructor per row of spec/opcode_table.json. -/
inductive Instr where
  /-- TRAP (R81). Traps BREAK with an 18-bit code placed in TRAPCAUSE.CODE; TRAPPC holds the next word. -/
  | trap (ctl : Ctl) (c : BitVec 18)
  /-- SVC (R81). Traps SVC with an 18-bit code placed in TRAPCAUSE.CODE; TRAPPC holds the next word. -/
  | svc (ctl : Ctl) (c : BitVec 18)
  /-- ERET (R81). In supervisor mode returns to user mode at TRAPPC; in user mode traps ILLEGAL. -/
  | eret (ctl : Ctl)
  /-- NOP (R81). Does nothing but take an issue slot. -/
  | nop (ctl : Ctl)
  /-- IDEM (R320). Sets the recovery PC, records the active threads and the stack depth, and clears or updates the restart count. -/
  | idem (ctl : Ctl)
  /-- NOPRE (R83). Opens a window in which safe points permit no pre-emption. -/
  | nopre (ctl : Ctl)
  /-- PREON (R83). Closes an open NOPRE window. -/
  | preon (ctl : Ctl)
  /-- IFENCE (R84). Discards the group's fetch buffer and prefetched words so that the next instruction is fetched anew. -/
  | ifence (ctl : Ctl)
  /-- RDSR (R7). Reads a special register by number into a vector or uniform register. -/
  | rdsr (ctl : Ctl) (d : BitVec 6) (a : BitVec 6)
  /-- WRSR (R7). Writes a special register by number from a uniform register, subject to its access rights. -/
  | wrsr (ctl : Ctl) (d : BitVec 6) (a : BitVec 6)
  /-- TIME (R20). Reads the 64-bit TAI nanosecond time base into a uniform register. -/
  | time (ctl : Ctl) (d : BitVec 6)
  /-- DOZE (R20). Frees the group's issue slot until the time base reaches the given instant. -/
  | doze (ctl : Ctl) (a : BitVec 6)
  /-- ICINV (R87). Invalidates the instruction-cache lines of a range in every core within its scope. -/
  | icinv (ctl : Ctl) (a : BitVec 6) (b : BitVec 6)
  /-- BRA_LANE (R71). Branches per thread on a predicate, pushing a PEND entry on divergence. -/
  | braLane (ctl : Ctl) (h : BitVec 2) (o : BitVec 19)
  /-- BRA_UNIFORM (R71). Branches the active threads once for the group on a uniform predicate. -/
  | braUniform (ctl : Ctl) (h : BitVec 2) (o : BitVec 19)
  /-- CALL (R73). Writes the return address to s63 and branches when the uniform condition holds. -/
  | call (ctl : Ctl) (h : BitVec 2) (o : BitVec 19)
  /-- CONV (R72). Pushes a CONV reconvergence entry with the target and the active mask. -/
  | conv (sp : Bool) (o : BitVec 19)
  /-- LOOP (R74). Decrements a uniform counter and branches while the result is not zero. -/
  | loop (ctl : Ctl) (d : BitVec 6) (i : BitVec 9)
  /-- BRX (R73). Continues the active threads at the address in a uniform register. -/
  | brx (ctl : Ctl) (a : BitVec 6)
  /-- RET (R73). Returns the active threads to the address in a uniform register. -/
  | ret (ctl : Ctl) (a : BitVec 6)
  /-- EXIT (R75). Adds the active threads to the exited mask and continues with the next stack entry, or retires the group. -/
  | exit (ctl : Ctl)
  /-- IADD (R56). Adds two 32-bit lane operands, wrapping or saturating. -/
  | iadd (ctl : Ctl) (d : BitVec 6) (a : BitVec 6) (b : BitVec 6)
  /-- ISUB (R56). Subtracts two 32-bit lane operands, wrapping or saturating. -/
  | isub (ctl : Ctl) (d : BitVec 6) (a : BitVec 6) (b : BitVec 6)
  /-- IMUL (R56). Gives the low 32 bits of a 32-bit lane product. -/
  | imul (ctl : Ctl) (d : BitVec 6) (a : BitVec 6) (b : BitVec 6)
  /-- IMULH_S (R56). Gives the high 32 bits of the signed 64-bit lane product. -/
  | imulhS (ctl : Ctl) (d : BitVec 6) (a : BitVec 6) (b : BitVec 6)
  /-- IMULH_N (R56). Gives the high 32 bits of the unsigned 64-bit lane product. -/
  | imulhN (ctl : Ctl) (d : BitVec 6) (a : BitVec 6) (b : BitVec 6)
  /-- IMAD (R56). Computes a 32-bit lane multiply-add with one reduction. -/
  | imad (ctl : Ctl) (d : BitVec 6) (a : BitVec 6) (b : BitVec 6)
  /-- IMIN_S (R56). Gives the signed smaller of two 32-bit lane operands. -/
  | iminS (ctl : Ctl) (d : BitVec 6) (a : BitVec 6) (b : BitVec 6)
  /-- IMIN_N (R56). Gives the unsigned smaller of two 32-bit lane operands. -/
  | iminN (ctl : Ctl) (d : BitVec 6) (a : BitVec 6) (b : BitVec 6)
  /-- IMAX_S (R56). Gives the signed larger of two 32-bit lane operands. -/
  | imaxS (ctl : Ctl) (d : BitVec 6) (a : BitVec 6) (b : BitVec 6)
  /-- IMAX_N (R56). Gives the unsigned larger of two 32-bit lane operands. -/
  | imaxN (ctl : Ctl) (d : BitVec 6) (a : BitVec 6) (b : BitVec 6)
  /-- IDIV_S (R57). Divides 32-bit lane operands signed, truncating, with fixed results for zero and overflow. -/
  | idivS (ctl : Ctl) (d : BitVec 6) (a : BitVec 6) (b : BitVec 6)
  /-- IDIV_N (R57). Divides 32-bit lane operands unsigned, with a fixed result for a zero divisor. -/
  | idivN (ctl : Ctl) (d : BitVec 6) (a : BitVec 6) (b : BitVec 6)
  /-- IREM_S (R57). Gives the signed remainder of 32-bit lane operands. -/
  | iremS (ctl : Ctl) (d : BitVec 6) (a : BitVec 6) (b : BitVec 6)
  /-- IREM_N (R57). Gives the unsigned remainder of 32-bit lane operands. -/
  | iremN (ctl : Ctl) (d : BitVec 6) (a : BitVec 6) (b : BitVec 6)
  /-- IABS (R56). Gives the signed magnitude of a 32-bit lane operand. -/
  | iabs (ctl : Ctl) (d : BitVec 6) (a : BitVec 6)
  /-- INEG (R56). Gives 0 minus a 32-bit lane operand. -/
  | ineg (ctl : Ctl) (d : BitVec 6) (a : BitVec 6)
  /-- IADD_PAIR (R56). Adds two 64-bit lane pair operands. -/
  | iaddPair (ctl : Ctl) (d : BitVec 6) (a : BitVec 6) (b : BitVec 6)
  /-- ISUB_PAIR (R56). Subtracts two 64-bit lane pair operands. -/
  | isubPair (ctl : Ctl) (d : BitVec 6) (a : BitVec 6) (b : BitVec 6)
  /-- IMUL_PAIR (R56). Gives the low 64 bits of a 64-bit lane product. -/
  | imulPair (ctl : Ctl) (d : BitVec 6) (a : BitVec 6) (b : BitVec 6)
  /-- IMULH_S_PAIR (R56). Gives the high 64 bits of the signed 128-bit lane product. -/
  | imulhSPair (ctl : Ctl) (d : BitVec 6) (a : BitVec 6) (b : BitVec 6)
  /-- IMULH_N_PAIR (R56). Gives the high 64 bits of the unsigned 128-bit lane product. -/
  | imulhNPair (ctl : Ctl) (d : BitVec 6) (a : BitVec 6) (b : BitVec 6)
  /-- IMAD_PAIR (R56). Computes a 64-bit lane multiply-add. -/
  | imadPair (ctl : Ctl) (d : BitVec 6) (a : BitVec 6) (b : BitVec 6)
  /-- IMIN_S_PAIR (R56). Gives the signed smaller of two 64-bit lane operands. -/
  | iminSPair (ctl : Ctl) (d : BitVec 6) (a : BitVec 6) (b : BitVec 6)
  /-- IMIN_N_PAIR (R56). Gives the unsigned smaller of two 64-bit lane operands. -/
  | iminNPair (ctl : Ctl) (d : BitVec 6) (a : BitVec 6) (b : BitVec 6)
  /-- IMAX_S_PAIR (R56). Gives the signed larger of two 64-bit lane operands. -/
  | imaxSPair (ctl : Ctl) (d : BitVec 6) (a : BitVec 6) (b : BitVec 6)
  /-- IMAX_N_PAIR (R56). Gives the unsigned larger of two 64-bit lane operands. -/
  | imaxNPair (ctl : Ctl) (d : BitVec 6) (a : BitVec 6) (b : BitVec 6)
  /-- IDIV_S_PAIR (R57). Divides 64-bit lane operands signed. -/
  | idivSPair (ctl : Ctl) (d : BitVec 6) (a : BitVec 6) (b : BitVec 6)
  /-- IDIV_N_PAIR (R57). Divides 64-bit lane operands unsigned. -/
  | idivNPair (ctl : Ctl) (d : BitVec 6) (a : BitVec 6) (b : BitVec 6)
  /-- IREM_S_PAIR (R57). Gives the signed remainder of 64-bit lane operands. -/
  | iremSPair (ctl : Ctl) (d : BitVec 6) (a : BitVec 6) (b : BitVec 6)
  /-- IREM_N_PAIR (R57). Gives the unsigned remainder of 64-bit lane operands. -/
  | iremNPair (ctl : Ctl) (d : BitVec 6) (a : BitVec 6) (b : BitVec 6)
  /-- IABS_PAIR (R56). Gives the signed magnitude of a 64-bit lane operand. -/
  | iabsPair (ctl : Ctl) (d : BitVec 6) (a : BitVec 6)
  /-- INEG_PAIR (R56). Negates a 64-bit lane operand. -/
  | inegPair (ctl : Ctl) (d : BitVec 6) (a : BitVec 6)
  /-- ICMP (R59). Compares lane operands under a condition and writes a predicate. -/
  | icmp (ctl : Ctl) (c : BitVec 3) (w : BitVec 1) (q : BitVec 3) (a : BitVec 6) (b : BitVec 6)
  /-- AND (R61). Bitwise AND of 32-bit lane operands. -/
  | and (ctl : Ctl) (d : BitVec 6) (a : BitVec 6) (b : BitVec 6)
  /-- OR (R61). Bitwise OR of 32-bit lane operands. -/
  | or (ctl : Ctl) (d : BitVec 6) (a : BitVec 6) (b : BitVec 6)
  /-- XOR (R61). Bitwise XOR of 32-bit lane operands. -/
  | xor (ctl : Ctl) (d : BitVec 6) (a : BitVec 6) (b : BitVec 6)
  /-- ANDN (R61). a AND NOT b on 32-bit lane operands. -/
  | andn (ctl : Ctl) (d : BitVec 6) (a : BitVec 6) (b : BitVec 6)
  /-- ORN (R61). a OR NOT b on 32-bit lane operands. -/
  | orn (ctl : Ctl) (d : BitVec 6) (a : BitVec 6) (b : BitVec 6)
  /-- SHL (R61). Shifts a 32-bit lane operand left. -/
  | shl (ctl : Ctl) (d : BitVec 6) (a : BitVec 6) (b : BitVec 6)
  /-- SHRL (R61). Shifts a 32-bit lane operand right, filling zeros. -/
  | shrl (ctl : Ctl) (d : BitVec 6) (a : BitVec 6) (b : BitVec 6)
  /-- SHRA (R61). Shifts a 32-bit lane operand right, filling the sign. -/
  | shra (ctl : Ctl) (d : BitVec 6) (a : BitVec 6) (b : BitVec 6)
  /-- AND_PAIR (R61). Bitwise AND of 64-bit lane pairs. -/
  | andPair (ctl : Ctl) (d : BitVec 6) (a : BitVec 6) (b : BitVec 6)
  /-- OR_PAIR (R61). Bitwise OR of 64-bit lane pairs. -/
  | orPair (ctl : Ctl) (d : BitVec 6) (a : BitVec 6) (b : BitVec 6)
  /-- XOR_PAIR (R61). Bitwise XOR of 64-bit lane pairs. -/
  | xorPair (ctl : Ctl) (d : BitVec 6) (a : BitVec 6) (b : BitVec 6)
  /-- ANDN_PAIR (R61). a AND NOT b on 64-bit lane pairs. -/
  | andnPair (ctl : Ctl) (d : BitVec 6) (a : BitVec 6) (b : BitVec 6)
  /-- ORN_PAIR (R61). a OR NOT b on 64-bit lane pairs. -/
  | ornPair (ctl : Ctl) (d : BitVec 6) (a : BitVec 6) (b : BitVec 6)
  /-- SHL_PAIR (R61). Shifts a 64-bit lane pair left. -/
  | shlPair (ctl : Ctl) (d : BitVec 6) (a : BitVec 6) (b : BitVec 6)
  /-- SHRL_PAIR (R61). Shifts a 64-bit lane pair right, filling zeros. -/
  | shrlPair (ctl : Ctl) (d : BitVec 6) (a : BitVec 6) (b : BitVec 6)
  /-- SHRA_PAIR (R61). Shifts a 64-bit lane pair right, filling the sign. -/
  | shraPair (ctl : Ctl) (d : BitVec 6) (a : BitVec 6) (b : BitVec 6)
  /-- ROTL (R62). Rotates a 32-bit lane operand left. -/
  | rotl (ctl : Ctl) (d : BitVec 6) (a : BitVec 6) (b : BitVec 6)
  /-- CLZ (R62). Counts the leading zero bits of a 32-bit lane operand. -/
  | clz (ctl : Ctl) (d : BitVec 6) (a : BitVec 6)
  /-- CTZ (R62). Counts the trailing zero bits of a 32-bit lane operand. -/
  | ctz (ctl : Ctl) (d : BitVec 6) (a : BitVec 6)
  /-- POPC (R62). Counts the one bits of a 32-bit lane operand. -/
  | popc (ctl : Ctl) (d : BitVec 6) (a : BitVec 6)
  /-- BREV (R62). Reverses the bits of a 32-bit lane operand. -/
  | brev (ctl : Ctl) (d : BitVec 6) (a : BitVec 6)
  /-- BFX_N (R63). Extracts a zero-extended bit field from a 32-bit lane operand. -/
  | bfxN (ctl : Ctl) (d : BitVec 6) (a : BitVec 6) (b : BitVec 6)
  /-- BFX_S (R63). Extracts a sign-extended bit field from a 32-bit lane operand. -/
  | bfxS (ctl : Ctl) (d : BitVec 6) (a : BitVec 6) (b : BitVec 6)
  /-- BSEL (R65). Builds a word from selected bytes of two operands under a selector. -/
  | bsel (ctl : Ctl) (d : BitVec 6) (a : BitVec 6) (b : BitVec 6)
  /-- ROTL_PAIR (R62). Rotates a 64-bit lane pair left. -/
  | rotlPair (ctl : Ctl) (d : BitVec 6) (a : BitVec 6) (b : BitVec 6)
  /-- CLZ_PAIR (R62). Counts the leading zero bits of a 64-bit lane pair. -/
  | clzPair (ctl : Ctl) (d : BitVec 6) (a : BitVec 6)
  /-- CTZ_PAIR (R62). Counts the trailing zero bits of a 64-bit lane pair. -/
  | ctzPair (ctl : Ctl) (d : BitVec 6) (a : BitVec 6)
  /-- POPC_PAIR (R62). Counts the one bits of a 64-bit lane pair. -/
  | popcPair (ctl : Ctl) (d : BitVec 6) (a : BitVec 6)
  /-- BREV_PAIR (R62). Reverses the bits of a 64-bit lane pair. -/
  | brevPair (ctl : Ctl) (d : BitVec 6) (a : BitVec 6)
  /-- BFX_N_PAIR (R63). Extracts a zero-extended field from a 64-bit lane pair. -/
  | bfxNPair (ctl : Ctl) (d : BitVec 6) (a : BitVec 6) (b : BitVec 6)
  /-- BFX_S_PAIR (R63). Extracts a sign-extended field from a 64-bit lane pair. -/
  | bfxSPair (ctl : Ctl) (d : BitVec 6) (a : BitVec 6) (b : BitVec 6)
  /-- BFI_B32 (R64). Inserts a bit field into a 32-bit lane register. -/
  | bfiB32 (ctl : Ctl) (d : BitVec 6) (a : BitVec 6) (b : BitVec 6)
  /-- BFI_B64 (R64). Inserts a bit field into a 64-bit lane pair. -/
  | bfiB64 (ctl : Ctl) (d : BitVec 6) (a : BitVec 6) (b : BitVec 6)
  /-- MOV_B32 (R66). Copies a 32-bit operand into a lane register. -/
  | movB32 (ctl : Ctl) (d : BitVec 6) (b : BitVec 6)
  /-- MOV_B64 (R66). Copies a 64-bit operand into a lane pair. -/
  | movB64 (ctl : Ctl) (d : BitVec 6) (b : BitVec 6)
  /-- MOV_B128 (R66). Copies a 128-bit operand into a lane quad. -/
  | movB128 (ctl : Ctl) (d : BitVec 6) (b : BitVec 6)
  /-- PMOV_TO_REG (R68). Writes the lane predicates p7..p0 into a vector register. -/
  | pmovToReg (ctl : Ctl) (d : BitVec 6)
  /-- PMOV_TO_PRED (R68). Sets p1..p7 from bits of a vector register. -/
  | pmovToPred (ctl : Ctl) (a : BitVec 6)
  /-- SEL (R60). Selects between two lane operands by a per-thread predicate. -/
  | sel (ctl : Ctl) (p : BitVec 3) (d : BitVec 6) (a : BitVec 6) (b : BitVec 6)
  /-- IADD_IMM (R56). Adds a 9-bit (or widened) immediate to a 32-bit lane operand. -/
  | iaddImm (ctl : Ctl) (d : BitVec 6) (a : BitVec 6) (i : BitVec 9)
  /-- IADD_IMM_PAIR (R56). Adds an immediate to a 64-bit lane pair. -/
  | iaddImmPair (ctl : Ctl) (d : BitVec 6) (a : BitVec 6) (i : BitVec 9)
  /-- MOVI (R66). Loads a widened immediate into a lane register or pair. -/
  | movi (ctl : Ctl) (d : BitVec 6) (w : BitVec 1) (i : BitVec 9)
  /-- PLUT (R67). Writes a predicate from an 8-entry lookup table indexed by three predicates. -/
  | plut (ctl : Ctl) (x : BitVec 3) (d : BitVec 3) (z : BitVec 3) (y : BitVec 3) (f : BitVec 1) (t : BitVec 8)
  /-- LEA (R58). Computes a + (b << fn) on 32-bit lane operands. -/
  | lea (ctl : Ctl) (c : BitVec 3) (d : BitVec 6) (a : BitVec 6) (b : BitVec 6)
  /-- IADD_U (R56). Adds two 64-bit uniform operands. -/
  | iaddU (ctl : Ctl) (d : BitVec 6) (a : BitVec 6) (b : BitVec 6)
  /-- ISUB_U (R56). Subtracts two 64-bit uniform operands. -/
  | isubU (ctl : Ctl) (d : BitVec 6) (a : BitVec 6) (b : BitVec 6)
  /-- IMUL_U (R56). Gives the low 64 bits of a uniform product. -/
  | imulU (ctl : Ctl) (d : BitVec 6) (a : BitVec 6) (b : BitVec 6)
  /-- IMULH_S_U (R56). Gives the high 64 bits of a signed uniform product. -/
  | imulhSU (ctl : Ctl) (d : BitVec 6) (a : BitVec 6) (b : BitVec 6)
  /-- IMULH_N_U (R56). Gives the high 64 bits of an unsigned uniform product. -/
  | imulhNU (ctl : Ctl) (d : BitVec 6) (a : BitVec 6) (b : BitVec 6)
  /-- IMAD_U (R56). Computes a 64-bit uniform multiply-add. -/
  | imadU (ctl : Ctl) (d : BitVec 6) (a : BitVec 6) (b : BitVec 6)
  /-- IMIN_S_U (R56). Gives the signed smaller of two uniform operands. -/
  | iminSU (ctl : Ctl) (d : BitVec 6) (a : BitVec 6) (b : BitVec 6)
  /-- IMIN_N_U (R56). Gives the unsigned smaller of two uniform operands. -/
  | iminNU (ctl : Ctl) (d : BitVec 6) (a : BitVec 6) (b : BitVec 6)
  /-- IMAX_S_U (R56). Gives the signed larger of two uniform operands. -/
  | imaxSU (ctl : Ctl) (d : BitVec 6) (a : BitVec 6) (b : BitVec 6)
  /-- IMAX_N_U (R56). Gives the unsigned larger of two uniform operands. -/
  | imaxNU (ctl : Ctl) (d : BitVec 6) (a : BitVec 6) (b : BitVec 6)
  /-- IDIV_S_U (R57). Divides uniform operands signed. -/
  | idivSU (ctl : Ctl) (d : BitVec 6) (a : BitVec 6) (b : BitVec 6)
  /-- IDIV_N_U (R57). Divides uniform operands unsigned. -/
  | idivNU (ctl : Ctl) (d : BitVec 6) (a : BitVec 6) (b : BitVec 6)
  /-- IREM_S_U (R57). Gives the signed remainder of uniform operands. -/
  | iremSU (ctl : Ctl) (d : BitVec 6) (a : BitVec 6) (b : BitVec 6)
  /-- IREM_N_U (R57). Gives the unsigned remainder of uniform operands. -/
  | iremNU (ctl : Ctl) (d : BitVec 6) (a : BitVec 6) (b : BitVec 6)
  /-- IABS_U (R56). Gives the signed magnitude of a uniform operand. -/
  | iabsU (ctl : Ctl) (d : BitVec 6) (a : BitVec 6)
  /-- INEG_U (R56). Negates a uniform operand. -/
  | inegU (ctl : Ctl) (d : BitVec 6) (a : BitVec 6)
  /-- ICMP_U (R59). Compares 64-bit uniform operands and writes a uniform predicate. -/
  | icmpU (ctl : Ctl) (c : BitVec 3) (q : BitVec 3) (a : BitVec 6) (b : BitVec 6)
  /-- AND_U (R61). Bitwise AND of uniform operands. -/
  | andU (ctl : Ctl) (d : BitVec 6) (a : BitVec 6) (b : BitVec 6)
  /-- OR_U (R61). Bitwise OR of uniform operands. -/
  | orU (ctl : Ctl) (d : BitVec 6) (a : BitVec 6) (b : BitVec 6)
  /-- XOR_U (R61). Bitwise XOR of uniform operands. -/
  | xorU (ctl : Ctl) (d : BitVec 6) (a : BitVec 6) (b : BitVec 6)
  /-- ANDN_U (R61). a AND NOT b on uniform operands. -/
  | andnU (ctl : Ctl) (d : BitVec 6) (a : BitVec 6) (b : BitVec 6)
  /-- ORN_U (R61). a OR NOT b on uniform operands. -/
  | ornU (ctl : Ctl) (d : BitVec 6) (a : BitVec 6) (b : BitVec 6)
  /-- SHL_U (R61). Shifts a uniform operand left. -/
  | shlU (ctl : Ctl) (d : BitVec 6) (a : BitVec 6) (b : BitVec 6)
  /-- SHRL_U (R61). Shifts a uniform operand right, filling zeros. -/
  | shrlU (ctl : Ctl) (d : BitVec 6) (a : BitVec 6) (b : BitVec 6)
  /-- SHRA_U (R61). Shifts a uniform operand right, filling the sign. -/
  | shraU (ctl : Ctl) (d : BitVec 6) (a : BitVec 6) (b : BitVec 6)
  /-- ROTL_U (R62). Rotates a uniform operand left. -/
  | rotlU (ctl : Ctl) (d : BitVec 6) (a : BitVec 6) (b : BitVec 6)
  /-- CLZ_U (R62). Counts the leading zero bits of a uniform operand. -/
  | clzU (ctl : Ctl) (d : BitVec 6) (a : BitVec 6)
  /-- CTZ_U (R62). Counts the trailing zero bits of a uniform operand. -/
  | ctzU (ctl : Ctl) (d : BitVec 6) (a : BitVec 6)
  /-- POPC_U (R62). Counts the one bits of a uniform operand. -/
  | popcU (ctl : Ctl) (d : BitVec 6) (a : BitVec 6)
  /-- BREV_U (R62). Reverses the bits of a uniform operand. -/
  | brevU (ctl : Ctl) (d : BitVec 6) (a : BitVec 6)
  /-- BFX_N_U (R63). Extracts a zero-extended field from a uniform operand. -/
  | bfxNU (ctl : Ctl) (d : BitVec 6) (a : BitVec 6) (b : BitVec 6)
  /-- BFX_S_U (R63). Extracts a sign-extended field from a uniform operand. -/
  | bfxSU (ctl : Ctl) (d : BitVec 6) (a : BitVec 6) (b : BitVec 6)
  /-- BFI_U (R64). Inserts a bit field into a uniform register. -/
  | bfiU (ctl : Ctl) (d : BitVec 6) (a : BitVec 6) (b : BitVec 6)
  /-- MOV_U (R66). Copies a 64-bit value into a uniform register. -/
  | movU (ctl : Ctl) (d : BitVec 6) (b : BitVec 6)
  /-- PMOV_C_TO_S (R68). Writes the uniform predicates c7..c0 into a uniform register. -/
  | pmovCToS (ctl : Ctl) (d : BitVec 6)
  /-- PMOV_S_TO_C (R68). Sets c1..c7 from bits of a uniform register. -/
  | pmovSToC (ctl : Ctl) (a : BitVec 6)
  /-- SEL_U (R60). Selects between two uniform operands by a uniform predicate. -/
  | selU (ctl : Ctl) (p : BitVec 3) (d : BitVec 6) (a : BitVec 6) (b : BitVec 6)
  /-- LEA_U (R58). Computes a + (b << fn) on 64-bit uniform operands. -/
  | leaU (ctl : Ctl) (c : BitVec 3) (d : BitVec 6) (a : BitVec 6) (b : BitVec 6)
  /-- FADD (R132). Adds two f32 values with one rounding. -/
  | fadd (ctl : Ctl) (d : BitVec 6) (a : BitVec 6) (b : BitVec 6)
  /-- FSUB (R132). Subtracts two f32 values with one rounding. -/
  | fsub (ctl : Ctl) (d : BitVec 6) (a : BitVec 6) (b : BitVec 6)
  /-- FMUL (R132). Multiplies two f32 values with one rounding. -/
  | fmul (ctl : Ctl) (d : BitVec 6) (a : BitVec 6) (b : BitVec 6)
  /-- FFMA (R132). Fused f32 multiply-add with one rounding. -/
  | ffma (ctl : Ctl) (d : BitVec 6) (a : BitVec 6) (b : BitVec 6)
  /-- FMIN (R93). Gives the f32 minimum under IEEE minimum or minimumNumber. -/
  | fmin (ctl : Ctl) (d : BitVec 6) (a : BitVec 6) (b : BitVec 6)
  /-- FMAX (R93). Gives the f32 maximum under IEEE maximum or maximumNumber. -/
  | fmax (ctl : Ctl) (d : BitVec 6) (a : BitVec 6) (b : BitVec 6)
  /-- FDIV (R132). Divides two f32 values, correctly rounded. -/
  | fdiv (ctl : Ctl) (d : BitVec 6) (a : BitVec 6) (b : BitVec 6)
  /-- FSQRT (R132). Takes the f32 square root, correctly rounded. -/
  | fsqrt (ctl : Ctl) (d : BitVec 6) (a : BitVec 6)
  /-- FRND (R134). Rounds an f32 value to an integral value. -/
  | frnd (ctl : Ctl) (d : BitVec 6) (a : BitVec 6)
  /-- FRCP (R103). Approximates the f32 reciprocal within 1 ulp. -/
  | frcp (ctl : Ctl) (d : BitVec 6) (a : BitVec 6)
  /-- FRSQ (R103). Approximates the f32 reciprocal square root within 1 ulp. -/
  | frsq (ctl : Ctl) (d : BitVec 6) (a : BitVec 6)
  /-- FEXP2 (R103). Approximates 2^x in f32. -/
  | fexp2 (ctl : Ctl) (d : BitVec 6) (a : BitVec 6)
  /-- FLOG2 (R103). Approximates log2 x in f32. -/
  | flog2 (ctl : Ctl) (d : BitVec 6) (a : BitVec 6)
  /-- FSIN (R103). Approximates sin x in f32. -/
  | fsin (ctl : Ctl) (d : BitVec 6) (a : BitVec 6)
  /-- FCOS (R103). Approximates cos x in f32. -/
  | fcos (ctl : Ctl) (d : BitVec 6) (a : BitVec 6)
  /-- FCLASS (R135). Writes a one-hot class mask of an f32 value. -/
  | fclass (ctl : Ctl) (d : BitVec 6) (a : BitVec 6)
  /-- FADD_F64 (R132). Adds two f64 pairs with one rounding. -/
  | faddF64 (ctl : Ctl) (d : BitVec 6) (a : BitVec 6) (b : BitVec 6)
  /-- FSUB_F64 (R132). Subtracts two f64 pairs with one rounding. -/
  | fsubF64 (ctl : Ctl) (d : BitVec 6) (a : BitVec 6) (b : BitVec 6)
  /-- FMUL_F64 (R132). Multiplies two f64 pairs with one rounding. -/
  | fmulF64 (ctl : Ctl) (d : BitVec 6) (a : BitVec 6) (b : BitVec 6)
  /-- FFMA_F64 (R132). Fused f64 multiply-add with one rounding. -/
  | ffmaF64 (ctl : Ctl) (d : BitVec 6) (a : BitVec 6) (b : BitVec 6)
  /-- FMIN_F64 (R93). Gives the f64 minimum. -/
  | fminF64 (ctl : Ctl) (d : BitVec 6) (a : BitVec 6) (b : BitVec 6)
  /-- FMAX_F64 (R93). Gives the f64 maximum. -/
  | fmaxF64 (ctl : Ctl) (d : BitVec 6) (a : BitVec 6) (b : BitVec 6)
  /-- FDIV_F64 (R132). Divides two f64 pairs, correctly rounded. -/
  | fdivF64 (ctl : Ctl) (d : BitVec 6) (a : BitVec 6) (b : BitVec 6)
  /-- FSQRT_F64 (R132). Takes the f64 square root, correctly rounded. -/
  | fsqrtF64 (ctl : Ctl) (d : BitVec 6) (a : BitVec 6)
  /-- FRND_F64 (R134). Rounds an f64 value to an integral value. -/
  | frndF64 (ctl : Ctl) (d : BitVec 6) (a : BitVec 6)
  /-- FRCP_F64 (R103). Approximates the f64 reciprocal. -/
  | frcpF64 (ctl : Ctl) (d : BitVec 6) (a : BitVec 6)
  /-- FRSQ_F64 (R103). Approximates the f64 reciprocal square root. -/
  | frsqF64 (ctl : Ctl) (d : BitVec 6) (a : BitVec 6)
  /-- FCLASS_F64 (R135). Writes a one-hot class mask of an f64 value to one register. -/
  | fclassF64 (ctl : Ctl) (d : BitVec 6) (a : BitVec 6)
  /-- FCMP (R136). Compares floating-point values under a condition and writes a predicate. -/
  | fcmp (ctl : Ctl) (c : BitVec 3) (w : BitVec 1) (q : BitVec 3) (a : BitVec 6) (b : BitVec 6)
  /-- PKADD_F16 (R137). Adds two packed f16 pairs element-wise. -/
  | pkaddF16 (ctl : Ctl) (d : BitVec 6) (a : BitVec 6) (b : BitVec 6)
  /-- PKMUL_F16 (R137). Multiplies two packed f16 pairs element-wise. -/
  | pkmulF16 (ctl : Ctl) (d : BitVec 6) (a : BitVec 6) (b : BitVec 6)
  /-- PKFMA_F16 (R137). Fused multiply-add on packed f16 pairs. -/
  | pkfmaF16 (ctl : Ctl) (d : BitVec 6) (a : BitVec 6) (b : BitVec 6)
  /-- PKADD_BF16 (R137). Adds two packed bf16 pairs element-wise. -/
  | pkaddBf16 (ctl : Ctl) (d : BitVec 6) (a : BitVec 6) (b : BitVec 6)
  /-- PKMUL_BF16 (R137). Multiplies two packed bf16 pairs element-wise. -/
  | pkmulBf16 (ctl : Ctl) (d : BitVec 6) (a : BitVec 6) (b : BitVec 6)
  /-- PKFMA_BF16 (R137). Fused multiply-add on packed bf16 pairs. -/
  | pkfmaBf16 (ctl : Ctl) (d : BitVec 6) (a : BitVec 6) (b : BitVec 6)
  /-- IDP4_S8 (R138). Adds four signed byte products to an accumulator. -/
  | idp4S8 (ctl : Ctl) (d : BitVec 6) (a : BitVec 6) (b : BitVec 6)
  /-- IDP4_N8 (R138). Adds four unsigned byte products to an accumulator. -/
  | idp4N8 (ctl : Ctl) (d : BitVec 6) (a : BitVec 6) (b : BitVec 6)
  /-- QNT (R140). Quantises an f32 datum by its block scale to a binary8 code packed from the top. -/
  | qnt (ctl : Ctl) (d : BitVec 6) (a : BitVec 6) (f : BitVec 5)
  /-- DEQ (R140). Multiplies a binary8 code by its scale and rounds to f32. -/
  | deq (ctl : Ctl) (d : BitVec 6) (a : BitVec 6) (f : BitVec 5)
  /-- SCALE (R100). Computes the S16 power-of-two scale of a block from its largest magnitude. -/
  | scale (ctl : Ctl) (d : BitVec 6) (a : BitVec 6) (f : BitVec 5)
  /-- SACC (R140). Adds a scaled binary8 value into an f32 accumulator (experimental, stepping B1). -/
  | sacc (ctl : Ctl) (d : BitVec 6) (a : BitVec 6) (f : BitVec 5)
  /-- CVT (R139). Converts a value from the source format named by fn to the destination format code. -/
  | cvt (ctl : Ctl) (c : BitVec 3) (d : BitVec 6) (a : BitVec 6) (f : BitVec 6)
  /-- LGET_AT (R142). Reads a 32-bit value from lane n mod W of the group. -/
  | lgetAt (ctl : Ctl) (d : BitVec 6) (a : BitVec 6) (b : BitVec 6)
  /-- LGET_LO (R142). Reads a value from the lane n below. -/
  | lgetLo (ctl : Ctl) (d : BitVec 6) (a : BitVec 6) (b : BitVec 6)
  /-- LGET_HI (R142). Reads a value from the lane n above. -/
  | lgetHi (ctl : Ctl) (d : BitVec 6) (a : BitVec 6) (b : BitVec 6)
  /-- LGET_XR (R142). Reads a value from lane i XOR n. -/
  | lgetXr (ctl : Ctl) (d : BitVec 6) (a : BitVec 6) (b : BitVec 6)
  /-- BALLOT (R143). Gathers a predicate of every active thread into a uniform register. -/
  | ballot (ctl : Ctl) (d : BitVec 6) (p : BitVec 3)
  /-- VOTE_ANY (R144). Sets a uniform predicate when a predicate holds in some active thread. -/
  | voteAny (ctl : Ctl) (q : BitVec 3) (p : BitVec 3)
  /-- VOTE_ALL (R144). Sets a uniform predicate when a predicate holds in every active thread. -/
  | voteAll (ctl : Ctl) (q : BitVec 3) (p : BitVec 3)
  /-- VOTE_SAME (R144). Sets a uniform predicate when a predicate is equal in every active thread. -/
  | voteSame (ctl : Ctl) (q : BitVec 3) (p : BitVec 3)
  /-- GRED (R146). Reduces a register over the group in the fixed tree. -/
  | gred (ctl : Ctl) (d : BitVec 6) (a : BitVec 6) (t : BitVec 3) (o : BitVec 3)
  /-- GSCAN (R146). Gives each thread its inclusive scan over the group in the fixed tree. -/
  | gscan (ctl : Ctl) (d : BitVec 6) (a : BitVec 6) (t : BitVec 3) (o : BitVec 3)
  /-- BXCH (R145). Performs one masked butterfly stage between lanes i and i XOR k. -/
  | bxch (ctl : Ctl) (d : BitVec 6) (a : BitVec 6) (m : BitVec 6) (k : BitVec 3)
  /-- SPAN (R147). Requests a move to a span point, making the arrival checks and parking at the rendezvous. -/
  | span (ctl : Ctl) (p : BitVec 2)
  /-- SPANQ (R149). Writes the curve state of the core and launch to a uniform register. -/
  | spanq (ctl : Ctl) (d : BitVec 6)
  /-- GIVE (R151). Returns the top registers of the group's range to the workgroup's free balance. -/
  | give (ctl : Ctl) (b : BitVec 6)
  /-- CLAIM (R152). Extends the group's register range, refusing or joining the claim queue. -/
  | claim (ctl : Ctl) (b : BitVec 6)
  /-- LDG (R76). Loads per thread from global memory through a translation register. -/
  | ldg (ctl : Ctl) (l : BitVec 4) (r : BitVec 6) (t : BitVec 3) (o : BitVec 6) (w : BitVec 2)
  /-- STG (R77). Stores per thread to global memory through a translation register. -/
  | stg (ctl : Ctl) (r : BitVec 6) (t : BitVec 3) (o : BitVec 6) (w : BitVec 2)
  /-- LDK (R78). Loads once for the group from global memory into a uniform register. -/
  | ldk (ctl : Ctl) (l : BitVec 4) (r : BitVec 6) (t : BitVec 3) (o : BitVec 6) (w : BitVec 2)
  /-- STK (R78). Stores a uniform register once for the group to global memory. -/
  | stk (ctl : Ctl) (r : BitVec 6) (t : BitVec 3) (o : BitVec 6) (w : BitVec 2)
  /-- LDS (R183). Loads from the workgroup's scratchpad allocation. -/
  | lds (ctl : Ctl) (l : BitVec 4) (r : BitVec 6) (o : BitVec 6) (w : BitVec 2)
  /-- STS (R183). Stores to the workgroup's scratchpad allocation. -/
  | sts (ctl : Ctl) (r : BitVec 6) (o : BitVec 6) (w : BitVec 2)
  /-- LDF_TAKE (R184). Waits for a full tagged word, reads it and empties its tag. -/
  | ldfTake (ctl : Ctl) (l : BitVec 4) (r : BitVec 6) (o : BitVec 6)
  /-- LDF_PEEK (R184). Waits for a full tagged word and reads it. -/
  | ldfPeek (ctl : Ctl) (l : BitVec 4) (r : BitVec 6) (o : BitVec 6)
  /-- STE (R184). Waits for an empty tagged word, writes it and fills its tag. -/
  | ste (ctl : Ctl) (l : BitVec 4) (r : BitVec 6) (o : BitVec 6)
  /-- STF (R184). Writes a tagged word and sets its tag full without waiting. -/
  | stf (ctl : Ctl) (r : BitVec 6) (o : BitVec 6)
  /-- TAGQ (R188). Reads 32 tags into a register as one snapshot. -/
  | tagq (ctl : Ctl) (l : BitVec 4) (r : BitVec 6) (o : BitVec 6)
  /-- TAGS (R187). Sets the tags of a range to full or empty without touching data. -/
  | tags (ctl : Ctl) (v : BitVec 1) (o : BitVec 6) (w : BitVec 2)
  /-- LDD (R189). Loads from the distributed scratchpad window. -/
  | ldd (ctl : Ctl) (l : BitVec 4) (r : BitVec 6) (o : BitVec 6) (w : BitVec 2)
  /-- STD (R189). Stores to the distributed scratchpad window. -/
  | std (ctl : Ctl) (r : BitVec 6) (o : BitVec 6) (w : BitVec 2)
  /-- ATOM_ADD (R192). Atomically adds at memory and returns the old value. -/
  | atomAdd (ctl : Ctl) (l : BitVec 4) (r : BitVec 5) (t : BitVec 3) (o : BitVec 6) (w : BitVec 1)
  /-- ATOM_EXCH (R192). Atomically exchanges at memory and returns the old value. -/
  | atomExch (ctl : Ctl) (l : BitVec 4) (r : BitVec 5) (t : BitVec 3) (o : BitVec 6) (w : BitVec 1)
  /-- ATOM_CAS (R192). Atomically compares and swaps at memory and returns the old value. -/
  | atomCas (ctl : Ctl) (l : BitVec 4) (r : BitVec 5) (t : BitVec 3) (o : BitVec 6) (w : BitVec 1)
  /-- ATOM_AND (R192). Atomically ANDs at memory and returns the old value. -/
  | atomAnd (ctl : Ctl) (l : BitVec 4) (r : BitVec 5) (t : BitVec 3) (o : BitVec 6) (w : BitVec 1)
  /-- ATOM_OR (R192). Atomically ORs at memory and returns the old value. -/
  | atomOr (ctl : Ctl) (l : BitVec 4) (r : BitVec 5) (t : BitVec 3) (o : BitVec 6) (w : BitVec 1)
  /-- ATOM_XOR (R192). Atomically XORs at memory and returns the old value. -/
  | atomXor (ctl : Ctl) (l : BitVec 4) (r : BitVec 5) (t : BitVec 3) (o : BitVec 6) (w : BitVec 1)
  /-- ATOM_MIN_S (R192). Atomic signed minimum at memory. -/
  | atomMinS (ctl : Ctl) (l : BitVec 4) (r : BitVec 5) (t : BitVec 3) (o : BitVec 6) (w : BitVec 1)
  /-- ATOM_MAX_S (R192). Atomic signed maximum at memory. -/
  | atomMaxS (ctl : Ctl) (l : BitVec 4) (r : BitVec 5) (t : BitVec 3) (o : BitVec 6) (w : BitVec 1)
  /-- ATOM_MIN_N (R192). Atomic unsigned minimum at memory. -/
  | atomMinN (ctl : Ctl) (l : BitVec 4) (r : BitVec 5) (t : BitVec 3) (o : BitVec 6) (w : BitVec 1)
  /-- ATOM_MAX_N (R192). Atomic unsigned maximum at memory. -/
  | atomMaxN (ctl : Ctl) (l : BitVec 4) (r : BitVec 5) (t : BitVec 3) (o : BitVec 6) (w : BitVec 1)
  /-- ATOM_FADD (R193). Atomic floating-point add at memory with one rne rounding. -/
  | atomFadd (ctl : Ctl) (l : BitVec 4) (r : BitVec 5) (t : BitVec 3) (o : BitVec 6) (w : BitVec 1)
  /-- XLATE (R79). Translates a base once and loads a translation register with base, frame, limit and rights. -/
  | xlate (ctl : Ctl) (l : BitVec 4) (t : BitVec 3) (o : BitVec 6)
  /-- PREF (R80). Requests a line into the L2 and L1 without trapping. -/
  | pref (ctl : Ctl) (l : BitVec 4) (t : BitVec 3) (o : BitVec 6)
  /-- CFLUSH (R201). Writes the dirty bytes of an L1 range to the L2, leaving lines valid. -/
  | cflush (ctl : Ctl) (l : BitVec 4) (t : BitVec 3) (o : BitVec 6)
  /-- CINV (R201). Writes back and drops the L1 lines of a range. -/
  | cinv (ctl : Ctl) (l : BitVec 4) (t : BitVec 3) (o : BitVec 6)
  /-- PHASE (R197). Publishes the group's writes and renews its snapshot at a scope. -/
  | phase (ctl : Ctl) (l : BitVec 4) (t : BitVec 3)
  /-- FENCE (R198). A phase boundary that is also an acquire and a release fence. -/
  | fence (ctl : Ctl) (l : BitVec 4) (t : BitVec 3)
  /-- FENCE_E (R199). Makes earlier writes visible where engines within the scope read. -/
  | fenceE (ctl : Ctl) (l : BitVec 4) (t : BitVec 3)
  /-- RED_32 (R195). Performs a 32-bit atomic operation at memory and returns nothing. -/
  | red32 (ctl : Ctl) (c : BitVec 4) (r : BitVec 6) (t : BitVec 3) (o : BitVec 6)
  /-- RED_64 (R195). Performs a 64-bit atomic operation at memory and returns nothing. -/
  | red64 (ctl : Ctl) (c : BitVec 4) (r : BitVec 6) (t : BitVec 3) (o : BitVec 6)
  /-- COPY (R266). Checks a copy command and hands it with its counter to the copy engine. -/
  | copy (ctl : Ctl) (l : BitVec 4) (x : BitVec 6) (y : BitVec 6)
  /-- WAITGE (R267). Waits until a counter reaches a target, then acquires. -/
  | waitge (ctl : Ctl) (x : BitVec 6) (y : BitVec 6)
  /-- WAITGE_CONTINUATION (R267). Waits on a counter and continues at a continuation PC after a stop. -/
  | waitgeContinuation (ctl : Ctl) (x : BitVec 6) (y : BitVec 6)
  /-- QSTAT (R268). Writes an advisory snapshot of the core's engines to a uniform register. -/
  | qstat (ctl : Ctl) (x : BitVec 6)
  /-- MMA_B8 (R270). Joint binary8 matrix multiply writing the tile's partial planes. -/
  | mmaB8 (ctl : Ctl) (a : BitVec 3) (x : BitVec 6) (c : BitVec 5) (k : BitVec 2)
  /-- MMA_F (R270). Joint f16, bf16 or f32 matrix multiply-accumulate into a tile. -/
  | mmaF (ctl : Ctl) (a : BitVec 3) (x : BitVec 6) (c : BitVec 2) (k : BitVec 2)
  /-- MSCL (R271). Joint command applying S16 scales to a tile's planes into its accumulator. -/
  | mscl (ctl : Ctl) (x : BitVec 6) (a : BitVec 3)
  /-- MZERO (R272). Joint command writing +0 to every accumulator element of a tile. -/
  | mzero (ctl : Ctl) (a : BitVec 3)
  /-- ACCLD (R272). Joint command loading a tile's accumulator from a scratchpad image. -/
  | accld (ctl : Ctl) (x : BitVec 6) (a : BitVec 3)
  /-- ACCST (R272). Joint command storing a tile's accumulator as a scratchpad image. -/
  | accst (ctl : Ctl) (x : BitVec 6) (a : BitVec 3)
  /-- MWAIT (R273). Waits until the quad's commands naming a tile, or all of them, have completed. -/
  | mwait (ctl : Ctl) (w : BitVec 1) (a : BitVec 3)
  /-- CHSEND (R277). Sends a register's lanes as entries on an outbound channel. -/
  | chsend (ctl : Ctl) (x : BitVec 6) (c : BitVec 3)
  /-- CHRECV (R277). Receives entries from an inbound channel into a register. -/
  | chrecv (ctl : Ctl) (l : BitVec 4) (x : BitVec 6) (c : BitVec 3)
  /-- CHPOLL (R277). Tests whether a channel receive or send would wait. -/
  | chpoll (ctl : Ctl) (x : BitVec 3) (c : BitVec 3) (k : BitVec 1)
  /-- LDSTEP (R254). Reads a word per lane from another core's step buffer at a step, waiting or trapping STEP_STALE. -/
  | ldstep (ctl : Ctl) (l : BitVec 4) (x : BitVec 6) (y : BitVec 5) (k : BitVec 2)
  /-- RETS (R257). Parks the group to hand the workgroup to a successor kernel under an inheritance mask. -/
  | rets (ctl : Ctl) (x : BitVec 6) (y : BitVec 6)
  /-- LAUNCH (R260). Copies a launch packet into the die's pending-launch pool, or refuses. -/
  | launch (ctl : Ctl) (l : BitVec 4) (x : BitVec 6)
  /-- ACCLD_FRAME_IMAGE (R276). In supervisor mode loads a whole frame image and assigns the frame to its owner. -/
  | accldFrameImage (ctl : Ctl) (x : BitVec 6)
  /-- ACCST_FRAME_IMAGE (R276). In supervisor mode writes a whole frame image to physical memory and frees the frame. -/
  | accstFrameImage (ctl : Ctl) (x : BitVec 6)
  /-- STEPEND (R251). Ends the core's current step for the group and holds it. -/
  | stepend (ctl : Ctl)
  /-- SLOT (R278). Computes the offset of a step buffer's slot for a step. -/
  | slot (ctl : Ctl) (x : BitVec 6) (y : BitVec 6) (k : BitVec 2)
  /-- NPOST (R281). Posts a receive descriptor and counter on a network receive queue. -/
  | npost (ctl : Ctl) (l : BitVec 4) (x : BitVec 6) (y : BitVec 6)
  /-- SCHED (R31). Hint word giving gaps and give-way bits for four instructions. -/
  | sched (p : BitVec 24)
  /-- IMM (R32). Hint word supplying a 24-bit immediate to its run's instruction. -/
  | imm (p : BitVec 24)
  /-- MOD (R33). Hint word giving rare modifiers to its run's instruction. -/
  | mod (p : BitVec 24)
  /-- LIVE (R34). Hint word naming the state a preceding safe point leaves live. -/
  | live (p : BitVec 24)
  /-- LOAD_RESULT_LANDING (R26). A long-latency instruction's result lands in its thread's registers, completing it and possibly raising its fault. -/
  | loadResultLanding (g : GKey) (k : Nat)
  /-- PAGE_TABLE_WALK (R174). The cluster walker serves a TLB miss in arrival order and fills a leaf under the lease. -/
  | pageTableWalk (core : Nat) (va : DWord)
  /-- NOPRE_WINDOW_EXPIRY (R83). A NOPRE window closes 65,536 core cycles after the NOPRE. -/
  | nopreWindowExpiry (g : GKey)
  /-- DOZE_WAKE (R20). The time base reaches a doze's instant and the group continues. -/
  | dozeWake (g : GKey)
  /-- TAG_STEP_PERFORMED (R184). A waiting lane's tagged step is performed once the tag reaches the needed state. -/
  | tagStepPerformed (g : GKey) (k : Nat)
  /-- ATOMIC_SERVICE_REQUEST (R190). The owner cluster's service group performs an arriving ATOM or RED indivisibly on its location. -/
  | atomicServiceRequest (k : Nat)
  /-- COPY_COMPLETION (R229). The copy engine has written every word and performs the counter increment. -/
  | copyCompletion (id : Nat)
  /-- COUNTER_WAIT_SATISFIED (R232). A counter wait becomes satisfied, acquires and continues. -/
  | counterWaitSatisfied (g : GKey)
  /-- MATRIX_COMMAND_ENTRY (R234). A jointly issued matrix command enters the engine once capacity and a frame allow. -/
  | matrixCommandEntry (wg quad : Nat)
  /-- MATRIX_COMMAND_COMPLETION (R237). The engine completes a command and starts the next in entry order. -/
  | matrixCommandCompletion (core : Nat)
  /-- CHANNEL_ENTRY_ARRIVAL (R244). Entries in transit arrive at an inbound channel in send order. -/
  | channelEntryArrival (launch k : Nat)
  /-- TOY_BOX_EXTENSION (R245). A send that has waited 4,096 cycles on a full channel extends it into its toy box. -/
  | toyBoxExtension (launch k : Nat)
  /-- WAIT_FOR_CHECKER_REPORT (R247). The checker reports a closed set of waiting groups, which trap WAITCYCLE or CLAIM_DEADLOCK. -/
  | waitForCheckerReport
  /-- SPAN_ENERGY_GRANT (R116). The puppeteer grants the energy for a span target, accepting the move. -/
  | spanEnergyGrant (core : Nat)
  /-- SPAN_ENERGY_TIMEOUT (R116). No energy grant within 50 µs refuses every parked group with ENERGY. -/
  | spanEnergyTimeout (core : Nat)
  /-- SPAN_MOVE_RESUME (R117). After drain, slew and regrouping the groups resume after SPAN with c7 = 1. -/
  | spanMoveResume (core : Nat)
  /-- STEP_END_ARRIVAL (R338). A core's end of step reaches a core that names it, releasing waiting step reads. -/
  | stepEndArrival (launch src dst : Nat)
  /-- STEP_BEGIN (R252). A core begins its next step once its own and its neighbours' conditions hold. -/
  | stepBegin (launch core : Nat)
  /-- RETS_HANDOVER (R258). After waits for commands and copies, the workgroup is scrubbed and the successor starts. -/
  | retsHandover (wg : Nat)
  /-- WORKGROUP_RETIREMENT (R233). A retiring workgroup waits for copies into its allocation, scrubs and returns its resources. -/
  | workgroupRetirement (wg : Nat)
  /-- LAUNCH_PORT_SUBMIT (R287). An 8-byte store of a packet address to the launch port submits and checks the packet. -/
  | launchPortSubmit (port : LaunchPort) (value : DWord)
  /-- LAUNCH_PORT_KILL (R287). A supervisor store of a packet address to offset 0x10 ends that launch with KILLED. -/
  | launchPortKill (ctx : BitVec 16) (value : DWord) (supervisor : Bool)
  /-- HOME_QUERY (R180). The hub answers a page home query with the home word. -/
  | homeQuery (ctx : BitVec 16) (va : DWord)
  /-- WORKGROUP_PLACEMENT (R295). A die's dispatcher places the head launch's next workgroup when room and energy allow. -/
  | workgroupPlacement (die : Nat)
  /-- PREEMPTION_REQUEST (R298). After the head waits 10 ms the dispatcher requests the save of chosen victims. -/
  | preemptionRequest (die : Nat)
  /-- PREEMPT_OVERDUE (R298). The grace time expires with a victim unsaved: trace record and possible end of its launch. -/
  | preemptOverdue (wg : Nat)
  /-- WORKGROUP_SAVE (R312). With every group parked the core drains commands and copies and writes the save area. -/
  | workgroupSave (wg : Nat)
  /-- PARKED_GROUPS_UNPARK (R313). When the unparked groups wait only on parked groups, every parked group resumes. -/
  | parkedGroupsUnpark (wg : Nat)
  /-- WORKGROUP_RESTORE (R315). A saved workgroup is rebuilt from its save area on an eligible core and resumes. -/
  | workgroupRestore (wg core : Nat)
  /-- LAUNCH_COMPLETION (R299). After the last retirement and increments the lease ends, STATUS is written and the counter incremented. -/
  | launchCompletion (launch : Nat)
  /-- LAUNCH_END_COMPLETION (R299). Once its engine commands finish the ended launch scrubs, ends its lease, writes STATUS 5 and increments. -/
  | launchEndCompletion (launch : Nat)
  /-- STORAGE_ERROR (R318). A detected storage error is corrected, refetched or turned into poison. -/
  | storageError (e : StorageError)
  /-- FLOOR_FREEZE_LIFT (R325). 24 h after a first crossing with no second, adaptation resumes. -/
  | floorFreezeLift (core : Nat)
  /-- DROOP_REGULATION (R359). Every 10 ns a core regulator follows the minimum of its droop sensors. -/
  | droopRegulation (core : Nat) (readings : List Nat)
  /-- SUPPLY_PATH_TEST (R360). Every 10 ms the bump-field drop is tested and a second excess withdraws a point. -/
  | supplyPathTest (cluster : Nat) (r : SupplyReading)
  /-- THERMAL_HEADROOM_REPORT (R297). A die near its thermal limit makes the dispatcher start movable launches at the lowest-power point. -/
  | thermalHeadroomReport (die : Nat) (sensors : List Int)
  /-- IN_FIELD_TEST_DUE (R326). A test falling due on a cluster stops placement and parks every resident workgroup. -/
  | inFieldTestDue (cluster : Nat)
  /-- IN_FIELD_TEST_DEADLINE (R326). After 2 ms with groups unparked the attempt is missed and retried after 100 ms. -/
  | inFieldTestDeadline (cluster : Nat)
  /-- INPUT_VOLTAGE_FAULT (R357). The 48 V input outside 40–60 V for 1 ms ends every launch and powers the dies down. -/
  | inputVoltageFault
  /-- BRING_UP (R364). On power the module comes up in nine ordered steps. -/
  | bringUp (fw : Firmware)
  /-- ATTESTATION_REPORT (R363). On request the management core signs an attestation report. -/
  | attestationReport (r : ReportRequest)
  /-- LINK_FLIT_REPLAY (R334). A die-to-die flit failing its CRC is replayed, or the link retrains. -/
  | linkFlitReplay (link : Nat)
  /-- LINK_RETRAIN (R334). A link retrains within 50 µs or is mapped out and routed through the hub. -/
  | linkRetrain (link : Nat) (ok : Bool)
  /-- NETWORK_MESSAGE_RECEIVE (R282). An arriving message matches a posted entry, writes the buffer and increments the counter. -/
  | networkMessageReceive (m : Message)
  /-- NO_BUFFER_RETRANSMIT (R342). After a no-buffer response the sender retransmits with a doubling interval. -/
  | noBufferRetransmit (r : SendRetry)
  /-- SEND_QUEUE_TIMEOUT (R342). At the queue's timeout the send queue enters an error state without incrementing. -/
  | sendQueueTimeout (msg : Nat)
  /-- SEND_ACKNOWLEDGEMENT (R341). Acknowledgement of a message's last packet performs the sender's counter increment. -/
  | sendAcknowledgement (msg : Nat)
  /-- TRIMMED_PACKET_RECEIVE (R340). A received trimmed packet requests retransmission and writes no data. -/
  | trimmedPacketReceive (port queue : Nat)
  /-- UNSUPPORTED_PACKET_DROP (R340). A packet using an unsupported feature is answered or dropped with a trace record. -/
  | unsupportedPacketDrop (port queue : Nat) (peer : DWord) (answer : Bool)
  /-- PTP_EVENT_MESSAGE (R346). A PTP event message is timestamped and disciplines the time base. -/
  | ptpEventMessage (src : PtpSource) (stamp : DWord) (ppm : Int)
  /-- PTP_MASTER_LOSS (R345). Loss of the PTP master moves firmware to another port within 1 s. -/
  | ptpMasterLoss (port : Nat)
  /-- ILLEGAL_WORD_FETCH (R39). A word fetched for issue that cannot execute traps ILLEGAL or CODE_BOUNDS: it has major 0x3E or 0x3F or an ILLEGAL minor, it is an E opcode of another stepping, or its address lies outside the code extent. -/
  | illegalWordFetch (why : FetchFault)
  /-- IN_FIELD_TEST_END (R326). An in-field test of a cluster finishes; the atomic service returns to the cluster and the dispatcher places workgroups there again. -/
  | inFieldTestEnd (cluster : Nat)
  /-- APPLICATION_CORE_ACCESS (R366). An application core performs a plain store or an atomic to global memory, which may be a release at .sys, for example raising a gate. -/
  | applicationCoreAccess (a : AppAccess)
  /-- NETWORK_QUEUE_OPEN (R339). The operating system opens a send or receive queue for a launch through the hub, or reopens a send queue that is in the error state. -/
  | networkQueueOpen (q : QueueSpec)
  /-- CODE_OBJECT_LOAD (R352). The loader checks a code object and, if it passes, records it as accepted for one address space. -/
  | codeObjectLoad (ctx : BitVec 16) (header : Nat)
  deriving DecidableEq, Repr

end Sys2Proof
end

