-- ==== Sys2Proof/WellFormed.lean ====
section
/-!
DEFINITION. WellFormed.lean: the listed values of R37 and R38. The opcode map places the fields of a word; a field that
must hold one of several listed values is checked here, and a word that fails is the illegal word of check 2 of R30.
-/

namespace Sys2Proof

/-- R38: a binary8 code of five bits has a precision from 1 to 7. -/
def binary8Code (f : Nat) : Bool := f % 8 != 0

/-- R139: the destination codes of CVT: the binary8 codes, f16 to f64, and the integer types. -/
def cvtCode (f : Nat) : Bool := (f < 0x20 && binary8Code f) || (0x20 ≤ f && f ≤ 0x2B)

/-- R37: the type and operation pairs of GRED and GSCAN: add, min and max with s32, n32 and f32; and, or and xor with
b32. -/
def redPair (t o : Nat) : Bool := (t ≤ 2 && o ≤ 2) || (t == 3 && 3 ≤ o && o ≤ 5)

/-- R197 to R199: a scope that PHASE, FENCE and FENCE.e can name. -/
def scopeCode (t : Nat) : Bool := 1 ≤ t && t ≤ 6

/-- R37, R38: every field of the instruction holds a value that the spec lists for it. -/
def wellFormed : Instr → Bool
  | .trap _ _ => true
  | .svc _ _ => true
  | .eret _ => true
  | .nop _ => true
  | .idem _ => true
  | .nopre _ => true
  | .preon _ => true
  | .ifence _ => true
  | .rdsr _ _ a => a.toNat ≤ 0x14
  | .wrsr _ d _ => d.toNat ≤ 0x14
  | .time _ _ => true
  | .doze _ _ => true
  | .icinv _ _ _ => true
  | .braLane _ _ _ => true
  | .braUniform _ _ _ => true
  | .call _ _ _ => true
  | .conv _ _ => true
  | .loop _ _ _ => true
  | .brx _ _ => true
  | .ret _ _ => true
  | .exit _ => true
  | .iadd _ _ _ _ => true
  | .isub _ _ _ _ => true
  | .imul _ _ _ _ => true
  | .imulhS _ _ _ _ => true
  | .imulhN _ _ _ _ => true
  | .imad _ _ _ _ => true
  | .iminS _ _ _ _ => true
  | .iminN _ _ _ _ => true
  | .imaxS _ _ _ _ => true
  | .imaxN _ _ _ _ => true
  | .idivS _ _ _ _ => true
  | .idivN _ _ _ _ => true
  | .iremS _ _ _ _ => true
  | .iremN _ _ _ _ => true
  | .iabs _ _ _ => true
  | .ineg _ _ _ => true
  | .iaddPair _ _ _ _ => true
  | .isubPair _ _ _ _ => true
  | .imulPair _ _ _ _ => true
  | .imulhSPair _ _ _ _ => true
  | .imulhNPair _ _ _ _ => true
  | .imadPair _ _ _ _ => true
  | .iminSPair _ _ _ _ => true
  | .iminNPair _ _ _ _ => true
  | .imaxSPair _ _ _ _ => true
  | .imaxNPair _ _ _ _ => true
  | .idivSPair _ _ _ _ => true
  | .idivNPair _ _ _ _ => true
  | .iremSPair _ _ _ _ => true
  | .iremNPair _ _ _ _ => true
  | .iabsPair _ _ _ => true
  | .inegPair _ _ _ => true
  | .icmp _ c _ _ _ _ => c.toNat != 7
  | .and _ _ _ _ => true
  | .or _ _ _ _ => true
  | .xor _ _ _ _ => true
  | .andn _ _ _ _ => true
  | .orn _ _ _ _ => true
  | .shl _ _ _ _ => true
  | .shrl _ _ _ _ => true
  | .shra _ _ _ _ => true
  | .andPair _ _ _ _ => true
  | .orPair _ _ _ _ => true
  | .xorPair _ _ _ _ => true
  | .andnPair _ _ _ _ => true
  | .ornPair _ _ _ _ => true
  | .shlPair _ _ _ _ => true
  | .shrlPair _ _ _ _ => true
  | .shraPair _ _ _ _ => true
  | .rotl _ _ _ _ => true
  | .clz _ _ _ => true
  | .ctz _ _ _ => true
  | .popc _ _ _ => true
  | .brev _ _ _ => true
  | .bfxN _ _ _ _ => true
  | .bfxS _ _ _ _ => true
  | .bsel _ _ _ _ => true
  | .rotlPair _ _ _ _ => true
  | .clzPair _ _ _ => true
  | .ctzPair _ _ _ => true
  | .popcPair _ _ _ => true
  | .brevPair _ _ _ => true
  | .bfxNPair _ _ _ _ => true
  | .bfxSPair _ _ _ _ => true
  | .bfiB32 _ _ _ _ => true
  | .bfiB64 _ _ _ _ => true
  | .movB32 _ _ _ => true
  | .movB64 _ _ _ => true
  | .movB128 _ _ _ => true
  | .pmovToReg _ _ => true
  | .pmovToPred _ _ => true
  | .sel _ _ _ _ _ => true
  | .iaddImm _ _ _ _ => true
  | .iaddImmPair _ _ _ _ => true
  | .movi _ _ _ _ => true
  | .plut _ _ _ _ _ _ _ => true
  | .lea _ _ _ _ _ => true
  | .iaddU _ _ _ _ => true
  | .isubU _ _ _ _ => true
  | .imulU _ _ _ _ => true
  | .imulhSU _ _ _ _ => true
  | .imulhNU _ _ _ _ => true
  | .imadU _ _ _ _ => true
  | .iminSU _ _ _ _ => true
  | .iminNU _ _ _ _ => true
  | .imaxSU _ _ _ _ => true
  | .imaxNU _ _ _ _ => true
  | .idivSU _ _ _ _ => true
  | .idivNU _ _ _ _ => true
  | .iremSU _ _ _ _ => true
  | .iremNU _ _ _ _ => true
  | .iabsU _ _ _ => true
  | .inegU _ _ _ => true
  | .icmpU _ c _ _ _ => c.toNat != 7
  | .andU _ _ _ _ => true
  | .orU _ _ _ _ => true
  | .xorU _ _ _ _ => true
  | .andnU _ _ _ _ => true
  | .ornU _ _ _ _ => true
  | .shlU _ _ _ _ => true
  | .shrlU _ _ _ _ => true
  | .shraU _ _ _ _ => true
  | .rotlU _ _ _ _ => true
  | .clzU _ _ _ => true
  | .ctzU _ _ _ => true
  | .popcU _ _ _ => true
  | .brevU _ _ _ => true
  | .bfxNU _ _ _ _ => true
  | .bfxSU _ _ _ _ => true
  | .bfiU _ _ _ _ => true
  | .movU _ _ _ => true
  | .pmovCToS _ _ => true
  | .pmovSToC _ _ => true
  | .selU _ _ _ _ _ => true
  | .leaU _ _ _ _ _ => true
  | .fadd _ _ _ _ => true
  | .fsub _ _ _ _ => true
  | .fmul _ _ _ _ => true
  | .ffma _ _ _ _ => true
  | .fmin _ _ _ _ => true
  | .fmax _ _ _ _ => true
  | .fdiv _ _ _ _ => true
  | .fsqrt _ _ _ => true
  | .frnd _ _ _ => true
  | .frcp _ _ _ => true
  | .frsq _ _ _ => true
  | .fexp2 _ _ _ => true
  | .flog2 _ _ _ => true
  | .fsin _ _ _ => true
  | .fcos _ _ _ => true
  | .fclass _ _ _ => true
  | .faddF64 _ _ _ _ => true
  | .fsubF64 _ _ _ _ => true
  | .fmulF64 _ _ _ _ => true
  | .ffmaF64 _ _ _ _ => true
  | .fminF64 _ _ _ _ => true
  | .fmaxF64 _ _ _ _ => true
  | .fdivF64 _ _ _ _ => true
  | .fsqrtF64 _ _ _ => true
  | .frndF64 _ _ _ => true
  | .frcpF64 _ _ _ => true
  | .frsqF64 _ _ _ => true
  | .fclassF64 _ _ _ => true
  | .fcmp _ c _ _ _ _ => c.toNat ≤ 5
  | .pkaddF16 _ _ _ _ => true
  | .pkmulF16 _ _ _ _ => true
  | .pkfmaF16 _ _ _ _ => true
  | .pkaddBf16 _ _ _ _ => true
  | .pkmulBf16 _ _ _ _ => true
  | .pkfmaBf16 _ _ _ _ => true
  | .idp4S8 _ _ _ _ => true
  | .idp4N8 _ _ _ _ => true
  | .qnt _ _ _ f => binary8Code f.toNat
  | .deq _ _ _ f => binary8Code f.toNat
  | .scale _ _ _ f => binary8Code f.toNat
  | .sacc _ _ _ f => binary8Code f.toNat
  | .cvt _ _ _ _ f => cvtCode f.toNat
  | .lgetAt _ _ _ _ => true
  | .lgetLo _ _ _ _ => true
  | .lgetHi _ _ _ _ => true
  | .lgetXr _ _ _ _ => true
  | .ballot _ _ _ => true
  | .voteAny _ _ _ => true
  | .voteAll _ _ _ => true
  | .voteSame _ _ _ => true
  | .gred _ _ _ t o => redPair t.toNat o.toNat
  | .gscan _ _ _ t o => redPair t.toNat o.toNat
  | .bxch _ _ _ _ k => k.toNat != 7
  | .span _ _ => true
  | .spanq _ _ => true
  | .give _ b => 1 ≤ b.toNat && b.toNat ≤ 8
  | .claim _ b => 1 ≤ b.toNat && b.toNat ≤ 8
  | .ldg _ _ _ _ _ _ => true
  | .stg _ _ _ _ _ => true
  | .ldk _ _ r _ _ w => w.toNat != 2 || r.toNat % 2 == 0
  | .stk _ r _ _ w => w.toNat != 2 || r.toNat % 2 == 0
  | .lds _ _ _ _ _ => true
  | .sts _ _ _ _ => true
  | .ldfTake _ _ _ _ => true
  | .ldfPeek _ _ _ _ => true
  | .ste _ _ _ _ => true
  | .stf _ _ _ => true
  | .tagq _ _ _ _ => true
  | .tags _ _ _ _ => true
  | .ldd _ _ _ _ _ => true
  | .std _ _ _ _ => true
  | .atomAdd _ _ _ _ _ _ => true
  | .atomExch _ _ _ _ _ _ => true
  | .atomCas _ _ _ _ _ _ => true
  | .atomAnd _ _ _ _ _ _ => true
  | .atomOr _ _ _ _ _ _ => true
  | .atomXor _ _ _ _ _ _ => true
  | .atomMinS _ _ _ _ _ _ => true
  | .atomMaxS _ _ _ _ _ _ => true
  | .atomMinN _ _ _ _ _ _ => true
  | .atomMaxN _ _ _ _ _ _ => true
  | .atomFadd _ _ _ _ _ _ => true
  | .xlate _ _ _ _ => true
  | .pref _ _ _ _ => true
  | .cflush _ _ _ _ => true
  | .cinv _ _ _ _ => true
  | .phase _ _ t => scopeCode t.toNat
  | .fence _ _ t => scopeCode t.toNat
  | .fenceE _ _ t => scopeCode t.toNat
  | .red32 _ c _ _ _ => c.toNat ≤ 8
  | .red64 _ c _ _ _ => c.toNat ≤ 8
  | .copy _ _ x _ => x.toNat % 4 == 0 && 4 ≤ x.toNat
  | .waitge _ _ _ => true
  | .waitgeContinuation _ _ _ => true
  | .qstat _ _ => true
  | .mmaB8 _ _ _ c k => binary8Code c.toNat && k.toNat != 3
  | .mmaF _ _ _ c k => c.toNat ≤ 2 && k.toNat != 3
  | .mscl _ _ _ => true
  | .mzero _ _ => true
  | .accld _ _ _ => true
  | .accst _ _ _ => true
  | .accldFrameImage _ _ => true
  | .accstFrameImage _ _ => true
  | .mwait _ w a => w == 0 || a == 0
  | .chsend _ _ _ => true
  | .chrecv _ _ _ _ => true
  | .chpoll _ _ _ _ => true
  | .stepend _ => true
  | .slot _ _ _ _ => true
  | .ldstep _ _ _ _ _ => true
  | .rets _ _ _ => true
  | .launch _ _ _ => true
  | .npost _ _ _ _ => true
  | .sched _ => true
  | .imm _ => true
  | .mod _ => true
  | .live _ => true
  | .loadResultLanding _ _ => true
  | .pageTableWalk _ _ => true
  | .nopreWindowExpiry _ => true
  | .dozeWake _ => true
  | .tagStepPerformed _ _ => true
  | .atomicServiceRequest _ => true
  | .copyCompletion _ => true
  | .counterWaitSatisfied _ => true
  | .matrixCommandEntry _ _ => true
  | .matrixCommandCompletion _ => true
  | .channelEntryArrival _ _ => true
  | .toyBoxExtension _ _ => true
  | .waitForCheckerReport => true
  | .spanEnergyGrant _ => true
  | .spanEnergyTimeout _ => true
  | .spanMoveResume _ => true
  | .stepEndArrival _ _ _ => true
  | .stepBegin _ _ => true
  | .retsHandover _ => true
  | .workgroupRetirement _ => true
  | .launchPortSubmit _ _ => true
  | .launchPortKill _ _ _ => true
  | .homeQuery _ _ => true
  | .workgroupPlacement _ => true
  | .preemptionRequest _ => true
  | .preemptOverdue _ => true
  | .workgroupSave _ => true
  | .parkedGroupsUnpark _ => true
  | .workgroupRestore _ _ => true
  | .launchCompletion _ => true
  | .launchEndCompletion _ => true
  | .storageError _ => true
  | .floorFreezeLift _ => true
  | .droopRegulation _ _ => true
  | .supplyPathTest _ _ => true
  | .thermalHeadroomReport _ _ => true
  | .inFieldTestDue _ => true
  | .inFieldTestDeadline _ => true
  | .inputVoltageFault => true
  | .bringUp _ => true
  | .attestationReport _ => true
  | .linkFlitReplay _ => true
  | .linkRetrain _ _ => true
  | .networkMessageReceive _ => true
  | .noBufferRetransmit _ => true
  | .sendQueueTimeout _ => true
  | .sendAcknowledgement _ => true
  | .trimmedPacketReceive _ _ => true
  | .unsupportedPacketDrop _ _ _ _ => true
  | .ptpEventMessage _ _ _ => true
  | .ptpMasterLoss _ => true
  | .illegalWordFetch _ => true
  | .inFieldTestEnd _ => true
  | .applicationCoreAccess _ => true
  | .networkQueueOpen _ => true
  | .codeObjectLoad _ _ => true

end Sys2Proof
end

