-- ==== Sys2Proof/Decode.lean ====
section
/-!
DEFINITION. Decode.lean: from words to instructions, total, and back. Bit positions are those of R22, R23 and the opcode
map (R35, R37) as spec/opcode_table.json lists them.
-/

namespace Sys2Proof

/-- Bits [lo + w - 1 : lo] of a word. -/
def fld (n lo w : Nat) : Nat := n / 2 ^ lo % 2 ^ w

/-- The fields SP, N and PI of a non-hint word (R22). -/
def ctlOf (n : Nat) : Ctl :=
  { sp := fld n 25 1 == 1, n := fld n 24 1 == 1, pi := .ofNat 3 (fld n 21 3) }

/-- The same fields in place (R22). -/
def Ctl.bits (c : Ctl) : Nat := c.sp.toNat * 33554432 + c.n.toNat * 16777216 + c.pi.toNat * 2097152

/-- Major 0x00 (R35, R37): the rows of the opcode map under this major. -/
def decode00 (n : Nat) : Option Instr :=
  if fld n 18 3 = 0 then some (.trap (ctlOf n) (.ofNat 18 (fld n 0 18))) else
  if fld n 18 3 = 1 then some (.svc (ctlOf n) (.ofNat 18 (fld n 0 18))) else
  if fld n 0 21 = 524288 then some (.eret (ctlOf n)) else
  if fld n 0 21 = 786432 then some (.nop (ctlOf n)) else
  if fld n 0 21 = 1048576 then some (.idem (ctlOf n)) else
  if fld n 0 21 = 1310720 then some (.nopre (ctlOf n)) else
  if fld n 0 21 = 1572864 then some (.preon (ctlOf n)) else
  if fld n 0 21 = 1835008 then some (.ifence (ctlOf n)) else
  none

/-- Major 0x01 (R35, R37): the rows of the opcode map under this major. -/
def decode01 (n : Nat) : Option Instr :=
  if fld n 0 6 = 0 ∧ fld n 18 3 = 0 then some (.rdsr (ctlOf n) (.ofNat 6 (fld n 12 6)) (.ofNat 6 (fld n 6 6))) else
  if fld n 0 6 = 0 ∧ fld n 18 3 = 1 then some (.wrsr (ctlOf n) (.ofNat 6 (fld n 12 6)) (.ofNat 6 (fld n 6 6))) else
  if fld n 0 12 = 0 ∧ fld n 18 3 = 2 then some (.time (ctlOf n) (.ofNat 6 (fld n 12 6))) else
  if fld n 0 6 = 0 ∧ fld n 12 9 = 192 then some (.doze (ctlOf n) (.ofNat 6 (fld n 6 6))) else
  if fld n 12 9 = 256 then some (.icinv (ctlOf n) (.ofNat 6 (fld n 6 6)) (.ofNat 6 (fld n 0 6))) else
  none

/-- Major 0x02 (R35, R37): the rows of the opcode map under this major. -/
def decode02 (n : Nat) : Option Instr :=
  some (.braLane (ctlOf n) (.ofNat 2 (fld n 19 2)) (.ofNat 19 (fld n 0 19)))

/-- Major 0x03 (R35, R37): the rows of the opcode map under this major. -/
def decode03 (n : Nat) : Option Instr :=
  some (.braUniform (ctlOf n) (.ofNat 2 (fld n 19 2)) (.ofNat 19 (fld n 0 19)))

/-- Major 0x04 (R35, R37): the rows of the opcode map under this major. -/
def decode04 (n : Nat) : Option Instr :=
  some (.call (ctlOf n) (.ofNat 2 (fld n 19 2)) (.ofNat 19 (fld n 0 19)))

/-- Major 0x05 (R35, R37): the rows of the opcode map under this major. -/
def decode05 (n : Nat) : Option Instr :=
  if fld n 19 6 = 0 then some (.conv (fld n 25 1 == 1) (.ofNat 19 (fld n 0 19))) else
  none

/-- Major 0x06 (R35, R37): the rows of the opcode map under this major. -/
def decode06 (n : Nat) : Option Instr :=
  if fld n 9 6 = 0 then some (.loop (ctlOf n) (.ofNat 6 (fld n 15 6)) (.ofNat 9 (fld n 0 9))) else
  none

/-- Major 0x07 (R35, R37): the rows of the opcode map under this major. -/
def decode07 (n : Nat) : Option Instr :=
  if fld n 0 6 = 0 ∧ fld n 12 9 = 0 then some (.brx (ctlOf n) (.ofNat 6 (fld n 6 6))) else
  if fld n 0 6 = 0 ∧ fld n 12 9 = 64 then some (.ret (ctlOf n) (.ofNat 6 (fld n 6 6))) else
  if fld n 0 21 = 524288 then some (.exit (ctlOf n)) else
  none

/-- Major 0x08 (R35, R37): the rows of the opcode map under this major. -/
def decode08 (n : Nat) : Option Instr :=
  if fld n 18 3 = 0 then some (.iadd (ctlOf n) (.ofNat 6 (fld n 12 6)) (.ofNat 6 (fld n 6 6)) (.ofNat 6 (fld n 0 6))) else
  if fld n 18 3 = 1 then some (.isub (ctlOf n) (.ofNat 6 (fld n 12 6)) (.ofNat 6 (fld n 6 6)) (.ofNat 6 (fld n 0 6))) else
  if fld n 18 3 = 2 then some (.imul (ctlOf n) (.ofNat 6 (fld n 12 6)) (.ofNat 6 (fld n 6 6)) (.ofNat 6 (fld n 0 6))) else
  if fld n 18 3 = 3 then some (.imulhS (ctlOf n) (.ofNat 6 (fld n 12 6)) (.ofNat 6 (fld n 6 6)) (.ofNat 6 (fld n 0 6))) else
  if fld n 18 3 = 4 then some (.imulhN (ctlOf n) (.ofNat 6 (fld n 12 6)) (.ofNat 6 (fld n 6 6)) (.ofNat 6 (fld n 0 6))) else
  if fld n 18 3 = 5 then some (.imad (ctlOf n) (.ofNat 6 (fld n 12 6)) (.ofNat 6 (fld n 6 6)) (.ofNat 6 (fld n 0 6))) else
  if fld n 18 3 = 6 then some (.iminS (ctlOf n) (.ofNat 6 (fld n 12 6)) (.ofNat 6 (fld n 6 6)) (.ofNat 6 (fld n 0 6))) else
  if fld n 18 3 = 7 then some (.iminN (ctlOf n) (.ofNat 6 (fld n 12 6)) (.ofNat 6 (fld n 6 6)) (.ofNat 6 (fld n 0 6))) else
  none

/-- Major 0x09 (R35, R37): the rows of the opcode map under this major. -/
def decode09 (n : Nat) : Option Instr :=
  if fld n 18 3 = 0 then some (.imaxS (ctlOf n) (.ofNat 6 (fld n 12 6)) (.ofNat 6 (fld n 6 6)) (.ofNat 6 (fld n 0 6))) else
  if fld n 18 3 = 1 then some (.imaxN (ctlOf n) (.ofNat 6 (fld n 12 6)) (.ofNat 6 (fld n 6 6)) (.ofNat 6 (fld n 0 6))) else
  if fld n 18 3 = 2 then some (.idivS (ctlOf n) (.ofNat 6 (fld n 12 6)) (.ofNat 6 (fld n 6 6)) (.ofNat 6 (fld n 0 6))) else
  if fld n 18 3 = 3 then some (.idivN (ctlOf n) (.ofNat 6 (fld n 12 6)) (.ofNat 6 (fld n 6 6)) (.ofNat 6 (fld n 0 6))) else
  if fld n 18 3 = 4 then some (.iremS (ctlOf n) (.ofNat 6 (fld n 12 6)) (.ofNat 6 (fld n 6 6)) (.ofNat 6 (fld n 0 6))) else
  if fld n 18 3 = 5 then some (.iremN (ctlOf n) (.ofNat 6 (fld n 12 6)) (.ofNat 6 (fld n 6 6)) (.ofNat 6 (fld n 0 6))) else
  if fld n 0 6 = 0 ∧ fld n 18 3 = 6 then some (.iabs (ctlOf n) (.ofNat 6 (fld n 12 6)) (.ofNat 6 (fld n 6 6))) else
  if fld n 0 6 = 0 ∧ fld n 18 3 = 7 then some (.ineg (ctlOf n) (.ofNat 6 (fld n 12 6)) (.ofNat 6 (fld n 6 6))) else
  none

/-- Major 0x0A (R35, R37): the rows of the opcode map under this major. -/
def decode0A (n : Nat) : Option Instr :=
  if fld n 18 3 = 0 then some (.iaddPair (ctlOf n) (.ofNat 6 (fld n 12 6)) (.ofNat 6 (fld n 6 6)) (.ofNat 6 (fld n 0 6))) else
  if fld n 18 3 = 1 then some (.isubPair (ctlOf n) (.ofNat 6 (fld n 12 6)) (.ofNat 6 (fld n 6 6)) (.ofNat 6 (fld n 0 6))) else
  if fld n 18 3 = 2 then some (.imulPair (ctlOf n) (.ofNat 6 (fld n 12 6)) (.ofNat 6 (fld n 6 6)) (.ofNat 6 (fld n 0 6))) else
  if fld n 18 3 = 3 then some (.imulhSPair (ctlOf n) (.ofNat 6 (fld n 12 6)) (.ofNat 6 (fld n 6 6)) (.ofNat 6 (fld n 0 6))) else
  if fld n 18 3 = 4 then some (.imulhNPair (ctlOf n) (.ofNat 6 (fld n 12 6)) (.ofNat 6 (fld n 6 6)) (.ofNat 6 (fld n 0 6))) else
  if fld n 18 3 = 5 then some (.imadPair (ctlOf n) (.ofNat 6 (fld n 12 6)) (.ofNat 6 (fld n 6 6)) (.ofNat 6 (fld n 0 6))) else
  if fld n 18 3 = 6 then some (.iminSPair (ctlOf n) (.ofNat 6 (fld n 12 6)) (.ofNat 6 (fld n 6 6)) (.ofNat 6 (fld n 0 6))) else
  if fld n 18 3 = 7 then some (.iminNPair (ctlOf n) (.ofNat 6 (fld n 12 6)) (.ofNat 6 (fld n 6 6)) (.ofNat 6 (fld n 0 6))) else
  none

/-- Major 0x0B (R35, R37): the rows of the opcode map under this major. -/
def decode0B (n : Nat) : Option Instr :=
  if fld n 18 3 = 0 then some (.imaxSPair (ctlOf n) (.ofNat 6 (fld n 12 6)) (.ofNat 6 (fld n 6 6)) (.ofNat 6 (fld n 0 6))) else
  if fld n 18 3 = 1 then some (.imaxNPair (ctlOf n) (.ofNat 6 (fld n 12 6)) (.ofNat 6 (fld n 6 6)) (.ofNat 6 (fld n 0 6))) else
  if fld n 18 3 = 2 then some (.idivSPair (ctlOf n) (.ofNat 6 (fld n 12 6)) (.ofNat 6 (fld n 6 6)) (.ofNat 6 (fld n 0 6))) else
  if fld n 18 3 = 3 then some (.idivNPair (ctlOf n) (.ofNat 6 (fld n 12 6)) (.ofNat 6 (fld n 6 6)) (.ofNat 6 (fld n 0 6))) else
  if fld n 18 3 = 4 then some (.iremSPair (ctlOf n) (.ofNat 6 (fld n 12 6)) (.ofNat 6 (fld n 6 6)) (.ofNat 6 (fld n 0 6))) else
  if fld n 18 3 = 5 then some (.iremNPair (ctlOf n) (.ofNat 6 (fld n 12 6)) (.ofNat 6 (fld n 6 6)) (.ofNat 6 (fld n 0 6))) else
  if fld n 0 6 = 0 ∧ fld n 18 3 = 6 then some (.iabsPair (ctlOf n) (.ofNat 6 (fld n 12 6)) (.ofNat 6 (fld n 6 6))) else
  if fld n 0 6 = 0 ∧ fld n 18 3 = 7 then some (.inegPair (ctlOf n) (.ofNat 6 (fld n 12 6)) (.ofNat 6 (fld n 6 6))) else
  none

/-- Major 0x0C (R35, R37): the rows of the opcode map under this major. -/
def decode0C (n : Nat) : Option Instr :=
  if fld n 15 2 = 0 then some (.icmp (ctlOf n) (.ofNat 3 (fld n 18 3)) (.ofNat 1 (fld n 17 1)) (.ofNat 3 (fld n 12 3)) (.ofNat 6 (fld n 6 6)) (.ofNat 6 (fld n 0 6))) else
  none

/-- Major 0x0D (R35, R37): the rows of the opcode map under this major. -/
def decode0D (n : Nat) : Option Instr :=
  if fld n 18 3 = 0 then some (.and (ctlOf n) (.ofNat 6 (fld n 12 6)) (.ofNat 6 (fld n 6 6)) (.ofNat 6 (fld n 0 6))) else
  if fld n 18 3 = 1 then some (.or (ctlOf n) (.ofNat 6 (fld n 12 6)) (.ofNat 6 (fld n 6 6)) (.ofNat 6 (fld n 0 6))) else
  if fld n 18 3 = 2 then some (.xor (ctlOf n) (.ofNat 6 (fld n 12 6)) (.ofNat 6 (fld n 6 6)) (.ofNat 6 (fld n 0 6))) else
  if fld n 18 3 = 3 then some (.andn (ctlOf n) (.ofNat 6 (fld n 12 6)) (.ofNat 6 (fld n 6 6)) (.ofNat 6 (fld n 0 6))) else
  if fld n 18 3 = 4 then some (.orn (ctlOf n) (.ofNat 6 (fld n 12 6)) (.ofNat 6 (fld n 6 6)) (.ofNat 6 (fld n 0 6))) else
  if fld n 18 3 = 5 then some (.shl (ctlOf n) (.ofNat 6 (fld n 12 6)) (.ofNat 6 (fld n 6 6)) (.ofNat 6 (fld n 0 6))) else
  if fld n 18 3 = 6 then some (.shrl (ctlOf n) (.ofNat 6 (fld n 12 6)) (.ofNat 6 (fld n 6 6)) (.ofNat 6 (fld n 0 6))) else
  if fld n 18 3 = 7 then some (.shra (ctlOf n) (.ofNat 6 (fld n 12 6)) (.ofNat 6 (fld n 6 6)) (.ofNat 6 (fld n 0 6))) else
  none

/-- Major 0x0E (R35, R37): the rows of the opcode map under this major. -/
def decode0E (n : Nat) : Option Instr :=
  if fld n 18 3 = 0 then some (.andPair (ctlOf n) (.ofNat 6 (fld n 12 6)) (.ofNat 6 (fld n 6 6)) (.ofNat 6 (fld n 0 6))) else
  if fld n 18 3 = 1 then some (.orPair (ctlOf n) (.ofNat 6 (fld n 12 6)) (.ofNat 6 (fld n 6 6)) (.ofNat 6 (fld n 0 6))) else
  if fld n 18 3 = 2 then some (.xorPair (ctlOf n) (.ofNat 6 (fld n 12 6)) (.ofNat 6 (fld n 6 6)) (.ofNat 6 (fld n 0 6))) else
  if fld n 18 3 = 3 then some (.andnPair (ctlOf n) (.ofNat 6 (fld n 12 6)) (.ofNat 6 (fld n 6 6)) (.ofNat 6 (fld n 0 6))) else
  if fld n 18 3 = 4 then some (.ornPair (ctlOf n) (.ofNat 6 (fld n 12 6)) (.ofNat 6 (fld n 6 6)) (.ofNat 6 (fld n 0 6))) else
  if fld n 18 3 = 5 then some (.shlPair (ctlOf n) (.ofNat 6 (fld n 12 6)) (.ofNat 6 (fld n 6 6)) (.ofNat 6 (fld n 0 6))) else
  if fld n 18 3 = 6 then some (.shrlPair (ctlOf n) (.ofNat 6 (fld n 12 6)) (.ofNat 6 (fld n 6 6)) (.ofNat 6 (fld n 0 6))) else
  if fld n 18 3 = 7 then some (.shraPair (ctlOf n) (.ofNat 6 (fld n 12 6)) (.ofNat 6 (fld n 6 6)) (.ofNat 6 (fld n 0 6))) else
  none

/-- Major 0x0F (R35, R37): the rows of the opcode map under this major. -/
def decode0F (n : Nat) : Option Instr :=
  if fld n 18 3 = 0 then some (.rotl (ctlOf n) (.ofNat 6 (fld n 12 6)) (.ofNat 6 (fld n 6 6)) (.ofNat 6 (fld n 0 6))) else
  if fld n 0 6 = 0 ∧ fld n 18 3 = 1 then some (.clz (ctlOf n) (.ofNat 6 (fld n 12 6)) (.ofNat 6 (fld n 6 6))) else
  if fld n 0 6 = 0 ∧ fld n 18 3 = 2 then some (.ctz (ctlOf n) (.ofNat 6 (fld n 12 6)) (.ofNat 6 (fld n 6 6))) else
  if fld n 0 6 = 0 ∧ fld n 18 3 = 3 then some (.popc (ctlOf n) (.ofNat 6 (fld n 12 6)) (.ofNat 6 (fld n 6 6))) else
  if fld n 0 6 = 0 ∧ fld n 18 3 = 4 then some (.brev (ctlOf n) (.ofNat 6 (fld n 12 6)) (.ofNat 6 (fld n 6 6))) else
  if fld n 18 3 = 5 then some (.bfxN (ctlOf n) (.ofNat 6 (fld n 12 6)) (.ofNat 6 (fld n 6 6)) (.ofNat 6 (fld n 0 6))) else
  if fld n 18 3 = 6 then some (.bfxS (ctlOf n) (.ofNat 6 (fld n 12 6)) (.ofNat 6 (fld n 6 6)) (.ofNat 6 (fld n 0 6))) else
  if fld n 18 3 = 7 then some (.bsel (ctlOf n) (.ofNat 6 (fld n 12 6)) (.ofNat 6 (fld n 6 6)) (.ofNat 6 (fld n 0 6))) else
  none

/-- Major 0x10 (R35, R37): the rows of the opcode map under this major. -/
def decode10 (n : Nat) : Option Instr :=
  if fld n 18 3 = 0 then some (.rotlPair (ctlOf n) (.ofNat 6 (fld n 12 6)) (.ofNat 6 (fld n 6 6)) (.ofNat 6 (fld n 0 6))) else
  if fld n 0 6 = 0 ∧ fld n 18 3 = 1 then some (.clzPair (ctlOf n) (.ofNat 6 (fld n 12 6)) (.ofNat 6 (fld n 6 6))) else
  if fld n 0 6 = 0 ∧ fld n 18 3 = 2 then some (.ctzPair (ctlOf n) (.ofNat 6 (fld n 12 6)) (.ofNat 6 (fld n 6 6))) else
  if fld n 0 6 = 0 ∧ fld n 18 3 = 3 then some (.popcPair (ctlOf n) (.ofNat 6 (fld n 12 6)) (.ofNat 6 (fld n 6 6))) else
  if fld n 0 6 = 0 ∧ fld n 18 3 = 4 then some (.brevPair (ctlOf n) (.ofNat 6 (fld n 12 6)) (.ofNat 6 (fld n 6 6))) else
  if fld n 18 3 = 5 then some (.bfxNPair (ctlOf n) (.ofNat 6 (fld n 12 6)) (.ofNat 6 (fld n 6 6)) (.ofNat 6 (fld n 0 6))) else
  if fld n 18 3 = 6 then some (.bfxSPair (ctlOf n) (.ofNat 6 (fld n 12 6)) (.ofNat 6 (fld n 6 6)) (.ofNat 6 (fld n 0 6))) else
  none

/-- Major 0x11 (R35, R37): the rows of the opcode map under this major. -/
def decode11 (n : Nat) : Option Instr :=
  if fld n 18 3 = 0 then some (.bfiB32 (ctlOf n) (.ofNat 6 (fld n 12 6)) (.ofNat 6 (fld n 6 6)) (.ofNat 6 (fld n 0 6))) else
  if fld n 18 3 = 1 then some (.bfiB64 (ctlOf n) (.ofNat 6 (fld n 12 6)) (.ofNat 6 (fld n 6 6)) (.ofNat 6 (fld n 0 6))) else
  if fld n 6 6 = 0 ∧ fld n 18 3 = 2 then some (.movB32 (ctlOf n) (.ofNat 6 (fld n 12 6)) (.ofNat 6 (fld n 0 6))) else
  if fld n 6 6 = 0 ∧ fld n 18 3 = 3 then some (.movB64 (ctlOf n) (.ofNat 6 (fld n 12 6)) (.ofNat 6 (fld n 0 6))) else
  if fld n 6 6 = 0 ∧ fld n 18 3 = 4 then some (.movB128 (ctlOf n) (.ofNat 6 (fld n 12 6)) (.ofNat 6 (fld n 0 6))) else
  if fld n 0 12 = 0 ∧ fld n 18 3 = 5 then some (.pmovToReg (ctlOf n) (.ofNat 6 (fld n 12 6))) else
  if fld n 0 6 = 0 ∧ fld n 12 9 = 384 then some (.pmovToPred (ctlOf n) (.ofNat 6 (fld n 6 6))) else
  none

/-- Major 0x12 (R35, R37): the rows of the opcode map under this major. -/
def decode12 (n : Nat) : Option Instr :=
  some (.sel (ctlOf n) (.ofNat 3 (fld n 18 3)) (.ofNat 6 (fld n 12 6)) (.ofNat 6 (fld n 6 6)) (.ofNat 6 (fld n 0 6)))

/-- Major 0x13 (R35, R37): the rows of the opcode map under this major. -/
def decode13 (n : Nat) : Option Instr :=
  some (.iaddImm (ctlOf n) (.ofNat 6 (fld n 15 6)) (.ofNat 6 (fld n 9 6)) (.ofNat 9 (fld n 0 9)))

/-- Major 0x14 (R35, R37): the rows of the opcode map under this major. -/
def decode14 (n : Nat) : Option Instr :=
  some (.iaddImmPair (ctlOf n) (.ofNat 6 (fld n 15 6)) (.ofNat 6 (fld n 9 6)) (.ofNat 9 (fld n 0 9)))

/-- Major 0x15 (R35, R37): the rows of the opcode map under this major. -/
def decode15 (n : Nat) : Option Instr :=
  if fld n 10 5 = 0 then some (.movi (ctlOf n) (.ofNat 6 (fld n 15 6)) (.ofNat 1 (fld n 9 1)) (.ofNat 9 (fld n 0 9))) else
  none

/-- Major 0x16 (R35, R37): the rows of the opcode map under this major. -/
def decode16 (n : Nat) : Option Instr :=
  some (.plut (ctlOf n) (.ofNat 3 (fld n 18 3)) (.ofNat 3 (fld n 15 3)) (.ofNat 3 (fld n 12 3)) (.ofNat 3 (fld n 9 3)) (.ofNat 1 (fld n 8 1)) (.ofNat 8 (fld n 0 8)))

/-- Major 0x17 (R35, R37): the rows of the opcode map under this major. -/
def decode17 (n : Nat) : Option Instr :=
  some (.lea (ctlOf n) (.ofNat 3 (fld n 18 3)) (.ofNat 6 (fld n 12 6)) (.ofNat 6 (fld n 6 6)) (.ofNat 6 (fld n 0 6)))

/-- Major 0x18 (R35, R37): the rows of the opcode map under this major. -/
def decode18 (n : Nat) : Option Instr :=
  if fld n 18 3 = 0 then some (.iaddU (ctlOf n) (.ofNat 6 (fld n 12 6)) (.ofNat 6 (fld n 6 6)) (.ofNat 6 (fld n 0 6))) else
  if fld n 18 3 = 1 then some (.isubU (ctlOf n) (.ofNat 6 (fld n 12 6)) (.ofNat 6 (fld n 6 6)) (.ofNat 6 (fld n 0 6))) else
  if fld n 18 3 = 2 then some (.imulU (ctlOf n) (.ofNat 6 (fld n 12 6)) (.ofNat 6 (fld n 6 6)) (.ofNat 6 (fld n 0 6))) else
  if fld n 18 3 = 3 then some (.imulhSU (ctlOf n) (.ofNat 6 (fld n 12 6)) (.ofNat 6 (fld n 6 6)) (.ofNat 6 (fld n 0 6))) else
  if fld n 18 3 = 4 then some (.imulhNU (ctlOf n) (.ofNat 6 (fld n 12 6)) (.ofNat 6 (fld n 6 6)) (.ofNat 6 (fld n 0 6))) else
  if fld n 18 3 = 5 then some (.imadU (ctlOf n) (.ofNat 6 (fld n 12 6)) (.ofNat 6 (fld n 6 6)) (.ofNat 6 (fld n 0 6))) else
  if fld n 18 3 = 6 then some (.iminSU (ctlOf n) (.ofNat 6 (fld n 12 6)) (.ofNat 6 (fld n 6 6)) (.ofNat 6 (fld n 0 6))) else
  if fld n 18 3 = 7 then some (.iminNU (ctlOf n) (.ofNat 6 (fld n 12 6)) (.ofNat 6 (fld n 6 6)) (.ofNat 6 (fld n 0 6))) else
  none

/-- Major 0x19 (R35, R37): the rows of the opcode map under this major. -/
def decode19 (n : Nat) : Option Instr :=
  if fld n 18 3 = 0 then some (.imaxSU (ctlOf n) (.ofNat 6 (fld n 12 6)) (.ofNat 6 (fld n 6 6)) (.ofNat 6 (fld n 0 6))) else
  if fld n 18 3 = 1 then some (.imaxNU (ctlOf n) (.ofNat 6 (fld n 12 6)) (.ofNat 6 (fld n 6 6)) (.ofNat 6 (fld n 0 6))) else
  if fld n 18 3 = 2 then some (.idivSU (ctlOf n) (.ofNat 6 (fld n 12 6)) (.ofNat 6 (fld n 6 6)) (.ofNat 6 (fld n 0 6))) else
  if fld n 18 3 = 3 then some (.idivNU (ctlOf n) (.ofNat 6 (fld n 12 6)) (.ofNat 6 (fld n 6 6)) (.ofNat 6 (fld n 0 6))) else
  if fld n 18 3 = 4 then some (.iremSU (ctlOf n) (.ofNat 6 (fld n 12 6)) (.ofNat 6 (fld n 6 6)) (.ofNat 6 (fld n 0 6))) else
  if fld n 18 3 = 5 then some (.iremNU (ctlOf n) (.ofNat 6 (fld n 12 6)) (.ofNat 6 (fld n 6 6)) (.ofNat 6 (fld n 0 6))) else
  if fld n 0 6 = 0 ∧ fld n 18 3 = 6 then some (.iabsU (ctlOf n) (.ofNat 6 (fld n 12 6)) (.ofNat 6 (fld n 6 6))) else
  if fld n 0 6 = 0 ∧ fld n 18 3 = 7 then some (.inegU (ctlOf n) (.ofNat 6 (fld n 12 6)) (.ofNat 6 (fld n 6 6))) else
  none

/-- Major 0x1A (R35, R37): the rows of the opcode map under this major. -/
def decode1A (n : Nat) : Option Instr :=
  if fld n 15 3 = 0 then some (.icmpU (ctlOf n) (.ofNat 3 (fld n 18 3)) (.ofNat 3 (fld n 12 3)) (.ofNat 6 (fld n 6 6)) (.ofNat 6 (fld n 0 6))) else
  none

/-- Major 0x1B (R35, R37): the rows of the opcode map under this major. -/
def decode1B (n : Nat) : Option Instr :=
  if fld n 18 3 = 0 then some (.andU (ctlOf n) (.ofNat 6 (fld n 12 6)) (.ofNat 6 (fld n 6 6)) (.ofNat 6 (fld n 0 6))) else
  if fld n 18 3 = 1 then some (.orU (ctlOf n) (.ofNat 6 (fld n 12 6)) (.ofNat 6 (fld n 6 6)) (.ofNat 6 (fld n 0 6))) else
  if fld n 18 3 = 2 then some (.xorU (ctlOf n) (.ofNat 6 (fld n 12 6)) (.ofNat 6 (fld n 6 6)) (.ofNat 6 (fld n 0 6))) else
  if fld n 18 3 = 3 then some (.andnU (ctlOf n) (.ofNat 6 (fld n 12 6)) (.ofNat 6 (fld n 6 6)) (.ofNat 6 (fld n 0 6))) else
  if fld n 18 3 = 4 then some (.ornU (ctlOf n) (.ofNat 6 (fld n 12 6)) (.ofNat 6 (fld n 6 6)) (.ofNat 6 (fld n 0 6))) else
  if fld n 18 3 = 5 then some (.shlU (ctlOf n) (.ofNat 6 (fld n 12 6)) (.ofNat 6 (fld n 6 6)) (.ofNat 6 (fld n 0 6))) else
  if fld n 18 3 = 6 then some (.shrlU (ctlOf n) (.ofNat 6 (fld n 12 6)) (.ofNat 6 (fld n 6 6)) (.ofNat 6 (fld n 0 6))) else
  if fld n 18 3 = 7 then some (.shraU (ctlOf n) (.ofNat 6 (fld n 12 6)) (.ofNat 6 (fld n 6 6)) (.ofNat 6 (fld n 0 6))) else
  none

/-- Major 0x1C (R35, R37): the rows of the opcode map under this major. -/
def decode1C (n : Nat) : Option Instr :=
  if fld n 18 3 = 0 then some (.rotlU (ctlOf n) (.ofNat 6 (fld n 12 6)) (.ofNat 6 (fld n 6 6)) (.ofNat 6 (fld n 0 6))) else
  if fld n 0 6 = 0 ∧ fld n 18 3 = 1 then some (.clzU (ctlOf n) (.ofNat 6 (fld n 12 6)) (.ofNat 6 (fld n 6 6))) else
  if fld n 0 6 = 0 ∧ fld n 18 3 = 2 then some (.ctzU (ctlOf n) (.ofNat 6 (fld n 12 6)) (.ofNat 6 (fld n 6 6))) else
  if fld n 0 6 = 0 ∧ fld n 18 3 = 3 then some (.popcU (ctlOf n) (.ofNat 6 (fld n 12 6)) (.ofNat 6 (fld n 6 6))) else
  if fld n 0 6 = 0 ∧ fld n 18 3 = 4 then some (.brevU (ctlOf n) (.ofNat 6 (fld n 12 6)) (.ofNat 6 (fld n 6 6))) else
  if fld n 18 3 = 5 then some (.bfxNU (ctlOf n) (.ofNat 6 (fld n 12 6)) (.ofNat 6 (fld n 6 6)) (.ofNat 6 (fld n 0 6))) else
  if fld n 18 3 = 6 then some (.bfxSU (ctlOf n) (.ofNat 6 (fld n 12 6)) (.ofNat 6 (fld n 6 6)) (.ofNat 6 (fld n 0 6))) else
  if fld n 18 3 = 7 then some (.bfiU (ctlOf n) (.ofNat 6 (fld n 12 6)) (.ofNat 6 (fld n 6 6)) (.ofNat 6 (fld n 0 6))) else
  none

/-- Major 0x1D (R35, R37): the rows of the opcode map under this major. -/
def decode1D (n : Nat) : Option Instr :=
  if fld n 6 6 = 0 ∧ fld n 18 3 = 0 then some (.movU (ctlOf n) (.ofNat 6 (fld n 12 6)) (.ofNat 6 (fld n 0 6))) else
  if fld n 0 12 = 0 ∧ fld n 18 3 = 1 then some (.pmovCToS (ctlOf n) (.ofNat 6 (fld n 12 6))) else
  if fld n 0 6 = 0 ∧ fld n 12 9 = 128 then some (.pmovSToC (ctlOf n) (.ofNat 6 (fld n 6 6))) else
  none

/-- Major 0x1E (R35, R37): the rows of the opcode map under this major. -/
def decode1E (n : Nat) : Option Instr :=
  some (.selU (ctlOf n) (.ofNat 3 (fld n 18 3)) (.ofNat 6 (fld n 12 6)) (.ofNat 6 (fld n 6 6)) (.ofNat 6 (fld n 0 6)))

/-- Major 0x1F (R35, R37): the rows of the opcode map under this major. -/
def decode1F (n : Nat) : Option Instr :=
  some (.leaU (ctlOf n) (.ofNat 3 (fld n 18 3)) (.ofNat 6 (fld n 12 6)) (.ofNat 6 (fld n 6 6)) (.ofNat 6 (fld n 0 6)))

/-- Major 0x20 (R35, R37): the rows of the opcode map under this major. -/
def decode20 (n : Nat) : Option Instr :=
  if fld n 18 3 = 0 then some (.fadd (ctlOf n) (.ofNat 6 (fld n 12 6)) (.ofNat 6 (fld n 6 6)) (.ofNat 6 (fld n 0 6))) else
  if fld n 18 3 = 1 then some (.fsub (ctlOf n) (.ofNat 6 (fld n 12 6)) (.ofNat 6 (fld n 6 6)) (.ofNat 6 (fld n 0 6))) else
  if fld n 18 3 = 2 then some (.fmul (ctlOf n) (.ofNat 6 (fld n 12 6)) (.ofNat 6 (fld n 6 6)) (.ofNat 6 (fld n 0 6))) else
  if fld n 18 3 = 3 then some (.ffma (ctlOf n) (.ofNat 6 (fld n 12 6)) (.ofNat 6 (fld n 6 6)) (.ofNat 6 (fld n 0 6))) else
  if fld n 18 3 = 4 then some (.fmin (ctlOf n) (.ofNat 6 (fld n 12 6)) (.ofNat 6 (fld n 6 6)) (.ofNat 6 (fld n 0 6))) else
  if fld n 18 3 = 5 then some (.fmax (ctlOf n) (.ofNat 6 (fld n 12 6)) (.ofNat 6 (fld n 6 6)) (.ofNat 6 (fld n 0 6))) else
  if fld n 18 3 = 6 then some (.fdiv (ctlOf n) (.ofNat 6 (fld n 12 6)) (.ofNat 6 (fld n 6 6)) (.ofNat 6 (fld n 0 6))) else
  if fld n 0 6 = 0 ∧ fld n 18 3 = 7 then some (.fsqrt (ctlOf n) (.ofNat 6 (fld n 12 6)) (.ofNat 6 (fld n 6 6))) else
  none

/-- Major 0x21 (R35, R37): the rows of the opcode map under this major. -/
def decode21 (n : Nat) : Option Instr :=
  if fld n 0 6 = 0 ∧ fld n 18 3 = 0 then some (.frnd (ctlOf n) (.ofNat 6 (fld n 12 6)) (.ofNat 6 (fld n 6 6))) else
  if fld n 0 6 = 0 ∧ fld n 18 3 = 1 then some (.frcp (ctlOf n) (.ofNat 6 (fld n 12 6)) (.ofNat 6 (fld n 6 6))) else
  if fld n 0 6 = 0 ∧ fld n 18 3 = 2 then some (.frsq (ctlOf n) (.ofNat 6 (fld n 12 6)) (.ofNat 6 (fld n 6 6))) else
  if fld n 0 6 = 0 ∧ fld n 18 3 = 3 then some (.fexp2 (ctlOf n) (.ofNat 6 (fld n 12 6)) (.ofNat 6 (fld n 6 6))) else
  if fld n 0 6 = 0 ∧ fld n 18 3 = 4 then some (.flog2 (ctlOf n) (.ofNat 6 (fld n 12 6)) (.ofNat 6 (fld n 6 6))) else
  if fld n 0 6 = 0 ∧ fld n 18 3 = 5 then some (.fsin (ctlOf n) (.ofNat 6 (fld n 12 6)) (.ofNat 6 (fld n 6 6))) else
  if fld n 0 6 = 0 ∧ fld n 18 3 = 6 then some (.fcos (ctlOf n) (.ofNat 6 (fld n 12 6)) (.ofNat 6 (fld n 6 6))) else
  if fld n 0 6 = 0 ∧ fld n 18 3 = 7 then some (.fclass (ctlOf n) (.ofNat 6 (fld n 12 6)) (.ofNat 6 (fld n 6 6))) else
  none

/-- Major 0x22 (R35, R37): the rows of the opcode map under this major. -/
def decode22 (n : Nat) : Option Instr :=
  if fld n 18 3 = 0 then some (.faddF64 (ctlOf n) (.ofNat 6 (fld n 12 6)) (.ofNat 6 (fld n 6 6)) (.ofNat 6 (fld n 0 6))) else
  if fld n 18 3 = 1 then some (.fsubF64 (ctlOf n) (.ofNat 6 (fld n 12 6)) (.ofNat 6 (fld n 6 6)) (.ofNat 6 (fld n 0 6))) else
  if fld n 18 3 = 2 then some (.fmulF64 (ctlOf n) (.ofNat 6 (fld n 12 6)) (.ofNat 6 (fld n 6 6)) (.ofNat 6 (fld n 0 6))) else
  if fld n 18 3 = 3 then some (.ffmaF64 (ctlOf n) (.ofNat 6 (fld n 12 6)) (.ofNat 6 (fld n 6 6)) (.ofNat 6 (fld n 0 6))) else
  if fld n 18 3 = 4 then some (.fminF64 (ctlOf n) (.ofNat 6 (fld n 12 6)) (.ofNat 6 (fld n 6 6)) (.ofNat 6 (fld n 0 6))) else
  if fld n 18 3 = 5 then some (.fmaxF64 (ctlOf n) (.ofNat 6 (fld n 12 6)) (.ofNat 6 (fld n 6 6)) (.ofNat 6 (fld n 0 6))) else
  if fld n 18 3 = 6 then some (.fdivF64 (ctlOf n) (.ofNat 6 (fld n 12 6)) (.ofNat 6 (fld n 6 6)) (.ofNat 6 (fld n 0 6))) else
  if fld n 0 6 = 0 ∧ fld n 18 3 = 7 then some (.fsqrtF64 (ctlOf n) (.ofNat 6 (fld n 12 6)) (.ofNat 6 (fld n 6 6))) else
  none

/-- Major 0x23 (R35, R37): the rows of the opcode map under this major. -/
def decode23 (n : Nat) : Option Instr :=
  if fld n 0 6 = 0 ∧ fld n 18 3 = 0 then some (.frndF64 (ctlOf n) (.ofNat 6 (fld n 12 6)) (.ofNat 6 (fld n 6 6))) else
  if fld n 0 6 = 0 ∧ fld n 18 3 = 1 then some (.frcpF64 (ctlOf n) (.ofNat 6 (fld n 12 6)) (.ofNat 6 (fld n 6 6))) else
  if fld n 0 6 = 0 ∧ fld n 18 3 = 2 then some (.frsqF64 (ctlOf n) (.ofNat 6 (fld n 12 6)) (.ofNat 6 (fld n 6 6))) else
  if fld n 0 6 = 0 ∧ fld n 18 3 = 3 then some (.fclassF64 (ctlOf n) (.ofNat 6 (fld n 12 6)) (.ofNat 6 (fld n 6 6))) else
  none

/-- Major 0x24 (R35, R37): the rows of the opcode map under this major. -/
def decode24 (n : Nat) : Option Instr :=
  if fld n 15 2 = 0 then some (.fcmp (ctlOf n) (.ofNat 3 (fld n 18 3)) (.ofNat 1 (fld n 17 1)) (.ofNat 3 (fld n 12 3)) (.ofNat 6 (fld n 6 6)) (.ofNat 6 (fld n 0 6))) else
  none

/-- Major 0x25 (R35, R37): the rows of the opcode map under this major. -/
def decode25 (n : Nat) : Option Instr :=
  if fld n 18 3 = 0 then some (.pkaddF16 (ctlOf n) (.ofNat 6 (fld n 12 6)) (.ofNat 6 (fld n 6 6)) (.ofNat 6 (fld n 0 6))) else
  if fld n 18 3 = 1 then some (.pkmulF16 (ctlOf n) (.ofNat 6 (fld n 12 6)) (.ofNat 6 (fld n 6 6)) (.ofNat 6 (fld n 0 6))) else
  if fld n 18 3 = 2 then some (.pkfmaF16 (ctlOf n) (.ofNat 6 (fld n 12 6)) (.ofNat 6 (fld n 6 6)) (.ofNat 6 (fld n 0 6))) else
  if fld n 18 3 = 3 then some (.pkaddBf16 (ctlOf n) (.ofNat 6 (fld n 12 6)) (.ofNat 6 (fld n 6 6)) (.ofNat 6 (fld n 0 6))) else
  if fld n 18 3 = 4 then some (.pkmulBf16 (ctlOf n) (.ofNat 6 (fld n 12 6)) (.ofNat 6 (fld n 6 6)) (.ofNat 6 (fld n 0 6))) else
  if fld n 18 3 = 5 then some (.pkfmaBf16 (ctlOf n) (.ofNat 6 (fld n 12 6)) (.ofNat 6 (fld n 6 6)) (.ofNat 6 (fld n 0 6))) else
  if fld n 18 3 = 6 then some (.idp4S8 (ctlOf n) (.ofNat 6 (fld n 12 6)) (.ofNat 6 (fld n 6 6)) (.ofNat 6 (fld n 0 6))) else
  if fld n 18 3 = 7 then some (.idp4N8 (ctlOf n) (.ofNat 6 (fld n 12 6)) (.ofNat 6 (fld n 6 6)) (.ofNat 6 (fld n 0 6))) else
  none

/-- Major 0x26 (R35, R37): the rows of the opcode map under this major. -/
def decode26 (n : Nat) : Option Instr :=
  if fld n 5 4 = 0 then some (.qnt (ctlOf n) (.ofNat 6 (fld n 15 6)) (.ofNat 6 (fld n 9 6)) (.ofNat 5 (fld n 0 5))) else
  if fld n 5 4 = 2 then some (.deq (ctlOf n) (.ofNat 6 (fld n 15 6)) (.ofNat 6 (fld n 9 6)) (.ofNat 5 (fld n 0 5))) else
  if fld n 5 4 = 4 then some (.scale (ctlOf n) (.ofNat 6 (fld n 15 6)) (.ofNat 6 (fld n 9 6)) (.ofNat 5 (fld n 0 5))) else
  if fld n 5 4 = 6 then some (.sacc (ctlOf n) (.ofNat 6 (fld n 15 6)) (.ofNat 6 (fld n 9 6)) (.ofNat 5 (fld n 0 5))) else
  none

/-- Major 0x27 (R35, R37): the rows of the opcode map under this major. -/
def decode27 (n : Nat) : Option Instr :=
  some (.cvt (ctlOf n) (.ofNat 3 (fld n 18 3)) (.ofNat 6 (fld n 12 6)) (.ofNat 6 (fld n 6 6)) (.ofNat 6 (fld n 0 6)))

/-- Major 0x28 (R35, R37): the rows of the opcode map under this major. -/
def decode28 (n : Nat) : Option Instr :=
  if fld n 18 3 = 0 then some (.lgetAt (ctlOf n) (.ofNat 6 (fld n 12 6)) (.ofNat 6 (fld n 6 6)) (.ofNat 6 (fld n 0 6))) else
  if fld n 18 3 = 1 then some (.lgetLo (ctlOf n) (.ofNat 6 (fld n 12 6)) (.ofNat 6 (fld n 6 6)) (.ofNat 6 (fld n 0 6))) else
  if fld n 18 3 = 2 then some (.lgetHi (ctlOf n) (.ofNat 6 (fld n 12 6)) (.ofNat 6 (fld n 6 6)) (.ofNat 6 (fld n 0 6))) else
  if fld n 18 3 = 3 then some (.lgetXr (ctlOf n) (.ofNat 6 (fld n 12 6)) (.ofNat 6 (fld n 6 6)) (.ofNat 6 (fld n 0 6))) else
  if fld n 0 6 = 0 ∧ fld n 9 3 = 0 ∧ fld n 18 3 = 4 then some (.ballot (ctlOf n) (.ofNat 6 (fld n 12 6)) (.ofNat 3 (fld n 6 3))) else
  if fld n 0 6 = 0 ∧ fld n 9 3 = 0 ∧ fld n 15 6 = 40 then some (.voteAny (ctlOf n) (.ofNat 3 (fld n 12 3)) (.ofNat 3 (fld n 6 3))) else
  if fld n 0 6 = 0 ∧ fld n 9 3 = 0 ∧ fld n 15 6 = 48 then some (.voteAll (ctlOf n) (.ofNat 3 (fld n 12 3)) (.ofNat 3 (fld n 6 3))) else
  if fld n 0 6 = 0 ∧ fld n 9 3 = 0 ∧ fld n 15 6 = 56 then some (.voteSame (ctlOf n) (.ofNat 3 (fld n 12 3)) (.ofNat 3 (fld n 6 3))) else
  none

/-- Major 0x29 (R35, R37): the rows of the opcode map under this major. -/
def decode29 (n : Nat) : Option Instr :=
  if fld n 18 3 = 0 then some (.gred (ctlOf n) (.ofNat 6 (fld n 12 6)) (.ofNat 6 (fld n 6 6)) (.ofNat 3 (fld n 3 3)) (.ofNat 3 (fld n 0 3))) else
  if fld n 18 3 = 1 then some (.gscan (ctlOf n) (.ofNat 6 (fld n 12 6)) (.ofNat 6 (fld n 6 6)) (.ofNat 3 (fld n 3 3)) (.ofNat 3 (fld n 0 3))) else
  none

/-- Major 0x2A (R35, R37): the rows of the opcode map under this major. -/
def decode2A (n : Nat) : Option Instr :=
  some (.bxch (ctlOf n) (.ofNat 6 (fld n 15 6)) (.ofNat 6 (fld n 9 6)) (.ofNat 6 (fld n 3 6)) (.ofNat 3 (fld n 0 3)))

/-- Major 0x2B (R35, R37): the rows of the opcode map under this major. -/
def decode2B (n : Nat) : Option Instr :=
  if fld n 2 19 = 0 then some (.span (ctlOf n) (.ofNat 2 (fld n 0 2))) else
  if fld n 0 12 = 0 ∧ fld n 18 3 = 1 then some (.spanq (ctlOf n) (.ofNat 6 (fld n 12 6))) else
  if fld n 6 15 = 8192 then some (.give (ctlOf n) (.ofNat 6 (fld n 0 6))) else
  if fld n 6 15 = 12288 then some (.claim (ctlOf n) (.ofNat 6 (fld n 0 6))) else
  none

/-- Major 0x2C (R35, R37): the rows of the opcode map under this major. -/
def decode2C (n : Nat) : Option Instr :=
  some (.ldg (ctlOf n) (.ofNat 4 (fld n 17 4)) (.ofNat 6 (fld n 11 6)) (.ofNat 3 (fld n 8 3)) (.ofNat 6 (fld n 2 6)) (.ofNat 2 (fld n 0 2)))

/-- Major 0x2D (R35, R37): the rows of the opcode map under this major. -/
def decode2D (n : Nat) : Option Instr :=
  if fld n 17 4 = 0 then some (.stg (ctlOf n) (.ofNat 6 (fld n 11 6)) (.ofNat 3 (fld n 8 3)) (.ofNat 6 (fld n 2 6)) (.ofNat 2 (fld n 0 2))) else
  none

/-- Major 0x2E (R35, R37): the rows of the opcode map under this major. -/
def decode2E (n : Nat) : Option Instr :=
  some (.ldk (ctlOf n) (.ofNat 4 (fld n 17 4)) (.ofNat 6 (fld n 11 6)) (.ofNat 3 (fld n 8 3)) (.ofNat 6 (fld n 2 6)) (.ofNat 2 (fld n 0 2)))

/-- Major 0x2F (R35, R37): the rows of the opcode map under this major. -/
def decode2F (n : Nat) : Option Instr :=
  if fld n 17 4 = 0 then some (.stk (ctlOf n) (.ofNat 6 (fld n 11 6)) (.ofNat 3 (fld n 8 3)) (.ofNat 6 (fld n 2 6)) (.ofNat 2 (fld n 0 2))) else
  none

/-- Major 0x30 (R35, R37): the rows of the opcode map under this major. -/
def decode30 (n : Nat) : Option Instr :=
  if fld n 8 3 = 0 then some (.lds (ctlOf n) (.ofNat 4 (fld n 17 4)) (.ofNat 6 (fld n 11 6)) (.ofNat 6 (fld n 2 6)) (.ofNat 2 (fld n 0 2))) else
  if fld n 8 3 = 1 ∧ fld n 17 4 = 0 then some (.sts (ctlOf n) (.ofNat 6 (fld n 11 6)) (.ofNat 6 (fld n 2 6)) (.ofNat 2 (fld n 0 2))) else
  if fld n 0 2 = 0 ∧ fld n 8 3 = 2 then some (.ldfTake (ctlOf n) (.ofNat 4 (fld n 17 4)) (.ofNat 6 (fld n 11 6)) (.ofNat 6 (fld n 2 6))) else
  if fld n 0 2 = 0 ∧ fld n 8 3 = 3 then some (.ldfPeek (ctlOf n) (.ofNat 4 (fld n 17 4)) (.ofNat 6 (fld n 11 6)) (.ofNat 6 (fld n 2 6))) else
  if fld n 0 2 = 0 ∧ fld n 8 3 = 4 then some (.ste (ctlOf n) (.ofNat 4 (fld n 17 4)) (.ofNat 6 (fld n 11 6)) (.ofNat 6 (fld n 2 6))) else
  if fld n 0 2 = 0 ∧ fld n 8 3 = 5 ∧ fld n 17 4 = 0 then some (.stf (ctlOf n) (.ofNat 6 (fld n 11 6)) (.ofNat 6 (fld n 2 6))) else
  if fld n 0 2 = 0 ∧ fld n 8 3 = 6 then some (.tagq (ctlOf n) (.ofNat 4 (fld n 17 4)) (.ofNat 6 (fld n 11 6)) (.ofNat 6 (fld n 2 6))) else
  if fld n 8 3 = 7 ∧ fld n 12 9 = 0 then some (.tags (ctlOf n) (.ofNat 1 (fld n 11 1)) (.ofNat 6 (fld n 2 6)) (.ofNat 2 (fld n 0 2))) else
  none

/-- Major 0x31 (R35, R37): the rows of the opcode map under this major. -/
def decode31 (n : Nat) : Option Instr :=
  if fld n 8 3 = 0 then some (.ldd (ctlOf n) (.ofNat 4 (fld n 17 4)) (.ofNat 6 (fld n 11 6)) (.ofNat 6 (fld n 2 6)) (.ofNat 2 (fld n 0 2))) else
  if fld n 8 3 = 1 ∧ fld n 17 4 = 0 then some (.std (ctlOf n) (.ofNat 6 (fld n 11 6)) (.ofNat 6 (fld n 2 6)) (.ofNat 2 (fld n 0 2))) else
  none

/-- Major 0x32 (R35, R37): the rows of the opcode map under this major. -/
def decode32 (n : Nat) : Option Instr :=
  if fld n 1 1 = 0 ∧ fld n 11 1 = 0 then some (.atomAdd (ctlOf n) (.ofNat 4 (fld n 17 4)) (.ofNat 5 (fld n 12 5)) (.ofNat 3 (fld n 8 3)) (.ofNat 6 (fld n 2 6)) (.ofNat 1 (fld n 0 1))) else
  if fld n 1 1 = 0 ∧ fld n 11 1 = 1 then some (.atomExch (ctlOf n) (.ofNat 4 (fld n 17 4)) (.ofNat 5 (fld n 12 5)) (.ofNat 3 (fld n 8 3)) (.ofNat 6 (fld n 2 6)) (.ofNat 1 (fld n 0 1))) else
  if fld n 1 1 = 1 ∧ fld n 11 1 = 0 then some (.atomCas (ctlOf n) (.ofNat 4 (fld n 17 4)) (.ofNat 5 (fld n 12 5)) (.ofNat 3 (fld n 8 3)) (.ofNat 6 (fld n 2 6)) (.ofNat 1 (fld n 0 1))) else
  if fld n 1 1 = 1 ∧ fld n 11 1 = 1 then some (.atomAnd (ctlOf n) (.ofNat 4 (fld n 17 4)) (.ofNat 5 (fld n 12 5)) (.ofNat 3 (fld n 8 3)) (.ofNat 6 (fld n 2 6)) (.ofNat 1 (fld n 0 1))) else
  none

/-- Major 0x33 (R35, R37): the rows of the opcode map under this major. -/
def decode33 (n : Nat) : Option Instr :=
  if fld n 1 1 = 0 ∧ fld n 11 1 = 0 then some (.atomOr (ctlOf n) (.ofNat 4 (fld n 17 4)) (.ofNat 5 (fld n 12 5)) (.ofNat 3 (fld n 8 3)) (.ofNat 6 (fld n 2 6)) (.ofNat 1 (fld n 0 1))) else
  if fld n 1 1 = 0 ∧ fld n 11 1 = 1 then some (.atomXor (ctlOf n) (.ofNat 4 (fld n 17 4)) (.ofNat 5 (fld n 12 5)) (.ofNat 3 (fld n 8 3)) (.ofNat 6 (fld n 2 6)) (.ofNat 1 (fld n 0 1))) else
  if fld n 1 1 = 1 ∧ fld n 11 1 = 0 then some (.atomMinS (ctlOf n) (.ofNat 4 (fld n 17 4)) (.ofNat 5 (fld n 12 5)) (.ofNat 3 (fld n 8 3)) (.ofNat 6 (fld n 2 6)) (.ofNat 1 (fld n 0 1))) else
  if fld n 1 1 = 1 ∧ fld n 11 1 = 1 then some (.atomMaxS (ctlOf n) (.ofNat 4 (fld n 17 4)) (.ofNat 5 (fld n 12 5)) (.ofNat 3 (fld n 8 3)) (.ofNat 6 (fld n 2 6)) (.ofNat 1 (fld n 0 1))) else
  none

/-- Major 0x34 (R35, R37): the rows of the opcode map under this major. -/
def decode34 (n : Nat) : Option Instr :=
  if fld n 1 1 = 0 ∧ fld n 11 1 = 0 then some (.atomMinN (ctlOf n) (.ofNat 4 (fld n 17 4)) (.ofNat 5 (fld n 12 5)) (.ofNat 3 (fld n 8 3)) (.ofNat 6 (fld n 2 6)) (.ofNat 1 (fld n 0 1))) else
  if fld n 1 1 = 0 ∧ fld n 11 1 = 1 then some (.atomMaxN (ctlOf n) (.ofNat 4 (fld n 17 4)) (.ofNat 5 (fld n 12 5)) (.ofNat 3 (fld n 8 3)) (.ofNat 6 (fld n 2 6)) (.ofNat 1 (fld n 0 1))) else
  if fld n 1 1 = 1 ∧ fld n 11 1 = 0 then some (.atomFadd (ctlOf n) (.ofNat 4 (fld n 17 4)) (.ofNat 5 (fld n 12 5)) (.ofNat 3 (fld n 8 3)) (.ofNat 6 (fld n 2 6)) (.ofNat 1 (fld n 0 1))) else
  none

/-- Major 0x35 (R35, R37): the rows of the opcode map under this major. -/
def decode35 (n : Nat) : Option Instr :=
  if fld n 0 2 = 0 ∧ fld n 11 6 = 0 then some (.xlate (ctlOf n) (.ofNat 4 (fld n 17 4)) (.ofNat 3 (fld n 8 3)) (.ofNat 6 (fld n 2 6))) else
  if fld n 0 2 = 0 ∧ fld n 11 6 = 1 then some (.pref (ctlOf n) (.ofNat 4 (fld n 17 4)) (.ofNat 3 (fld n 8 3)) (.ofNat 6 (fld n 2 6))) else
  if fld n 0 2 = 0 ∧ fld n 11 6 = 2 then some (.cflush (ctlOf n) (.ofNat 4 (fld n 17 4)) (.ofNat 3 (fld n 8 3)) (.ofNat 6 (fld n 2 6))) else
  if fld n 0 2 = 0 ∧ fld n 11 6 = 3 then some (.cinv (ctlOf n) (.ofNat 4 (fld n 17 4)) (.ofNat 3 (fld n 8 3)) (.ofNat 6 (fld n 2 6))) else
  if fld n 0 8 = 0 ∧ fld n 11 6 = 4 then some (.phase (ctlOf n) (.ofNat 4 (fld n 17 4)) (.ofNat 3 (fld n 8 3))) else
  if fld n 0 8 = 0 ∧ fld n 11 6 = 5 then some (.fence (ctlOf n) (.ofNat 4 (fld n 17 4)) (.ofNat 3 (fld n 8 3))) else
  if fld n 0 8 = 0 ∧ fld n 11 6 = 6 then some (.fenceE (ctlOf n) (.ofNat 4 (fld n 17 4)) (.ofNat 3 (fld n 8 3))) else
  if fld n 0 2 = 1 then some (.red32 (ctlOf n) (.ofNat 4 (fld n 17 4)) (.ofNat 6 (fld n 11 6)) (.ofNat 3 (fld n 8 3)) (.ofNat 6 (fld n 2 6))) else
  if fld n 0 2 = 2 then some (.red64 (ctlOf n) (.ofNat 4 (fld n 17 4)) (.ofNat 6 (fld n 11 6)) (.ofNat 3 (fld n 8 3)) (.ofNat 6 (fld n 2 6))) else
  none

/-- Major 0x36 (R35, R37): the rows of the opcode map under this major. -/
def decode36 (n : Nat) : Option Instr :=
  if fld n 0 2 = 0 ∧ fld n 14 3 = 0 then some (.copy (ctlOf n) (.ofNat 4 (fld n 17 4)) (.ofNat 6 (fld n 8 6)) (.ofNat 6 (fld n 2 6))) else
  if fld n 0 2 = 0 ∧ fld n 14 7 = 1 then some (.waitge (ctlOf n) (.ofNat 6 (fld n 8 6)) (.ofNat 6 (fld n 2 6))) else
  if fld n 0 2 = 0 ∧ fld n 14 7 = 2 then some (.waitgeContinuation (ctlOf n) (.ofNat 6 (fld n 8 6)) (.ofNat 6 (fld n 2 6))) else
  if fld n 0 8 = 0 ∧ fld n 14 7 = 3 then some (.qstat (ctlOf n) (.ofNat 6 (fld n 8 6))) else
  none

/-- Major 0x37 (R35, R37): the rows of the opcode map under this major. -/
def decode37 (n : Nat) : Option Instr :=
  if fld n 7 1 = 0 ∧ fld n 17 4 = 0 then some (.mmaB8 (ctlOf n) (.ofNat 3 (fld n 14 3)) (.ofNat 6 (fld n 8 6)) (.ofNat 5 (fld n 2 5)) (.ofNat 2 (fld n 0 2))) else
  none

/-- Major 0x38 (R35, R37): the rows of the opcode map under this major. -/
def decode38 (n : Nat) : Option Instr :=
  if fld n 4 4 = 8 ∧ fld n 17 4 = 0 then some (.mmaF (ctlOf n) (.ofNat 3 (fld n 14 3)) (.ofNat 6 (fld n 8 6)) (.ofNat 2 (fld n 2 2)) (.ofNat 2 (fld n 0 2))) else
  none

/-- Major 0x39 (R35, R37): the rows of the opcode map under this major. -/
noncomputable def decode39 (sup : Bool) (n : Nat) : Option Instr :=
  if sup = true ∧ fld n 0 8 = 0 ∧ fld n 14 7 = 2 then some (.accldFrameImage (ctlOf n) (.ofNat 6 (fld n 8 6))) else
  if sup = true ∧ fld n 0 8 = 0 ∧ fld n 14 7 = 3 then some (.accstFrameImage (ctlOf n) (.ofNat 6 (fld n 8 6))) else
  if fld n 0 2 = 0 ∧ fld n 5 3 = 0 ∧ fld n 14 7 = 0 then some (.mscl (ctlOf n) (.ofNat 6 (fld n 8 6)) (.ofNat 3 (fld n 2 3))) else
  if fld n 0 2 = 0 ∧ fld n 5 16 = 512 then some (.mzero (ctlOf n) (.ofNat 3 (fld n 2 3))) else
  if sup = false ∧ fld n 0 2 = 0 ∧ fld n 5 3 = 0 ∧ fld n 14 7 = 2 then some (.accld (ctlOf n) (.ofNat 6 (fld n 8 6)) (.ofNat 3 (fld n 2 3))) else
  if sup = false ∧ fld n 0 2 = 0 ∧ fld n 5 3 = 0 ∧ fld n 14 7 = 3 then some (.accst (ctlOf n) (.ofNat 6 (fld n 8 6)) (.ofNat 3 (fld n 2 3))) else
  if fld n 0 2 = 0 ∧ fld n 6 15 = 1024 then some (.mwait (ctlOf n) (.ofNat 1 (fld n 5 1)) (.ofNat 3 (fld n 2 3))) else
  none

/-- Major 0x3A (R35, R37): the rows of the opcode map under this major. -/
def decode3A (n : Nat) : Option Instr :=
  if fld n 0 2 = 0 ∧ fld n 5 3 = 0 ∧ fld n 14 7 = 0 then some (.chsend (ctlOf n) (.ofNat 6 (fld n 8 6)) (.ofNat 3 (fld n 2 3))) else
  if fld n 0 2 = 0 ∧ fld n 5 3 = 0 ∧ fld n 14 3 = 1 then some (.chrecv (ctlOf n) (.ofNat 4 (fld n 17 4)) (.ofNat 6 (fld n 8 6)) (.ofNat 3 (fld n 2 3))) else
  if fld n 1 1 = 0 ∧ fld n 5 3 = 0 ∧ fld n 11 10 = 16 then some (.chpoll (ctlOf n) (.ofNat 3 (fld n 8 3)) (.ofNat 3 (fld n 2 3)) (.ofNat 1 (fld n 0 1))) else
  none

/-- Major 0x3B (R35, R37): the rows of the opcode map under this major. -/
noncomputable def decode3B (n : Nat) : Option Instr :=
  if fld n 2 1 = 0 ∧ fld n 14 3 = 2 then some (.ldstep (ctlOf n) (.ofNat 4 (fld n 17 4)) (.ofNat 6 (fld n 8 6)) (.ofNat 5 (fld n 3 5)) (.ofNat 2 (fld n 0 2))) else
  if fld n 0 21 = 0 then some (.stepend (ctlOf n)) else
  if fld n 14 7 = 1 then some (.slot (ctlOf n) (.ofNat 6 (fld n 8 6)) (.ofNat 6 (fld n 2 6)) (.ofNat 2 (fld n 0 2))) else
  none

/-- Major 0x3C (R35, R37): the rows of the opcode map under this major. -/
noncomputable def decode3C (n : Nat) : Option Instr :=
  if fld n 0 2 = 0 ∧ fld n 14 7 = 0 then some (.rets (ctlOf n) (.ofNat 6 (fld n 8 6)) (.ofNat 6 (fld n 2 6))) else
  if fld n 0 8 = 0 ∧ fld n 14 3 = 1 then some (.launch (ctlOf n) (.ofNat 4 (fld n 17 4)) (.ofNat 6 (fld n 8 6))) else
  if fld n 0 2 = 0 ∧ fld n 14 3 = 2 then some (.npost (ctlOf n) (.ofNat 4 (fld n 17 4)) (.ofNat 6 (fld n 8 6)) (.ofNat 6 (fld n 2 6))) else
  none

/-- Major 0x3D (R35, R37): the rows of the opcode map under this major. -/
noncomputable def decode3D (n : Nat) : Option Instr :=
  if fld n 24 2 = 0 then some (.sched (.ofNat 24 (fld n 0 24))) else
  if fld n 24 2 = 1 then some (.imm (.ofNat 24 (fld n 0 24))) else
  if fld n 24 2 = 2 then some (.mod (.ofNat 24 (fld n 0 24))) else
  if fld n 24 2 = 3 then some (.live (.ofNat 24 (fld n 0 24))) else
  none

/-- R39 (noncomputable only because the compiler caps the constructors of a type that it can build): a fetched word is an assigned encoding (its fields as the opcode map places them) or nothing. In supervisor
mode the words of ACCLD and ACCST are the frame-image forms of R276. -/
noncomputable def decodeWord (sup : Bool) (n : Nat) : Option Instr :=
  match fld n 26 6 with
  | 0 => decode00 n
  | 1 => decode01 n
  | 2 => decode02 n
  | 3 => decode03 n
  | 4 => decode04 n
  | 5 => decode05 n
  | 6 => decode06 n
  | 7 => decode07 n
  | 8 => decode08 n
  | 9 => decode09 n
  | 10 => decode0A n
  | 11 => decode0B n
  | 12 => decode0C n
  | 13 => decode0D n
  | 14 => decode0E n
  | 15 => decode0F n
  | 16 => decode10 n
  | 17 => decode11 n
  | 18 => decode12 n
  | 19 => decode13 n
  | 20 => decode14 n
  | 21 => decode15 n
  | 22 => decode16 n
  | 23 => decode17 n
  | 24 => decode18 n
  | 25 => decode19 n
  | 26 => decode1A n
  | 27 => decode1B n
  | 28 => decode1C n
  | 29 => decode1D n
  | 30 => decode1E n
  | 31 => decode1F n
  | 32 => decode20 n
  | 33 => decode21 n
  | 34 => decode22 n
  | 35 => decode23 n
  | 36 => decode24 n
  | 37 => decode25 n
  | 38 => decode26 n
  | 39 => decode27 n
  | 40 => decode28 n
  | 41 => decode29 n
  | 42 => decode2A n
  | 43 => decode2B n
  | 44 => decode2C n
  | 45 => decode2D n
  | 46 => decode2E n
  | 47 => decode2F n
  | 48 => decode30 n
  | 49 => decode31 n
  | 50 => decode32 n
  | 51 => decode33 n
  | 52 => decode34 n
  | 53 => decode35 n
  | 54 => decode36 n
  | 55 => decode37 n
  | 56 => decode38 n
  | 57 => decode39 sup n
  | 58 => decode3A n
  | 59 => decode3B n
  | 60 => decode3C n
  | 61 => decode3D n
  | _ => none

/-- The word of an instruction, from the same encoding tables (R22, R23, R29, R35, R37); an event of the device has none. -/
def encode : Instr → Option Nat
  | .trap ctl c => some (ctl.bits + c.toNat)
  | .svc ctl c => some (0x00040000 + ctl.bits + c.toNat)
  | .eret ctl => some (0x00080000 + ctl.bits)
  | .nop ctl => some (0x000C0000 + ctl.bits)
  | .idem ctl => some (0x00100000 + ctl.bits)
  | .nopre ctl => some (0x00140000 + ctl.bits)
  | .preon ctl => some (0x00180000 + ctl.bits)
  | .ifence ctl => some (0x001C0000 + ctl.bits)
  | .rdsr ctl d a => some (0x04000000 + ctl.bits + d.toNat * 4096 + a.toNat * 64)
  | .wrsr ctl d a => some (0x04040000 + ctl.bits + d.toNat * 4096 + a.toNat * 64)
  | .time ctl d => some (0x04080000 + ctl.bits + d.toNat * 4096)
  | .doze ctl a => some (0x040C0000 + ctl.bits + a.toNat * 64)
  | .icinv ctl a b => some (0x04100000 + ctl.bits + a.toNat * 64 + b.toNat)
  | .braLane ctl h o => some (0x08000000 + ctl.bits + h.toNat * 524288 + o.toNat)
  | .braUniform ctl h o => some (0x0C000000 + ctl.bits + h.toNat * 524288 + o.toNat)
  | .call ctl h o => some (0x10000000 + ctl.bits + h.toNat * 524288 + o.toNat)
  | .conv sp o => some (0x14000000 + sp.toNat * 33554432 + o.toNat)
  | .loop ctl d i => some (0x18000000 + ctl.bits + d.toNat * 32768 + i.toNat)
  | .brx ctl a => some (0x1C000000 + ctl.bits + a.toNat * 64)
  | .ret ctl a => some (0x1C040000 + ctl.bits + a.toNat * 64)
  | .exit ctl => some (0x1C080000 + ctl.bits)
  | .iadd ctl d a b => some (0x20000000 + ctl.bits + d.toNat * 4096 + a.toNat * 64 + b.toNat)
  | .isub ctl d a b => some (0x20040000 + ctl.bits + d.toNat * 4096 + a.toNat * 64 + b.toNat)
  | .imul ctl d a b => some (0x20080000 + ctl.bits + d.toNat * 4096 + a.toNat * 64 + b.toNat)
  | .imulhS ctl d a b => some (0x200C0000 + ctl.bits + d.toNat * 4096 + a.toNat * 64 + b.toNat)
  | .imulhN ctl d a b => some (0x20100000 + ctl.bits + d.toNat * 4096 + a.toNat * 64 + b.toNat)
  | .imad ctl d a b => some (0x20140000 + ctl.bits + d.toNat * 4096 + a.toNat * 64 + b.toNat)
  | .iminS ctl d a b => some (0x20180000 + ctl.bits + d.toNat * 4096 + a.toNat * 64 + b.toNat)
  | .iminN ctl d a b => some (0x201C0000 + ctl.bits + d.toNat * 4096 + a.toNat * 64 + b.toNat)
  | .imaxS ctl d a b => some (0x24000000 + ctl.bits + d.toNat * 4096 + a.toNat * 64 + b.toNat)
  | .imaxN ctl d a b => some (0x24040000 + ctl.bits + d.toNat * 4096 + a.toNat * 64 + b.toNat)
  | .idivS ctl d a b => some (0x24080000 + ctl.bits + d.toNat * 4096 + a.toNat * 64 + b.toNat)
  | .idivN ctl d a b => some (0x240C0000 + ctl.bits + d.toNat * 4096 + a.toNat * 64 + b.toNat)
  | .iremS ctl d a b => some (0x24100000 + ctl.bits + d.toNat * 4096 + a.toNat * 64 + b.toNat)
  | .iremN ctl d a b => some (0x24140000 + ctl.bits + d.toNat * 4096 + a.toNat * 64 + b.toNat)
  | .iabs ctl d a => some (0x24180000 + ctl.bits + d.toNat * 4096 + a.toNat * 64)
  | .ineg ctl d a => some (0x241C0000 + ctl.bits + d.toNat * 4096 + a.toNat * 64)
  | .iaddPair ctl d a b => some (0x28000000 + ctl.bits + d.toNat * 4096 + a.toNat * 64 + b.toNat)
  | .isubPair ctl d a b => some (0x28040000 + ctl.bits + d.toNat * 4096 + a.toNat * 64 + b.toNat)
  | .imulPair ctl d a b => some (0x28080000 + ctl.bits + d.toNat * 4096 + a.toNat * 64 + b.toNat)
  | .imulhSPair ctl d a b => some (0x280C0000 + ctl.bits + d.toNat * 4096 + a.toNat * 64 + b.toNat)
  | .imulhNPair ctl d a b => some (0x28100000 + ctl.bits + d.toNat * 4096 + a.toNat * 64 + b.toNat)
  | .imadPair ctl d a b => some (0x28140000 + ctl.bits + d.toNat * 4096 + a.toNat * 64 + b.toNat)
  | .iminSPair ctl d a b => some (0x28180000 + ctl.bits + d.toNat * 4096 + a.toNat * 64 + b.toNat)
  | .iminNPair ctl d a b => some (0x281C0000 + ctl.bits + d.toNat * 4096 + a.toNat * 64 + b.toNat)
  | .imaxSPair ctl d a b => some (0x2C000000 + ctl.bits + d.toNat * 4096 + a.toNat * 64 + b.toNat)
  | .imaxNPair ctl d a b => some (0x2C040000 + ctl.bits + d.toNat * 4096 + a.toNat * 64 + b.toNat)
  | .idivSPair ctl d a b => some (0x2C080000 + ctl.bits + d.toNat * 4096 + a.toNat * 64 + b.toNat)
  | .idivNPair ctl d a b => some (0x2C0C0000 + ctl.bits + d.toNat * 4096 + a.toNat * 64 + b.toNat)
  | .iremSPair ctl d a b => some (0x2C100000 + ctl.bits + d.toNat * 4096 + a.toNat * 64 + b.toNat)
  | .iremNPair ctl d a b => some (0x2C140000 + ctl.bits + d.toNat * 4096 + a.toNat * 64 + b.toNat)
  | .iabsPair ctl d a => some (0x2C180000 + ctl.bits + d.toNat * 4096 + a.toNat * 64)
  | .inegPair ctl d a => some (0x2C1C0000 + ctl.bits + d.toNat * 4096 + a.toNat * 64)
  | .icmp ctl c w q a b => some (0x30000000 + ctl.bits + c.toNat * 262144 + w.toNat * 131072 + q.toNat * 4096 + a.toNat * 64 + b.toNat)
  | .and ctl d a b => some (0x34000000 + ctl.bits + d.toNat * 4096 + a.toNat * 64 + b.toNat)
  | .or ctl d a b => some (0x34040000 + ctl.bits + d.toNat * 4096 + a.toNat * 64 + b.toNat)
  | .xor ctl d a b => some (0x34080000 + ctl.bits + d.toNat * 4096 + a.toNat * 64 + b.toNat)
  | .andn ctl d a b => some (0x340C0000 + ctl.bits + d.toNat * 4096 + a.toNat * 64 + b.toNat)
  | .orn ctl d a b => some (0x34100000 + ctl.bits + d.toNat * 4096 + a.toNat * 64 + b.toNat)
  | .shl ctl d a b => some (0x34140000 + ctl.bits + d.toNat * 4096 + a.toNat * 64 + b.toNat)
  | .shrl ctl d a b => some (0x34180000 + ctl.bits + d.toNat * 4096 + a.toNat * 64 + b.toNat)
  | .shra ctl d a b => some (0x341C0000 + ctl.bits + d.toNat * 4096 + a.toNat * 64 + b.toNat)
  | .andPair ctl d a b => some (0x38000000 + ctl.bits + d.toNat * 4096 + a.toNat * 64 + b.toNat)
  | .orPair ctl d a b => some (0x38040000 + ctl.bits + d.toNat * 4096 + a.toNat * 64 + b.toNat)
  | .xorPair ctl d a b => some (0x38080000 + ctl.bits + d.toNat * 4096 + a.toNat * 64 + b.toNat)
  | .andnPair ctl d a b => some (0x380C0000 + ctl.bits + d.toNat * 4096 + a.toNat * 64 + b.toNat)
  | .ornPair ctl d a b => some (0x38100000 + ctl.bits + d.toNat * 4096 + a.toNat * 64 + b.toNat)
  | .shlPair ctl d a b => some (0x38140000 + ctl.bits + d.toNat * 4096 + a.toNat * 64 + b.toNat)
  | .shrlPair ctl d a b => some (0x38180000 + ctl.bits + d.toNat * 4096 + a.toNat * 64 + b.toNat)
  | .shraPair ctl d a b => some (0x381C0000 + ctl.bits + d.toNat * 4096 + a.toNat * 64 + b.toNat)
  | .rotl ctl d a b => some (0x3C000000 + ctl.bits + d.toNat * 4096 + a.toNat * 64 + b.toNat)
  | .clz ctl d a => some (0x3C040000 + ctl.bits + d.toNat * 4096 + a.toNat * 64)
  | .ctz ctl d a => some (0x3C080000 + ctl.bits + d.toNat * 4096 + a.toNat * 64)
  | .popc ctl d a => some (0x3C0C0000 + ctl.bits + d.toNat * 4096 + a.toNat * 64)
  | .brev ctl d a => some (0x3C100000 + ctl.bits + d.toNat * 4096 + a.toNat * 64)
  | .bfxN ctl d a b => some (0x3C140000 + ctl.bits + d.toNat * 4096 + a.toNat * 64 + b.toNat)
  | .bfxS ctl d a b => some (0x3C180000 + ctl.bits + d.toNat * 4096 + a.toNat * 64 + b.toNat)
  | .bsel ctl d a b => some (0x3C1C0000 + ctl.bits + d.toNat * 4096 + a.toNat * 64 + b.toNat)
  | .rotlPair ctl d a b => some (0x40000000 + ctl.bits + d.toNat * 4096 + a.toNat * 64 + b.toNat)
  | .clzPair ctl d a => some (0x40040000 + ctl.bits + d.toNat * 4096 + a.toNat * 64)
  | .ctzPair ctl d a => some (0x40080000 + ctl.bits + d.toNat * 4096 + a.toNat * 64)
  | .popcPair ctl d a => some (0x400C0000 + ctl.bits + d.toNat * 4096 + a.toNat * 64)
  | .brevPair ctl d a => some (0x40100000 + ctl.bits + d.toNat * 4096 + a.toNat * 64)
  | .bfxNPair ctl d a b => some (0x40140000 + ctl.bits + d.toNat * 4096 + a.toNat * 64 + b.toNat)
  | .bfxSPair ctl d a b => some (0x40180000 + ctl.bits + d.toNat * 4096 + a.toNat * 64 + b.toNat)
  | .bfiB32 ctl d a b => some (0x44000000 + ctl.bits + d.toNat * 4096 + a.toNat * 64 + b.toNat)
  | .bfiB64 ctl d a b => some (0x44040000 + ctl.bits + d.toNat * 4096 + a.toNat * 64 + b.toNat)
  | .movB32 ctl d b => some (0x44080000 + ctl.bits + d.toNat * 4096 + b.toNat)
  | .movB64 ctl d b => some (0x440C0000 + ctl.bits + d.toNat * 4096 + b.toNat)
  | .movB128 ctl d b => some (0x44100000 + ctl.bits + d.toNat * 4096 + b.toNat)
  | .pmovToReg ctl d => some (0x44140000 + ctl.bits + d.toNat * 4096)
  | .pmovToPred ctl a => some (0x44180000 + ctl.bits + a.toNat * 64)
  | .sel ctl p d a b => some (0x48000000 + ctl.bits + p.toNat * 262144 + d.toNat * 4096 + a.toNat * 64 + b.toNat)
  | .iaddImm ctl d a i => some (0x4C000000 + ctl.bits + d.toNat * 32768 + a.toNat * 512 + i.toNat)
  | .iaddImmPair ctl d a i => some (0x50000000 + ctl.bits + d.toNat * 32768 + a.toNat * 512 + i.toNat)
  | .movi ctl d w i => some (0x54000000 + ctl.bits + d.toNat * 32768 + w.toNat * 512 + i.toNat)
  | .plut ctl x d z y f t => some (0x58000000 + ctl.bits + x.toNat * 262144 + d.toNat * 32768 + z.toNat * 4096 + y.toNat * 512 + f.toNat * 256 + t.toNat)
  | .lea ctl c d a b => some (0x5C000000 + ctl.bits + c.toNat * 262144 + d.toNat * 4096 + a.toNat * 64 + b.toNat)
  | .iaddU ctl d a b => some (0x60000000 + ctl.bits + d.toNat * 4096 + a.toNat * 64 + b.toNat)
  | .isubU ctl d a b => some (0x60040000 + ctl.bits + d.toNat * 4096 + a.toNat * 64 + b.toNat)
  | .imulU ctl d a b => some (0x60080000 + ctl.bits + d.toNat * 4096 + a.toNat * 64 + b.toNat)
  | .imulhSU ctl d a b => some (0x600C0000 + ctl.bits + d.toNat * 4096 + a.toNat * 64 + b.toNat)
  | .imulhNU ctl d a b => some (0x60100000 + ctl.bits + d.toNat * 4096 + a.toNat * 64 + b.toNat)
  | .imadU ctl d a b => some (0x60140000 + ctl.bits + d.toNat * 4096 + a.toNat * 64 + b.toNat)
  | .iminSU ctl d a b => some (0x60180000 + ctl.bits + d.toNat * 4096 + a.toNat * 64 + b.toNat)
  | .iminNU ctl d a b => some (0x601C0000 + ctl.bits + d.toNat * 4096 + a.toNat * 64 + b.toNat)
  | .imaxSU ctl d a b => some (0x64000000 + ctl.bits + d.toNat * 4096 + a.toNat * 64 + b.toNat)
  | .imaxNU ctl d a b => some (0x64040000 + ctl.bits + d.toNat * 4096 + a.toNat * 64 + b.toNat)
  | .idivSU ctl d a b => some (0x64080000 + ctl.bits + d.toNat * 4096 + a.toNat * 64 + b.toNat)
  | .idivNU ctl d a b => some (0x640C0000 + ctl.bits + d.toNat * 4096 + a.toNat * 64 + b.toNat)
  | .iremSU ctl d a b => some (0x64100000 + ctl.bits + d.toNat * 4096 + a.toNat * 64 + b.toNat)
  | .iremNU ctl d a b => some (0x64140000 + ctl.bits + d.toNat * 4096 + a.toNat * 64 + b.toNat)
  | .iabsU ctl d a => some (0x64180000 + ctl.bits + d.toNat * 4096 + a.toNat * 64)
  | .inegU ctl d a => some (0x641C0000 + ctl.bits + d.toNat * 4096 + a.toNat * 64)
  | .icmpU ctl c q a b => some (0x68000000 + ctl.bits + c.toNat * 262144 + q.toNat * 4096 + a.toNat * 64 + b.toNat)
  | .andU ctl d a b => some (0x6C000000 + ctl.bits + d.toNat * 4096 + a.toNat * 64 + b.toNat)
  | .orU ctl d a b => some (0x6C040000 + ctl.bits + d.toNat * 4096 + a.toNat * 64 + b.toNat)
  | .xorU ctl d a b => some (0x6C080000 + ctl.bits + d.toNat * 4096 + a.toNat * 64 + b.toNat)
  | .andnU ctl d a b => some (0x6C0C0000 + ctl.bits + d.toNat * 4096 + a.toNat * 64 + b.toNat)
  | .ornU ctl d a b => some (0x6C100000 + ctl.bits + d.toNat * 4096 + a.toNat * 64 + b.toNat)
  | .shlU ctl d a b => some (0x6C140000 + ctl.bits + d.toNat * 4096 + a.toNat * 64 + b.toNat)
  | .shrlU ctl d a b => some (0x6C180000 + ctl.bits + d.toNat * 4096 + a.toNat * 64 + b.toNat)
  | .shraU ctl d a b => some (0x6C1C0000 + ctl.bits + d.toNat * 4096 + a.toNat * 64 + b.toNat)
  | .rotlU ctl d a b => some (0x70000000 + ctl.bits + d.toNat * 4096 + a.toNat * 64 + b.toNat)
  | .clzU ctl d a => some (0x70040000 + ctl.bits + d.toNat * 4096 + a.toNat * 64)
  | .ctzU ctl d a => some (0x70080000 + ctl.bits + d.toNat * 4096 + a.toNat * 64)
  | .popcU ctl d a => some (0x700C0000 + ctl.bits + d.toNat * 4096 + a.toNat * 64)
  | .brevU ctl d a => some (0x70100000 + ctl.bits + d.toNat * 4096 + a.toNat * 64)
  | .bfxNU ctl d a b => some (0x70140000 + ctl.bits + d.toNat * 4096 + a.toNat * 64 + b.toNat)
  | .bfxSU ctl d a b => some (0x70180000 + ctl.bits + d.toNat * 4096 + a.toNat * 64 + b.toNat)
  | .bfiU ctl d a b => some (0x701C0000 + ctl.bits + d.toNat * 4096 + a.toNat * 64 + b.toNat)
  | .movU ctl d b => some (0x74000000 + ctl.bits + d.toNat * 4096 + b.toNat)
  | .pmovCToS ctl d => some (0x74040000 + ctl.bits + d.toNat * 4096)
  | .pmovSToC ctl a => some (0x74080000 + ctl.bits + a.toNat * 64)
  | .selU ctl p d a b => some (0x78000000 + ctl.bits + p.toNat * 262144 + d.toNat * 4096 + a.toNat * 64 + b.toNat)
  | .leaU ctl c d a b => some (0x7C000000 + ctl.bits + c.toNat * 262144 + d.toNat * 4096 + a.toNat * 64 + b.toNat)
  | .fadd ctl d a b => some (0x80000000 + ctl.bits + d.toNat * 4096 + a.toNat * 64 + b.toNat)
  | .fsub ctl d a b => some (0x80040000 + ctl.bits + d.toNat * 4096 + a.toNat * 64 + b.toNat)
  | .fmul ctl d a b => some (0x80080000 + ctl.bits + d.toNat * 4096 + a.toNat * 64 + b.toNat)
  | .ffma ctl d a b => some (0x800C0000 + ctl.bits + d.toNat * 4096 + a.toNat * 64 + b.toNat)
  | .fmin ctl d a b => some (0x80100000 + ctl.bits + d.toNat * 4096 + a.toNat * 64 + b.toNat)
  | .fmax ctl d a b => some (0x80140000 + ctl.bits + d.toNat * 4096 + a.toNat * 64 + b.toNat)
  | .fdiv ctl d a b => some (0x80180000 + ctl.bits + d.toNat * 4096 + a.toNat * 64 + b.toNat)
  | .fsqrt ctl d a => some (0x801C0000 + ctl.bits + d.toNat * 4096 + a.toNat * 64)
  | .frnd ctl d a => some (0x84000000 + ctl.bits + d.toNat * 4096 + a.toNat * 64)
  | .frcp ctl d a => some (0x84040000 + ctl.bits + d.toNat * 4096 + a.toNat * 64)
  | .frsq ctl d a => some (0x84080000 + ctl.bits + d.toNat * 4096 + a.toNat * 64)
  | .fexp2 ctl d a => some (0x840C0000 + ctl.bits + d.toNat * 4096 + a.toNat * 64)
  | .flog2 ctl d a => some (0x84100000 + ctl.bits + d.toNat * 4096 + a.toNat * 64)
  | .fsin ctl d a => some (0x84140000 + ctl.bits + d.toNat * 4096 + a.toNat * 64)
  | .fcos ctl d a => some (0x84180000 + ctl.bits + d.toNat * 4096 + a.toNat * 64)
  | .fclass ctl d a => some (0x841C0000 + ctl.bits + d.toNat * 4096 + a.toNat * 64)
  | .faddF64 ctl d a b => some (0x88000000 + ctl.bits + d.toNat * 4096 + a.toNat * 64 + b.toNat)
  | .fsubF64 ctl d a b => some (0x88040000 + ctl.bits + d.toNat * 4096 + a.toNat * 64 + b.toNat)
  | .fmulF64 ctl d a b => some (0x88080000 + ctl.bits + d.toNat * 4096 + a.toNat * 64 + b.toNat)
  | .ffmaF64 ctl d a b => some (0x880C0000 + ctl.bits + d.toNat * 4096 + a.toNat * 64 + b.toNat)
  | .fminF64 ctl d a b => some (0x88100000 + ctl.bits + d.toNat * 4096 + a.toNat * 64 + b.toNat)
  | .fmaxF64 ctl d a b => some (0x88140000 + ctl.bits + d.toNat * 4096 + a.toNat * 64 + b.toNat)
  | .fdivF64 ctl d a b => some (0x88180000 + ctl.bits + d.toNat * 4096 + a.toNat * 64 + b.toNat)
  | .fsqrtF64 ctl d a => some (0x881C0000 + ctl.bits + d.toNat * 4096 + a.toNat * 64)
  | .frndF64 ctl d a => some (0x8C000000 + ctl.bits + d.toNat * 4096 + a.toNat * 64)
  | .frcpF64 ctl d a => some (0x8C040000 + ctl.bits + d.toNat * 4096 + a.toNat * 64)
  | .frsqF64 ctl d a => some (0x8C080000 + ctl.bits + d.toNat * 4096 + a.toNat * 64)
  | .fclassF64 ctl d a => some (0x8C0C0000 + ctl.bits + d.toNat * 4096 + a.toNat * 64)
  | .fcmp ctl c w q a b => some (0x90000000 + ctl.bits + c.toNat * 262144 + w.toNat * 131072 + q.toNat * 4096 + a.toNat * 64 + b.toNat)
  | .pkaddF16 ctl d a b => some (0x94000000 + ctl.bits + d.toNat * 4096 + a.toNat * 64 + b.toNat)
  | .pkmulF16 ctl d a b => some (0x94040000 + ctl.bits + d.toNat * 4096 + a.toNat * 64 + b.toNat)
  | .pkfmaF16 ctl d a b => some (0x94080000 + ctl.bits + d.toNat * 4096 + a.toNat * 64 + b.toNat)
  | .pkaddBf16 ctl d a b => some (0x940C0000 + ctl.bits + d.toNat * 4096 + a.toNat * 64 + b.toNat)
  | .pkmulBf16 ctl d a b => some (0x94100000 + ctl.bits + d.toNat * 4096 + a.toNat * 64 + b.toNat)
  | .pkfmaBf16 ctl d a b => some (0x94140000 + ctl.bits + d.toNat * 4096 + a.toNat * 64 + b.toNat)
  | .idp4S8 ctl d a b => some (0x94180000 + ctl.bits + d.toNat * 4096 + a.toNat * 64 + b.toNat)
  | .idp4N8 ctl d a b => some (0x941C0000 + ctl.bits + d.toNat * 4096 + a.toNat * 64 + b.toNat)
  | .qnt ctl d a f => some (0x98000000 + ctl.bits + d.toNat * 32768 + a.toNat * 512 + f.toNat)
  | .deq ctl d a f => some (0x98000040 + ctl.bits + d.toNat * 32768 + a.toNat * 512 + f.toNat)
  | .scale ctl d a f => some (0x98000080 + ctl.bits + d.toNat * 32768 + a.toNat * 512 + f.toNat)
  | .sacc ctl d a f => some (0x980000C0 + ctl.bits + d.toNat * 32768 + a.toNat * 512 + f.toNat)
  | .cvt ctl c d a f => some (0x9C000000 + ctl.bits + c.toNat * 262144 + d.toNat * 4096 + a.toNat * 64 + f.toNat)
  | .lgetAt ctl d a b => some (0xA0000000 + ctl.bits + d.toNat * 4096 + a.toNat * 64 + b.toNat)
  | .lgetLo ctl d a b => some (0xA0040000 + ctl.bits + d.toNat * 4096 + a.toNat * 64 + b.toNat)
  | .lgetHi ctl d a b => some (0xA0080000 + ctl.bits + d.toNat * 4096 + a.toNat * 64 + b.toNat)
  | .lgetXr ctl d a b => some (0xA00C0000 + ctl.bits + d.toNat * 4096 + a.toNat * 64 + b.toNat)
  | .ballot ctl d p => some (0xA0100000 + ctl.bits + d.toNat * 4096 + p.toNat * 64)
  | .voteAny ctl q p => some (0xA0140000 + ctl.bits + q.toNat * 4096 + p.toNat * 64)
  | .voteAll ctl q p => some (0xA0180000 + ctl.bits + q.toNat * 4096 + p.toNat * 64)
  | .voteSame ctl q p => some (0xA01C0000 + ctl.bits + q.toNat * 4096 + p.toNat * 64)
  | .gred ctl d a t o => some (0xA4000000 + ctl.bits + d.toNat * 4096 + a.toNat * 64 + t.toNat * 8 + o.toNat)
  | .gscan ctl d a t o => some (0xA4040000 + ctl.bits + d.toNat * 4096 + a.toNat * 64 + t.toNat * 8 + o.toNat)
  | .bxch ctl d a m k => some (0xA8000000 + ctl.bits + d.toNat * 32768 + a.toNat * 512 + m.toNat * 8 + k.toNat)
  | .span ctl p => some (0xAC000000 + ctl.bits + p.toNat)
  | .spanq ctl d => some (0xAC040000 + ctl.bits + d.toNat * 4096)
  | .give ctl b => some (0xAC080000 + ctl.bits + b.toNat)
  | .claim ctl b => some (0xAC0C0000 + ctl.bits + b.toNat)
  | .ldg ctl l r t o w => some (0xB0000000 + ctl.bits + l.toNat * 131072 + r.toNat * 2048 + t.toNat * 256 + o.toNat * 4 + w.toNat)
  | .stg ctl r t o w => some (0xB4000000 + ctl.bits + r.toNat * 2048 + t.toNat * 256 + o.toNat * 4 + w.toNat)
  | .ldk ctl l r t o w => some (0xB8000000 + ctl.bits + l.toNat * 131072 + r.toNat * 2048 + t.toNat * 256 + o.toNat * 4 + w.toNat)
  | .stk ctl r t o w => some (0xBC000000 + ctl.bits + r.toNat * 2048 + t.toNat * 256 + o.toNat * 4 + w.toNat)
  | .lds ctl l r o w => some (0xC0000000 + ctl.bits + l.toNat * 131072 + r.toNat * 2048 + o.toNat * 4 + w.toNat)
  | .sts ctl r o w => some (0xC0000100 + ctl.bits + r.toNat * 2048 + o.toNat * 4 + w.toNat)
  | .ldfTake ctl l r o => some (0xC0000200 + ctl.bits + l.toNat * 131072 + r.toNat * 2048 + o.toNat * 4)
  | .ldfPeek ctl l r o => some (0xC0000300 + ctl.bits + l.toNat * 131072 + r.toNat * 2048 + o.toNat * 4)
  | .ste ctl l r o => some (0xC0000400 + ctl.bits + l.toNat * 131072 + r.toNat * 2048 + o.toNat * 4)
  | .stf ctl r o => some (0xC0000500 + ctl.bits + r.toNat * 2048 + o.toNat * 4)
  | .tagq ctl l r o => some (0xC0000600 + ctl.bits + l.toNat * 131072 + r.toNat * 2048 + o.toNat * 4)
  | .tags ctl v o w => some (0xC0000700 + ctl.bits + v.toNat * 2048 + o.toNat * 4 + w.toNat)
  | .ldd ctl l r o w => some (0xC4000000 + ctl.bits + l.toNat * 131072 + r.toNat * 2048 + o.toNat * 4 + w.toNat)
  | .std ctl r o w => some (0xC4000100 + ctl.bits + r.toNat * 2048 + o.toNat * 4 + w.toNat)
  | .atomAdd ctl l r t o w => some (0xC8000000 + ctl.bits + l.toNat * 131072 + r.toNat * 4096 + t.toNat * 256 + o.toNat * 4 + w.toNat)
  | .atomExch ctl l r t o w => some (0xC8000800 + ctl.bits + l.toNat * 131072 + r.toNat * 4096 + t.toNat * 256 + o.toNat * 4 + w.toNat)
  | .atomCas ctl l r t o w => some (0xC8000002 + ctl.bits + l.toNat * 131072 + r.toNat * 4096 + t.toNat * 256 + o.toNat * 4 + w.toNat)
  | .atomAnd ctl l r t o w => some (0xC8000802 + ctl.bits + l.toNat * 131072 + r.toNat * 4096 + t.toNat * 256 + o.toNat * 4 + w.toNat)
  | .atomOr ctl l r t o w => some (0xCC000000 + ctl.bits + l.toNat * 131072 + r.toNat * 4096 + t.toNat * 256 + o.toNat * 4 + w.toNat)
  | .atomXor ctl l r t o w => some (0xCC000800 + ctl.bits + l.toNat * 131072 + r.toNat * 4096 + t.toNat * 256 + o.toNat * 4 + w.toNat)
  | .atomMinS ctl l r t o w => some (0xCC000002 + ctl.bits + l.toNat * 131072 + r.toNat * 4096 + t.toNat * 256 + o.toNat * 4 + w.toNat)
  | .atomMaxS ctl l r t o w => some (0xCC000802 + ctl.bits + l.toNat * 131072 + r.toNat * 4096 + t.toNat * 256 + o.toNat * 4 + w.toNat)
  | .atomMinN ctl l r t o w => some (0xD0000000 + ctl.bits + l.toNat * 131072 + r.toNat * 4096 + t.toNat * 256 + o.toNat * 4 + w.toNat)
  | .atomMaxN ctl l r t o w => some (0xD0000800 + ctl.bits + l.toNat * 131072 + r.toNat * 4096 + t.toNat * 256 + o.toNat * 4 + w.toNat)
  | .atomFadd ctl l r t o w => some (0xD0000002 + ctl.bits + l.toNat * 131072 + r.toNat * 4096 + t.toNat * 256 + o.toNat * 4 + w.toNat)
  | .xlate ctl l t o => some (0xD4000000 + ctl.bits + l.toNat * 131072 + t.toNat * 256 + o.toNat * 4)
  | .pref ctl l t o => some (0xD4000800 + ctl.bits + l.toNat * 131072 + t.toNat * 256 + o.toNat * 4)
  | .cflush ctl l t o => some (0xD4001000 + ctl.bits + l.toNat * 131072 + t.toNat * 256 + o.toNat * 4)
  | .cinv ctl l t o => some (0xD4001800 + ctl.bits + l.toNat * 131072 + t.toNat * 256 + o.toNat * 4)
  | .phase ctl l t => some (0xD4002000 + ctl.bits + l.toNat * 131072 + t.toNat * 256)
  | .fence ctl l t => some (0xD4002800 + ctl.bits + l.toNat * 131072 + t.toNat * 256)
  | .fenceE ctl l t => some (0xD4003000 + ctl.bits + l.toNat * 131072 + t.toNat * 256)
  | .red32 ctl c r t o => some (0xD4000001 + ctl.bits + c.toNat * 131072 + r.toNat * 2048 + t.toNat * 256 + o.toNat * 4)
  | .red64 ctl c r t o => some (0xD4000002 + ctl.bits + c.toNat * 131072 + r.toNat * 2048 + t.toNat * 256 + o.toNat * 4)
  | .copy ctl l x y => some (0xD8000000 + ctl.bits + l.toNat * 131072 + x.toNat * 256 + y.toNat * 4)
  | .waitge ctl x y => some (0xD8004000 + ctl.bits + x.toNat * 256 + y.toNat * 4)
  | .waitgeContinuation ctl x y => some (0xD8008000 + ctl.bits + x.toNat * 256 + y.toNat * 4)
  | .qstat ctl x => some (0xD800C000 + ctl.bits + x.toNat * 256)
  | .mmaB8 ctl a x c k => some (0xDC000000 + ctl.bits + a.toNat * 16384 + x.toNat * 256 + c.toNat * 4 + k.toNat)
  | .mmaF ctl a x c k => some (0xE0000080 + ctl.bits + a.toNat * 16384 + x.toNat * 256 + c.toNat * 4 + k.toNat)
  | .mscl ctl x a => some (0xE4000000 + ctl.bits + x.toNat * 256 + a.toNat * 4)
  | .mzero ctl a => some (0xE4004000 + ctl.bits + a.toNat * 4)
  | .accld ctl x a => some (0xE4008000 + ctl.bits + x.toNat * 256 + a.toNat * 4)
  | .accst ctl x a => some (0xE400C000 + ctl.bits + x.toNat * 256 + a.toNat * 4)
  | .mwait ctl w a => some (0xE4010000 + ctl.bits + w.toNat * 32 + a.toNat * 4)
  | .chsend ctl x c => some (0xE8000000 + ctl.bits + x.toNat * 256 + c.toNat * 4)
  | .chrecv ctl l x c => some (0xE8004000 + ctl.bits + l.toNat * 131072 + x.toNat * 256 + c.toNat * 4)
  | .chpoll ctl x c k => some (0xE8008000 + ctl.bits + x.toNat * 256 + c.toNat * 4 + k.toNat)
  | .ldstep ctl l x y k => some (0xEC008000 + ctl.bits + l.toNat * 131072 + x.toNat * 256 + y.toNat * 8 + k.toNat)
  | .rets ctl x y => some (0xF0000000 + ctl.bits + x.toNat * 256 + y.toNat * 4)
  | .launch ctl l x => some (0xF0004000 + ctl.bits + l.toNat * 131072 + x.toNat * 256)
  | .accldFrameImage ctl x => some (0xE4008000 + ctl.bits + x.toNat * 256)
  | .accstFrameImage ctl x => some (0xE400C000 + ctl.bits + x.toNat * 256)
  | .stepend ctl => some (0xEC000000 + ctl.bits)
  | .slot ctl x y k => some (0xEC004000 + ctl.bits + x.toNat * 256 + y.toNat * 4 + k.toNat)
  | .npost ctl l x y => some (0xF0008000 + ctl.bits + l.toNat * 131072 + x.toNat * 256 + y.toNat * 4)
  | .sched p => some (0xF4000000 + p.toNat)
  | .imm p => some (0xF5000000 + p.toNat)
  | .mod p => some (0xF6000000 + p.toNat)
  | .live p => some (0xF7000000 + p.toNat)
  | .loadResultLanding _ _ => none
  | .pageTableWalk _ _ => none
  | .nopreWindowExpiry _ => none
  | .dozeWake _ => none
  | .tagStepPerformed _ _ => none
  | .atomicServiceRequest _ => none
  | .copyCompletion _ => none
  | .counterWaitSatisfied _ => none
  | .matrixCommandEntry _ _ => none
  | .matrixCommandCompletion _ => none
  | .channelEntryArrival _ _ => none
  | .toyBoxExtension _ _ => none
  | .waitForCheckerReport => none
  | .spanEnergyGrant _ => none
  | .spanEnergyTimeout _ => none
  | .spanMoveResume _ => none
  | .stepEndArrival _ _ _ => none
  | .stepBegin _ _ => none
  | .retsHandover _ => none
  | .workgroupRetirement _ => none
  | .launchPortSubmit _ _ => none
  | .launchPortKill _ _ _ => none
  | .homeQuery _ _ => none
  | .workgroupPlacement _ => none
  | .preemptionRequest _ => none
  | .preemptOverdue _ => none
  | .workgroupSave _ => none
  | .parkedGroupsUnpark _ => none
  | .workgroupRestore _ _ => none
  | .launchCompletion _ => none
  | .launchEndCompletion _ => none
  | .storageError _ => none
  | .floorFreezeLift _ => none
  | .droopRegulation _ _ => none
  | .supplyPathTest _ _ => none
  | .thermalHeadroomReport _ _ => none
  | .inFieldTestDue _ => none
  | .inFieldTestDeadline _ => none
  | .inputVoltageFault => none
  | .bringUp _ => none
  | .attestationReport _ => none
  | .linkFlitReplay _ => none
  | .linkRetrain _ _ => none
  | .networkMessageReceive _ => none
  | .noBufferRetransmit _ => none
  | .sendQueueTimeout _ => none
  | .sendAcknowledgement _ => none
  | .trimmedPacketReceive _ _ => none
  | .unsupportedPacketDrop _ _ _ _ => none
  | .ptpEventMessage _ _ _ => none
  | .ptpMasterLoss _ => none
  | .illegalWordFetch _ => none
  | .inFieldTestEnd _ => none
  | .applicationCoreAccess _ => none
  | .networkQueueOpen _ => none
  | .codeObjectLoad _ _ => none

/-- R78: the register pair of a 128-bit LDK or STK, and every listed value of R37, is checked with the word. -/
noncomputable def legalWord (sup : Bool) (n : Nat) : Bool :=
  match decodeWord sup n with
  | some i => wellFormed i
  | none => false

/-- The bytes of a 32-bit word as the hardware stores it, lowest address first (chapter 02: little-endian). -/
def wordBytes (w : Nat) : List Byte :=
  [.ofNat 8 w, .ofNat 8 (w / 256), .ofNat 8 (w / 65536), .ofNat 8 (w / 16777216)]

/-- The number held by bytes, lowest address first. -/
def bytesNat : List Byte → Nat
  | [] => 0
  | b :: bs => b.toNat + 256 * bytesNat bs

/-- The decoder on the bytes at the program counter: one instruction is 4 bytes, and the rest of the list is returned
with it. -/
noncomputable def decode (sup : Bool) : List Byte → Option (Instr × List Byte)
  | b0 :: b1 :: b2 :: b3 :: rest =>
    match decodeWord sup (bytesNat [b0, b1, b2, b3]) with
    | some i => some (i, rest)
    | none => none
  | _ => none

/-- The instruction that the decoder reads, in user mode, from a word whose bits are w; the rows of the table are whole
words of 32 bits. -/
noncomputable def decodeTableWord (nbits w : Nat) : Option Instr :=
  match decode false (wordBytes (w % 2 ^ nbits)) with
  | some (i, _) => some i
  | none => none

end Sys2Proof
end

