-- ==== Sys2Proof/Machine/Float.lean ====
section
/-!
DEFINITION. Machine/Float.lean: the number formats of chapter 05 and their arithmetic. Every operation computes the exact
value, as a sign, a natural number and a power of two with a sticky bit below it, and rounds it once.
-/

namespace Sys2Proof.Machine

/-! ### Flags (R8, R92) -/

def flagNX : DWord := 1
def flagUF : DWord := 2
def flagOF : DWord := 4
def flagDZ : DWord := 8
def flagNV : DWord := 16
def flagSclamp : DWord := 0x80

/-! ### Formats and values -/

/-- An IEEE format: exponent and fraction bits (R89). -/
structure FFmt where
  eb : Nat
  mb : Nat
  deriving DecidableEq, Repr

def f16 : FFmt := { eb := 5, mb := 10 }
def bf16 : FFmt := { eb := 8, mb := 7 }
def f32 : FFmt := { eb := 8, mb := 23 }
def f64 : FFmt := { eb := 11, mb := 52 }

def FFmt.bias (f : FFmt) : Int := 2 ^ (f.eb - 1) - 1

/-- The exponent of the last place of a subnormal number. -/
def FFmt.emin (f : FFmt) : Int := 1 - f.bias - f.mb
def FFmt.infBits (f : FFmt) : Nat := (2 ^ f.eb - 1) * 2 ^ f.mb
def FFmt.maxBits (f : FFmt) : Nat := f.infBits - 1

/-- The canonical NaN (R89, R90). -/
def FFmt.nanBits (f : FFmt) : Nat := f.infBits + 2 ^ (f.mb - 1)
def FFmt.signBit (f : FFmt) : Nat := 2 ^ (f.eb + f.mb)
def FFmt.signed (f : FFmt) (neg : Bool) (bits : Nat) : Nat := if neg then f.signBit + bits else bits

/-- A decoded value: NaN (signalling or not), an infinity, or (-1)^neg × m × 2^e. -/
inductive FVal where
  | nan (signalling : Bool)
  | inf (neg : Bool)
  | fin (neg : Bool) (m : Nat) (e : Int)
  deriving DecidableEq, Repr

def FFmt.decode (f : FFmt) (bits : Nat) : FVal :=
  let neg := bits / f.signBit % 2 == 1
  let ex := bits / 2 ^ f.mb % 2 ^ f.eb
  let fr := bits % 2 ^ f.mb
  if ex = 2 ^ f.eb - 1 then
    if fr = 0 then .inf neg else .nan (fr / 2 ^ (f.mb - 1) == 0)
  else if ex = 0 then .fin neg fr f.emin
  else .fin neg (2 ^ f.mb + fr) (f.emin + ex - 1)

/-- Rounding modes (R33, R91). -/
inductive Rm where
  | rne | rz | rd | ru | rna
  deriving DecidableEq, Repr

/-- The mode of a MOD RM field; 0 is the instruction's default (R33, R130). -/
def rmOf (deflt : Rm) (n : Nat) : Rm :=
  if n = 1 then .rne else if n = 2 then .rz else if n = 3 then .rd else if n = 4 then .ru
  else if n = 5 then .rna else deflt

/-- The number of bits of a natural number. -/
def bitLen (m : Nat) : Nat := if m = 0 then 0 else Nat.log2 m + 1

/-- Does rounding go up in magnitude? low is the part cut off compared with half a unit: its order and whether it is
zero; odd is the last bit kept. -/
def roundsUp (rm : Rm) (neg odd : Bool) (cmpHalf : Ordering) (zero : Bool) : Bool :=
  match rm with
  | .rne => cmpHalf == .gt || (cmpHalf == .eq && odd)
  | .rna => cmpHalf != .lt
  | .rz => false
  | .rd => neg && !zero
  | .ru => !neg && !zero

/-- Rounds m × 2^e (and a little more when sticky) to a multiple of 2^q: the multiple and whether it is inexact. tie
decides a tie between two odd neighbours (log entry 6). -/
def roundAt (rm : Rm) (tie : Option Bool) (neg : Bool) (m : Nat) (e : Int) (sticky : Bool) (q : Int) : Nat × Bool :=
  if q ≤ e then (m * 2 ^ (e - q).toNat + (if roundsUp rm neg false .lt (!sticky) then 1 else 0), sticky)
  else
    let sh := (q - e).toNat
    let hi := m / 2 ^ sh
    let lo := m % 2 ^ sh
    let half := 2 ^ (sh - 1)
    let c : Ordering := if lo < half then .lt else if half < lo then .gt else if sticky then .gt else .eq
    let zero := lo == 0 && !sticky
    let up := match tie, c, rm with
      | some b, .eq, .rne => if hi = 0 then false else b
      | _, _, _ => roundsUp rm neg (hi % 2 == 1) c zero
    (if up then hi + 1 else hi, !zero)

/-- Rounds to p significant bits with last place at or above emin: the multiple, its last place, inexact, tiny (R91,
R92: tiny after rounding with unbounded exponent). -/
def roundP (rm : Rm) (tie : Option Bool) (p : Nat) (emin : Int) (neg : Bool) (m : Nat) (e : Int) (sticky : Bool) :
    Nat × Int × Bool × Bool :=
  if m = 0 && !sticky then (0, emin, false, false) else
  let qu := e + bitLen m - p
  let q := max qu emin
  let (M, inexact) := roundAt rm tie neg m e sticky q
  let (Mu, _) := roundAt rm tie neg m e sticky qu
  let tiny := Mu != 0 && bitLen Mu + qu < emin + p
  (M, q, inexact, tiny)

/-- What a rounded result that overflows becomes: the infinity, or the largest finite number (R91). -/
def overflowsToInf (rm : Rm) (neg : Bool) : Bool :=
  match rm with
  | .rne => true
  | .rna => true
  | .rz => false
  | .rd => neg
  | .ru => !neg

/-- Rounds a finite value to an IEEE format (R91, R92): bits and flags. -/
def FFmt.round (f : FFmt) (rm : Rm) (neg : Bool) (m : Nat) (e : Int) (sticky : Bool) : Nat × DWord :=
  let (M, q, inexact, tiny) := roundP rm none (f.mb + 1) f.emin neg m e sticky
  let bits := (q - f.emin).toNat * 2 ^ f.mb + M
  if M = 0 then (f.signed neg 0, if inexact then flagNX ||| flagUF else 0)
  else if f.infBits ≤ bits then
    (f.signed neg (if overflowsToInf rm neg then f.infBits else f.maxBits), flagOF ||| flagNX)
  else (f.signed neg bits, (if inexact then flagNX else 0) ||| (if tiny && inexact then flagUF else 0))

/-- A decoded value in a format (conversions between formats: R102). -/
def FFmt.ofVal (f : FFmt) (rm : Rm) (v : FVal) (sticky : Bool) : Nat × DWord :=
  match v with
  | .nan sig => (f.nanBits, if sig then flagNV else 0)
  | .inf neg => (f.signed neg f.infBits, 0)
  | .fin neg m e => f.round rm neg m e sticky

/-- SAT turns an infinite result into the largest finite number of its sign (R91): what is delivered then differs from the
exact result, so NX is set, even where that is an infinity (R92, R132). -/
def FFmt.sat (f : FFmt) (sat : Bool) (r : Nat × DWord) : Nat × DWord :=
  if sat && r.1 % f.signBit == f.infBits then (r.1 - 1, r.2 ||| flagNX) else r

/-- The same for a function of R103, whose table alone names the flags of a special operand; where that function rounds to an
infinity, R103 does not say whether its flags are decided before SAT or after, and OF and NX of the infinity stay (DESIGN CHOICE,
log entry 74). -/
def FFmt.satListed (f : FFmt) (sat : Bool) (r : Nat × DWord) : Nat × DWord :=
  if sat && r.1 % f.signBit == f.infBits then (r.1 - 1, r.2) else r

/-! ### Arithmetic (R90, R132) -/

def FVal.isSnan : FVal → Bool
  | .nan s => s
  | _ => false

def FVal.isNan : FVal → Bool
  | .nan _ => true
  | _ => false

def FVal.negate : FVal → FVal
  | .nan s => .nan s
  | .inf n => .inf (!n)
  | .fin n m e => .fin (!n) m e

/-- NV where an operand is a signalling NaN (R90). -/
def snanFlag (vs : List FVal) : DWord := if vs.any FVal.isSnan then flagNV else 0

/-- A signed integer times 2^e. -/
def signedInt (neg : Bool) (m : Nat) : Int := if neg then -(m : Int) else m

/-- The exact sum of two finite values; an exact zero has the sign that IEEE 754 gives it (R90). -/
def exactAdd (rm : Rm) (n1 : Bool) (m1 : Nat) (e1 : Int) (n2 : Bool) (m2 : Nat) (e2 : Int) : Bool × Nat × Int :=
  let e := min e1 e2
  let i := signedInt n1 (m1 * 2 ^ (e1 - e).toNat) + signedInt n2 (m2 * 2 ^ (e2 - e).toNat)
  if i = 0 then ((if n1 == n2 then n1 else rm == .rd), 0, e) else (decide (i < 0), i.natAbs, e)

def fAddVal (f : FFmt) (rm : Rm) (x y : FVal) : Nat × DWord :=
  match x, y with
  | .nan a, .nan b => (f.nanBits, if a || b then flagNV else 0)
  | .nan a, _ => (f.nanBits, if a then flagNV else 0)
  | _, .nan b => (f.nanBits, if b then flagNV else 0)
  | .inf a, .inf b => if a == b then (f.signed a f.infBits, 0) else (f.nanBits, flagNV)
  | .inf a, _ => (f.signed a f.infBits, 0)
  | _, .inf b => (f.signed b f.infBits, 0)
  | .fin n1 m1 e1, .fin n2 m2 e2 =>
    let (n, m, e) := exactAdd rm n1 m1 e1 n2 m2 e2
    f.round rm n m e false

def fAdd (f : FFmt) (rm : Rm) (x y : Nat) : Nat × DWord := fAddVal f rm (f.decode x) (f.decode y)
def fSub (f : FFmt) (rm : Rm) (x y : Nat) : Nat × DWord := fAddVal f rm (f.decode x) (f.decode y).negate

/-- The exact product, or the special one; the flag is set where it is invalid (R90). -/
def mulVal (x y : FVal) : FVal × Bool :=
  match x, y with
  | .nan _, _ => (.nan false, false)
  | _, .nan _ => (.nan false, false)
  | .inf a, .inf b => (.inf (xor a b), false)
  | .inf a, .fin b m _ => if m = 0 then (.nan false, true) else (.inf (xor a b), false)
  | .fin a m _, .inf b => if m = 0 then (.nan false, true) else (.inf (xor a b), false)
  | .fin a m e, .fin b k d => (.fin (xor a b) (m * k) (e + d), false)

def fMul (f : FFmt) (rm : Rm) (x y : Nat) : Nat × DWord :=
  let (a, b) := (f.decode x, f.decode y)
  let (p, bad) := mulVal a b
  let (r, fl) := f.ofVal rm p false
  (r, fl ||| snanFlag [a, b] ||| (if bad then flagNV else 0))

def fFma (f : FFmt) (rm : Rm) (x y z : Nat) : Nat × DWord :=
  let (a, b, c) := (f.decode x, f.decode y, f.decode z)
  let (p, bad) := mulVal a b
  let (r, fl) := fAddVal f rm p c
  (r, fl ||| snanFlag [a, b, c] ||| (if bad then flagNV else 0))

/-- A quotient of naturals to at least n bits, with the sticky bit. -/
def divBits (a b n : Nat) : Nat × Int × Bool :=
  let sh := n + bitLen b - bitLen a + 1
  let q := a * 2 ^ sh / b
  (q, -(sh : Int), a * 2 ^ sh % b != 0)

def fDiv (f : FFmt) (rm : Rm) (x y : Nat) : Nat × DWord :=
  match f.decode x, f.decode y with
  | .nan a, .nan b => (f.nanBits, if a || b then flagNV else 0)
  | .nan a, _ => (f.nanBits, if a then flagNV else 0)
  | _, .nan b => (f.nanBits, if b then flagNV else 0)
  | .inf _, .inf _ => (f.nanBits, flagNV)
  | .inf a, .fin b _ _ => (f.signed (xor a b) f.infBits, 0)
  | .fin a _ _, .inf b => (f.signed (xor a b) 0, 0)
  | .fin a m e, .fin b k d =>
    if k = 0 then
      if m = 0 then (f.nanBits, flagNV) else (f.signed (xor a b) f.infBits, flagDZ)
    else if m = 0 then (f.signed (xor a b) 0, 0)
    else
      let (q, s, st) := divBits m k (f.mb + 3)
      f.round rm (xor a b) q (s + e - d) st

/-- The integer square root by its bits, from bit k down. -/
def sqrtBits (n : Nat) : Nat → Nat → Nat
  | 0, r => if (r + 1) * (r + 1) ≤ n then r + 1 else r
  | k + 1, r => sqrtBits n k (if (r + 2 ^ (k + 1)) * (r + 2 ^ (k + 1)) ≤ n then r + 2 ^ (k + 1) else r)

def isqrt (n : Nat) : Nat := sqrtBits n (bitLen n / 2 + 1) 0

def fSqrt (f : FFmt) (rm : Rm) (x : Nat) : Nat × DWord :=
  match f.decode x with
  | .nan a => (f.nanBits, if a then flagNV else 0)
  | .inf true => (f.nanBits, flagNV)
  | .inf false => (f.infBits, 0)
  | .fin neg m e =>
    if m = 0 then (f.signed neg 0, 0)
    else if neg then (f.nanBits, flagNV)
    else
      -- an even exponent and enough bits below
      let sh := 2 * (f.mb + 3) + (if (e % 2 == 0) then 0 else 1)
      let n := m * 2 ^ sh
      let r := isqrt n
      f.round rm false r ((e - sh) / 2) (r * r != n)

/-- The order of two decoded numbers (NaN aside): -0 and +0 are equal. -/
def FVal.lt (x y : FVal) : Bool :=
  match x, y with
  | .nan _, _ => false
  | _, .nan _ => false
  | .inf a, .inf b => a && !b
  | .inf a, .fin _ _ _ => a
  | .fin _ _ _, .inf b => !b
  | .fin a m e, .fin b k d =>
    let q := min e d
    decide (signedInt a (m * 2 ^ (e - q).toNat) < signedInt b (k * 2 ^ (d - q).toNat))

def FVal.eq (x y : FVal) : Bool := !x.isNan && !y.isNan && !x.lt y && !y.lt x

/-- FMIN and FMAX (R93); num selects minimumNumber and maximumNumber. -/
def fMinMax (f : FFmt) (isMax num : Bool) (x y : Nat) : Nat × DWord :=
  let (a, b) := (f.decode x, f.decode y)
  let fl := snanFlag [a, b]
  if a.isNan && b.isNan then (f.nanBits, fl)
  else if a.isNan then (if num then y else f.nanBits, fl)
  else if b.isNan then (if num then x else f.nanBits, fl)
  else
    let xNeg := x / f.signBit % 2 == 1
    let less := a.lt b || (a.eq b && xNeg)
    (if less == isMax then y else x, fl)

/-- FCMP's conditions and NV (R136). -/
def fCompare (f : FFmt) (fn x y : Nat) : Bool × DWord :=
  let (a, b) := (f.decode x, f.decode y)
  let un := a.isNan || b.isNan
  let r := if fn = 0 then a.eq b else if fn = 1 then a.lt b else if fn = 2 then a.lt b || a.eq b
    else if fn = 3 then un else if fn = 4 then !(a.eq b) else !un
  (r, if fn = 1 || fn = 2 then (if un then flagNV else 0) else snanFlag [a, b])

/-- FCLASS (R135). -/
def fClass (f : FFmt) (x : Nat) : Nat :=
  let neg := x / f.signBit % 2 == 1
  let ex := x / 2 ^ f.mb % 2 ^ f.eb
  match f.decode x with
  | .nan true => 1
  | .nan false => 2
  | .inf true => 4
  | .inf false => 512
  | .fin _ m _ =>
    if m = 0 then (if neg then 32 else 64)
    else if ex = 0 then (if neg then 16 else 128) else (if neg then 8 else 256)

/-- FRND (R134). -/
def fRound (f : FFmt) (rm : Rm) (x : Nat) : Nat × DWord :=
  match f.decode x with
  | .nan s => (f.nanBits, if s then flagNV else 0)
  | .inf _ => (x, 0)
  | .fin neg m e =>
    if m = 0 then (x, 0)
    else
      let (i, _) := roundAt rm none neg m e false 0
      if i = 0 then (f.signed neg 0, 0) else ((f.round rm neg i 0 false).1, 0)

/-! ### Conversions (R98, R102, R139) -/

/-- From a floating-point value to an integer of w bits (R102). -/
def toIntVal (rm : Rm) (w : Nat) (signed : Bool) (v : FVal) : Int × DWord :=
  let lo : Int := if signed then -(2 ^ (w - 1)) else 0
  let hi : Int := if signed then 2 ^ (w - 1) - 1 else 2 ^ w - 1
  match v with
  | .nan _ => (0, flagNV)
  | .inf neg => (if neg then lo else hi, flagNV)
  | .fin neg m e =>
    let (i, inexact) := roundAt rm none neg m e false 0
    let r := signedInt neg i
    if hi < r then (hi, flagNV) else if r < lo then (lo, flagNV) else (r, if inexact then flagNX else 0)

/-- A binary8 format code (R38): precision, finite-only, unsigned. -/
structure B8 where
  p    : Nat
  fin_ : Bool
  uns  : Bool
  deriving DecidableEq, Repr

def b8Of (code : Nat) : B8 := { p := code % 8, fin_ := code / 8 % 2 == 1, uns := code / 16 % 2 == 1 }
def B8.bias (b : B8) : Int := 2 ^ (7 - b.p)
def B8.emin (b : B8) : Int := 1 - b.bias - (b.p - 1 : Nat)

/-- The code of the largest finite number (R96), of +infinity and of NaN (R95). -/
def B8.maxCode (b : B8) : Nat := if b.uns then (if b.fin_ then 0xFE else 0xFD) else (if b.fin_ then 0x7F else 0x7E)
def B8.nanCode (b : B8) : Nat := if b.uns then 0xFF else 0x80

/-- Decode8 (R94, R95). -/
def B8.decode (b : B8) (c : Nat) : FVal :=
  if c = b.nanCode then .nan false
  else if !b.fin_ && !b.uns && c = 0x7F then .inf false
  else if !b.fin_ && !b.uns && c = 0xFF then .inf true
  else if !b.fin_ && b.uns && c = 0xFE then .inf false
  else
    let neg := !b.uns && c / 128 == 1
    let m := if b.uns then c else c % 128
    let e := m / 2 ^ (b.p - 1)
    let t := m % 2 ^ (b.p - 1)
    if e = 0 then .fin neg t b.emin else .fin neg (2 ^ (b.p - 1) + t) (b.emin + e - 1)

/-- The code that the matrix engine reads in place of a NaN or infinity (R97). -/
def B8.subst (b : B8) (c : Nat) : Nat :=
  if c = b.nanCode then 0
  else if b.fin_ then c
  else if b.uns then (if c = 0xFE then 0xFD else c)
  else if c = 0x7F then 0x7E else if c = 0xFF then 0xFE else c

/-- The largest finite code of a sign. -/
def B8.maxSigned (b : B8) (neg : Bool) : Nat := if neg then b.maxCode + 128 else b.maxCode

/-- Conversion to a binary8 variant (R98). -/
def B8.ofVal (b : B8) (rm : Rm) (sat tie : Bool) (v : FVal) (sticky : Bool) : Nat × DWord :=
  match v with
  | .nan sig => (b.nanCode, if sig then flagNV else 0)
  | .inf neg =>
    if neg && b.uns then (if sat then (0, flagNX) else (0xFF, flagNV))
    else if sat || b.fin_ then (b.maxSigned neg, flagOF ||| flagNX)
    else (if b.uns then 0xFE else if neg then 0xFF else 0x7F, 0)
  | .fin neg m e =>
    if m = 0 && !sticky then (0, 0) else
    let (M, q, inexact, tiny) := roundP rm (if b.p = 1 then some tie else none) b.p b.emin neg m e sticky
    if M = 0 then (0, flagUF ||| flagNX)
    else if neg && b.uns then (if sat then (0, flagNX) else (0xFF, flagNV))
    else
      let code := (q - b.emin).toNat * 2 ^ (b.p - 1) + M
      if b.maxCode < code then
        if sat || b.fin_ || !overflowsToInf rm neg then (b.maxSigned neg, flagOF ||| flagNX)
        else (if b.uns then 0xFE else if neg then 0xFF else 0x7F, flagOF ||| flagNX)
      else (if neg then code + 128 else code,
            (if inexact then flagNX else 0) ||| (if tiny && inexact then flagUF else 0))

/-! ### The scale format S16 (R99 to R101) -/

/-- The S16 code that every reader takes: a reserved one reads as 0xFF7F (R99). -/
def s16Code (code : Nat) : Nat := if 0xFF80 ≤ code then 0xFF7F else code

/-- The value of an S16 code as m × 2^e (R99). -/
def s16Val (code : Nat) : Nat × Int :=
  let c := s16Code code
  let e := c / 128
  if e = 0 then (c % 128, -261) else (128 + c % 128, (e : Int) - 262)

/-- The smallest E with m × 2^e ≤ M × 2^E (R100), searched from a lower bound upward. -/
def smallestE (m : Nat) (e : Int) (mm : Nat) (me : Int) : Nat → Int → Int
  | 0, E => E
  | n + 1, E =>
    let q := min e (me + E)
    if m * 2 ^ (e - q).toNat ≤ mm * 2 ^ (me + E - q).toNat then E else smallestE m e mm me n (E + 1)

/-- SCALE (R100): the code and SCLAMP. -/
def scaleOf (b : B8) (amax : Nat) : Nat × DWord :=
  let mag := amax % 2 ^ 31
  let clamped := f32.infBits ≤ mag
  let a := if clamped then f32.maxBits else mag
  let fl := if clamped then flagSclamp else 0
  match f32.decode a, b.decode b.maxCode with
  | .fin _ m e, .fin _ mm me =>
    if m = 0 then (0x80, flagSclamp)
    else
      let E := smallestE m e mm me 4 (e + bitLen m - (me + bitLen mm) - 1)
      let x := E + 255
      if x < 1 then (0x80, fl ||| flagSclamp) else (x.toNat * 128, fl)
  | _, _ => (0x80, fl)

/-- The quotient x / s of QNT as a value with a sticky bit, and DZ (R101). -/
def qntQuot (x : FVal) (s : Nat × Int) : FVal × Bool × DWord :=
  match x with
  | .nan g => (.nan g, false, 0)
  | .inf n => (.inf n, false, 0)
  | .fin neg m e =>
    if m = 0 then (.fin neg 0 0, false, 0)
    else if s.1 = 0 then (.inf neg, false, flagDZ)
    else
      let (q, sh, st) := divBits m s.1 70
      (.fin neg q (sh + e - s.2), st, 0)

/-! ### Approximated functions (R103) -/

/-- Fixed-point numbers of 320 fraction bits. -/
def fpBits : Nat := 320
def fpOne : Int := 2 ^ fpBits
def fpMul (a b : Int) : Int := a * b / fpOne

/-- 2 atanh(n/d) in fixed point, k terms of the series from the term with odd number i. -/
def atanhTerms (z2 : Int) : Nat → Nat → Int → Int
  | 0, _, _ => 0
  | k + 1, i, t => t / i + atanhTerms z2 k (i + 2) (fpMul t z2)

def fpLn (num den : Int) : Int :=
  let z := (num - den) * fpOne / (num + den)
  2 * atanhTerms (fpMul z z) 110 1 z

def fpLn2 : Int := fpLn 2 1

/-- atan(1/n) in fixed point (for pi by Machin's sum). -/
def atanTerms (n2 : Int) : Nat → Nat → Int → Int
  | 0, _, _ => 0
  | k + 1, i, t => t / i - atanTerms n2 k (i + 2) (t / n2)

def fpPi : Int := 16 * atanTerms 25 75 1 (fpOne / 5) - 4 * atanTerms 57121 25 1 (fpOne / 239)

/-- The exponential series, and the sine and cosine series: term i and the rest. -/
def expTerms (x : Int) : Nat → Nat → Int → Int
  | 0, _, _ => 0
  | k + 1, i, t => t + expTerms x k (i + 1) (fpMul t x / i)

def sinTerms (x2 : Int) : Nat → Nat → Int → Int
  | 0, _, _ => 0
  | k + 1, i, t => t - sinTerms x2 k (i + 2) (fpMul t x2 / (i * (i + 1)))

/-- m × 2^e in fixed point. -/
def fpOf (neg : Bool) (m : Nat) (e : Int) : Int :=
  let sh := e + fpBits
  signedInt neg (if 0 ≤ sh then m * 2 ^ sh.toNat else m / 2 ^ (-sh).toNat)

/-- The numbers of the functions as Config.approx names them. -/
def fnRcp : Nat := 0
def fnRsq : Nat := 1
def fnExp2 : Nat := 2
def fnLog2 : Nat := 3
def fnSin : Nat := 4
def fnCos : Nat := 5
def fnRcp64 : Nat := 6
def fnRsq64 : Nat := 7

/-- 2^x, log2 x, sin x and cos x in fixed point, to far more bits than the bound needs; the angle is taken about pi, and
sin x = -sin (x - pi), cos x = -cos (x - pi). -/
def fpExp2 (x : Int) : Int × Int :=
  let k := x / fpOne
  (k, expTerms (fpMul (x - k * fpOne) fpLn2) 90 1 fpOne)

def fpLog2 (m : Nat) (e : Int) : Int :=
  let b := bitLen m
  (e + b - 1) * fpOne + fpLn m (2 ^ (b - 1)) * fpOne / fpLn2

def fpSin (x : Int) : Int :=
  let r := x % (2 * fpPi) - fpPi
  Int.neg (sinTerms (fpMul r r) 60 2 r)

def fpCos (x : Int) : Int :=
  let r := x % (2 * fpPi) - fpPi
  Int.neg (sinTerms (fpMul r r) 60 1 fpOne)

/-- The spacing of f32 or f64 at the magnitude of a fixed-point value times 2^k, as an exponent (R103). -/
def ulpExp (f : FFmt) (v : Int) (k : Int) : Int := max (bitLen v.natAbs + k - fpBits - (f.mb + 1)) f.emin

/-- Is a candidate's value within n units 2^u of the fixed-point value v × 2^k? Its 320 fraction bits hold the exact result to far
more places than tell it from n units off (log entry 3). -/
def within (f : FFmt) (cand : Nat) (v k : Int) (n : Nat) (u : Int) : Bool :=
  match f.decode cand with
  | .fin neg m e =>
    let q := min (min e (k - fpBits)) u
    let c := signedInt neg (m * 2 ^ (e - q).toNat)
    let x := v * 2 ^ (k - fpBits - q).toNat
    (c - x).natAbs ≤ n * 2 ^ (u - q).toNat
  | _ => false

/-- The device's result where it keeps the bound, else the value rounded to nearest; NX always, UF when it is subnormal
or zero, OF when it is infinite (R103). -/
def approxResult (f : FFmt) (cand : Nat) (v k : Int) (n : Nat) (u : Int) : Nat × DWord :=
  let near := (f.round .rne (decide (v < 0)) v.natAbs (k - fpBits) true).1
  let r := if near % f.signBit != f.infBits && within f (cand % (2 * f.signBit)) v k n u
    then cand % (2 * f.signBit) else near
  let mag := r % f.signBit
  (r, flagNX ||| (if mag < 2 ^ f.mb then flagUF else 0) ||| (if mag = f.infBits then flagOF else 0))

/-- Is a natural number a power of two? -/
def isPow2 (m : Nat) : Bool := m != 0 && m == 2 ^ (bitLen m - 1)

/-- FRCP (R103). -/
def fRcp (f : FFmt) (fn x : Nat) : Nat × DWord :=
  match f.decode x with
  | .nan s => (f.nanBits, if s then flagNV else 0)
  | .inf neg => (f.signed neg 0, 0)
  | .fin neg m e =>
    if m = 0 then (f.signed neg f.infBits, flagDZ)
    else
      let near := f.round .rne neg 1 (1 - bitLen m - e) false
      if isPow2 m && 2 ^ f.mb ≤ near.1 % f.signBit && near.1 % f.signBit < f.infBits then near
      else
        let v := signedInt neg (2 ^ (fpBits + bitLen m) / m)
        let k := -e - bitLen m
        approxResult f (Config.approx fn (.ofNat 64 x)).toNat v k 1 (ulpExp f v k)

/-- FRSQ (R103). -/
def fRsq (f : FFmt) (fn x : Nat) : Nat × DWord :=
  match f.decode x with
  | .nan s => (f.nanBits, if s then flagNV else 0)
  | .inf true => (f.nanBits, flagNV)
  | .inf false => (0, 0)
  | .fin neg m e =>
    if m = 0 then (f.signed neg f.infBits, flagDZ)
    else if neg then (f.nanBits, flagNV)
    else
      let odd := e % 2 != 0
      let m' := if odd then 2 * m else m
      let e' := if odd then e - 1 else e
      if isPow2 m' && (bitLen m' - 1) % 2 == 0 then f.round .rne false 1 (-((bitLen m' - 1 : Nat) + e') / 2) false
      else
        -- 1/sqrt(m' 2^e') = sqrt(2^(2 fpBits + 2 b) / m') 2^(-e'/2 - b) in fixed point
        let b := bitLen m'
        let v : Int := isqrt (2 ^ (2 * fpBits + 2 * b) / m')
        let k := -e' / 2 - b
        approxResult f (Config.approx fn (.ofNat 64 x)).toNat v k 1 (ulpExp f v k)

/-- FEXP2 on f32 (R103). -/
def fExp2 (x : Nat) : Nat × DWord :=
  match f32.decode x with
  | .nan s => (f32.nanBits, if s then flagNV else 0)
  | .inf true => (0, 0)
  | .inf false => (f32.infBits, flagOF ||| flagNX)
  | .fin neg m e =>
    if !neg && !FVal.lt (.fin neg m e) (.fin false 128 0)
    then (f32.infBits, flagOF ||| flagNX)
    else if !FVal.lt (.fin true 150 0) (.fin neg m e) then (0, flagUF ||| flagNX)
    else
      let (i, inexact) := roundAt .rz none neg m e false 0
      if !inexact then ((f32.round .rne false 1 (signedInt neg i) false).1, 0)
      else
        let (k, v) := fpExp2 (fpOf neg m e)
        let u := if FVal.lt (.fin neg m e) (.fin true 126 0) then (-148 : Int) else ulpExp f32 v k
        let n := if FVal.lt (.fin neg m e) (.fin true 126 0) then 1 else 2
        approxResult f32 (Config.approx fnExp2 (.ofNat 64 x)).toNat v k n u

/-- FLOG2 on f32 (R103). -/
def fLog2 (x : Nat) : Nat × DWord :=
  match f32.decode x with
  | .nan s => (f32.nanBits, if s then flagNV else 0)
  | .inf true => (f32.nanBits, flagNV)
  | .inf false => (f32.infBits, 0)
  | .fin neg m e =>
    if m = 0 then (f32.signed true f32.infBits, flagDZ)
    else if neg then (f32.nanBits, flagNV)
    else if isPow2 m then
      let i := e + bitLen m - 1
      (f32.round .rne (decide (i < 0)) i.natAbs 0 false).1 |> fun r => (r, 0)
    else
      let v := fpLog2 m e
      approxResult f32 (Config.approx fnLog2 (.ofNat 64 x)).toNat v 0 2 (ulpExp f32 v 0)

/-- sin x or cos x as v × 2^k in fixed point. Below 2^-64 the series has less room than its own error, and the exact result lies less
than one unit of v below x (or below 1). -/
def sinCosVal (isCos neg : Bool) (m : Nat) (e : Int) : Int × Int :=
  if FVal.lt (.fin false m e) (.fin false 1 (-64)) then
    if isCos then (fpOne - 1, 0) else (signedInt neg (m * 2 ^ 100 - 1), e + fpBits - 100)
  else ((if isCos then fpCos else fpSin) (fpOf neg m e), 0)

/-- FSIN and FCOS on f32 (R103). -/
def fSinCos (isCos : Bool) (x : Nat) : Nat × DWord :=
  match f32.decode x with
  | .nan s => (f32.nanBits, if s then flagNV else 0)
  | .inf _ => (f32.nanBits, flagNV)
  | .fin neg m e =>
    if m = 0 then (if isCos then 0x3F800000 else x, 0)
    else
      let (v, k) := sinCosVal isCos neg m e
      let far := FVal.lt (.fin false 256 0) (.fin false m e)
      approxResult f32 (Config.approx (if isCos then fnCos else fnSin) (.ofNat 64 x)).toNat v k
        (if far then 1 else 2) (if far then -20 else ulpExp f32 v k)

end Sys2Proof.Machine
end

