-- ==== Sys2Proof/Machine/SMap.lean ====
section
/-!
DEFINITION. Machine/SMap.lean: finite maps from numbers as sorted lists of pairs in one canonical form: keys strictly
rising, and no entry equal to what an unlisted key reads as. Memory, register files and every other sparse table of the
state are such maps.
-/

namespace Sys2Proof.Machine

/-- A map from numbers: unlisted keys read as a default that the reader names. -/
abbrev SMap (β : Type) := List (Nat × β)

/-- The value at a key; d when the key is not listed. -/
def mapGet {β : Type} (d : β) : SMap β → Nat → β
  | [], _ => d
  | (k, x) :: m, i => if k = i then x else mapGet d m i

/-- The map with no entry at a key. -/
def mapErase {β : Type} : SMap β → Nat → SMap β
  | [], _ => []
  | (k, x) :: m, i => if k = i then mapErase m i else (k, x) :: mapErase m i

/-- Puts an entry in its place, in front of the first larger key. -/
def mapIns {β : Type} (i : Nat) (x : β) : SMap β → SMap β
  | [] => [(i, x)]
  | (k, y) :: m => if i < k then (i, x) :: (k, y) :: m else (k, y) :: mapIns i x m

/-- Writes one key; writing the default removes the entry. -/
def mapSet {β : Type} [DecidableEq β] (d : β) (m : SMap β) (i : Nat) (x : β) : SMap β :=
  if x = d then mapErase m i else mapIns i x (mapErase m i)

/-- Keys strictly rise from above a bound and no entry holds the default. -/
def mapWfFrom {β : Type} [DecidableEq β] (d : β) : Option Nat → SMap β → Bool
  | _, [] => true
  | lo, (k, x) :: m =>
    (match lo with | none => true | some l => decide (l < k)) && decide (x ≠ d) && mapWfFrom d (some k) m

/-- The canonical form. -/
def mapWf {β : Type} [DecidableEq β] (d : β) (m : SMap β) : Bool := mapWfFrom d none m

/-- Writes consecutive keys from a list. -/
def mapSetList {β : Type} [DecidableEq β] (d : β) (m : SMap β) (i : Nat) : List β → SMap β
  | [] => m
  | x :: xs => mapSetList d (mapSet d m i x) (i + 1) xs

/-- Reads n consecutive keys. -/
def mapGetList {β : Type} (d : β) (m : SMap β) (i : Nat) : Nat → List β
  | 0 => []
  | n + 1 => mapGet d m i :: mapGetList d m (i + 1) n

end Sys2Proof.Machine
end

