-- ==== Sys2Proof/Machine/State.lean ====
section
/-!
DEFINITION. Machine/State.lean: everything the spec gives the machine, as plain data. The group whose turn it is, and the
workgroup, core and launch it belongs to, stand in the fields cur, wg, core and launch; the lists beside them hold the
others. INVENTORY.md lists every field with the rule that names it and its value at reset.
-/

namespace Sys2Proof.Machine

/-! ### Ordering (chapter 12) -/

/-- What happens before a point of a party (R209): by word, the numbers of the writes of it. Keys from 2^62 on hold events that
write no word of memory: sync points and FENCE.e (R218), and the commands of a tile that an MWAIT covers (R222). -/
abbrev Know := SMap (List Nat)

/-- A party of the ordering model (R194): a group on a core, an application core or network endpoint, or the device. -/
inductive Party where
  | group (g : GKey) (core : Nat)
  | outside
  | device
  deriving DecidableEq, Repr

/-- A publication of a write: the scope and the party of the sync point that made it (R206, R207). -/
structure Pub where
  scope : Nat
  party : Party
  deriving DecidableEq, Repr

/-- A release that a write carries (R194, R208). -/
structure Rel where
  know  : Know
  scope : Nat
  party : Party
  deriving DecidableEq, Repr

/-- One write of a word (R203, R205): its number among the writes of the word, the word it leaves and which of its bytes it
writes, who made it and on which core, whether it is readable by every party as soon as it is performed (R213), whether it
has reached the L2, its publications, the sync points and FENCE.e that make it engine-visible (R218), and the releases of the
release sequences that it belongs to (R208). -/
structure Version where
  id    : Nat
  val   : Word
  mask  : BitVec 4
  owner : Option GKey
  core  : Nat
  open_ : Bool
  l2    : Bool
  pubs  : List Pub
  syncs : List Nat
  rels  : List Rel
  deriving DecidableEq, Repr

/-- The writes of one word in coherence order, newest first, above its initial value, and how many have been made. Writes
that only an L1 holds stand above every write in the L2: their places are not settled yet (R205). -/
structure WordHist where
  init : Word
  vers : List Version
  made : Nat
  deriving DecidableEq, Repr

/-! ### Groups -/

/-- A translation register t0 to t7 (R4, R10, R314). -/
structure TReg where
  base  : DWord
  frame : Nat
  limit : Nat
  rd    : Bool
  wr    : Bool
  deriving DecidableEq, Repr

/-- A thread's place in its group: the thread held, its registers v0 to v63 and p0 to p7 (R4), and the registers whose
unit is uncorrectable (R318). -/
structure Lane where
  thread : Option Nat
  v      : SMap Word
  p      : BitVec 8
  bad    : List Nat
  deriving DecidableEq, Repr

/-- An entry of the reconvergence stack (R69): PEND or CONV. -/
structure StackEntry where
  pend : Bool
  pc   : DWord
  mask : Mask
  deriving DecidableEq, Repr

/-- The hint words executed since the last non-hint word (R30): where the run begins, the IMM and MOD payloads, and the
first hint word that fails check 1. -/
structure Run where
  first : Option DWord
  imm   : Option (BitVec 24)
  mod   : Option (BitVec 24)
  bad   : Option Word
  deriving DecidableEq, Repr

/-- A load's width (R76): 8, 16, 32, 64 or 128 bits, and the sign extension of a narrow one. -/
structure Width where
  bytes  : Nat
  signed : Bool
  deriving DecidableEq, Repr

/-- The tagged operations (R184). -/
inductive TagOp where
  | take | peek | fill | force
  deriving DecidableEq, Repr

/-- What a lane or a uniform instruction still has outstanding in its lookahead window (R26). -/
inductive PendAct where
  /-- a global load into a vector register, or into a uniform register when the entry names no lane -/
  | load (pa : Nat) (w : Width) (r : Nat)
  /-- a scratchpad load (R183) -/
  | pad (off : Nat) (w : Width) (r : Nat)
  /-- a window load (R189) -/
  | window (a : Nat) (w : Width) (r : Nat)
  /-- the pop side of an operand queue filled by a shadow's load (R241): the queue and the word's place -/
  | push (global : Bool) (a : Nat) (w : Width) (q : Nat)
  /-- XLATE (R79) -/
  | xlate (base : DWord) (t : Nat)
  /-- a tagged step not yet performed (R184 to R186) -/
  | tag (op : TagOp) (off : Nat) (datum : Word) (r : Nat)
  /-- TAGQ (R188) -/
  | tagq (off : Nat) (r : Nat)
  /-- an ATOM sent to its owner, by its request number (R192) -/
  | atom (id : Nat)
  /-- a word already taken for a vector register that has not landed (R26, R263) -/
  | word (r : Nat) (w : Word)
  /-- the same for a uniform register -/
  | uword (r : Nat) (x : DWord)
  /-- a result for a uniform predicate (R280) -/
  | pred (c : Nat) (b : Bool)
  /-- TAGS on one lane's range (R187) -/
  | tags (off n : Nat) (full : Bool)
  /-- FENCE.e not yet complete (R199) -/
  | fence (scope : Nat)
  /-- a fault of the instruction, taken at its trapping point (R15) -/
  | fault (cause : Nat) (val : DWord)
  /-- what the lane had outstanding is done; the window goes on until the whole instruction is (R26) -/
  | ended
  deriving DecidableEq, Repr

/-- Where an outstanding result comes from: the number of its instruction, rising in issue order, the physical group that
issued it, at which point, and its lane there (R185, R210). -/
structure Origin where
  num   : Nat
  owner : GKey
  point : Nat
  lane  : Nat
  deriving DecidableEq, Repr

/-- An outstanding result: its lane, the instructions of its window still to come, the address of its instruction or of the first
word of its run, what happened before its issue (R207, R208), and where it comes from. -/
structure Pend where
  lane : Option Nat
  rem  : Nat
  org  : DWord
  kept : Bool                -- recorded across a trap: its window goes on after the return (R27, R186)
  act  : PendAct
  know : Know
  from_ : Origin
  deriving DecidableEq, Repr

/-- Why a group does not issue (R124, R246). -/
inductive Wait where
  | none
  | doze (till : DWord)
  | counter (pa : Nat) (target : DWord) (scope : Nat) (cont : DWord)
  | claim (b : Nat)
  | span (target : Nat)
  | rets (handle mask : DWord)
  | joint (quad : Nat)
  | step (core m : Nat)
  | receive (ch : Nat)
  | send (ch : Nat) (since : Nat)
  | copySlot
  | frame (i : Nat)
  | posted (queue : Nat)
  | queue (q : Nat) (on : Mask)
  | matrix (wg quad : Nat) (tile : Option Nat)
  /-- the word comes after what these instructions of the group have outstanding (R185, R199, R202, R210) -/
  | again (nums : List Nat)
  deriving DecidableEq, Repr

/-- A word that has not been issued: it issues again when what it waits for has come. -/
def Wait.holds (w : Wait) : Bool :=
  match w with
  | .step _ _ => true
  | .receive _ => true
  | .send _ _ => true
  | .copySlot => true
  | .frame _ => true
  | .posted _ => true
  | .queue _ _ => true
  | .matrix _ _ _ => true
  | .again _ => true
  | _ => false

/-- The word cannot issue: an operand queue is empty, or what it comes after is outstanding (R124). -/
def Wait.stalls (w : Wait) : Bool :=
  match w with
  | .queue _ _ => true
  | .again _ => true
  | _ => false

def Wait.isDoze (w : Wait) : Bool :=
  match w with
  | .doze _ => true
  | _ => false

/-- A release fence that later relaxed writes of the group carry (R198). -/
structure FenceRel where
  scope : Nat
  know  : Know
  deriving DecidableEq, Repr

/-- A line of 64 bytes held for fetch: its physical number and its words (R224). -/
structure Line where
  num   : Nat
  words : List Word
  deriving DecidableEq, Repr

/-- A group (R4, R69, R109, R314). Under 16-lane compatibility each part of 16 threads is one Group (R127). -/
structure Group where
  key      : GKey
  live     : Bool            -- false: the slot holds no group, or the group has retired
  width    : Nat             -- physical lanes: W, or 16 for a part (R110, R126, R127)
  lanes    : SMap Lane
  s        : SMap DWord
  c        : BitVec 8
  t        : SMap TReg
  q        : SMap (List Word)  -- 8 × lane + queue: entries, oldest first (R241)
  pc       : DWord
  act      : Mask
  exited   : Mask
  stack    : List StackEntry
  gstat    : DWord
  energy0  : Nat             -- the workgroup's metering when it started
  trapCause : DWord
  trapPc   : DWord
  trapVal  : DWord
  trapOrg  : DWord
  sup      : Bool
  bankS    : SMap DWord      -- s56 to s63 of the supervisor bank (R17)
  bankT    : TReg
  count    : Nat             -- register count (R6)
  rpc      : DWord
  ra       : Mask
  rdepth   : Nat
  restart  : BitVec 8
  nopre    : Option Nat      -- cycles left of the NOPRE window (R83)
  run      : Run
  sched    : List (Nat × Bool)   -- GAP and GW of the coming instructions (R31)
  gaveWay  : Bool
  pend     : List Pend
  wait     : Wait
  waitSp   : Bool            -- SP of the word that waits
  held     : Bool            -- after STEPEND (R251)
  liveAt   : DWord           -- the address after the last instruction: where its LIVE word would stand (R28)
  safe     : Bool            -- the last instruction was a safe point (R28)
  parked   : Bool            -- parked for a save, a test or, a shadow, at SPAN (R312, R326, R115)
  known    : Know            -- happens-before (R209)
  seen     : Know            -- snapshot and coherence (R210, R214)
  fenceRel : List FenceRel
  fenceAcq : List Rel
  dirtyBad : List Nat        -- the 8-byte units of these that an L1 has lost (R318)
  dirty    : SMap (Option Byte)  -- its own unpublished bytes in the L1 (R77, R213)
  whole    : List Nat        -- 8-byte units that one of these stores covers whole (R318)
  fbuf     : List Line       -- the fetch buffer, at most 4 lines (R224)
  slot     : Nat
  fault    : Option (Nat × DWord)  -- the fault that stopped the shadow (R242)
  matBad   : List Nat        -- tiles whose next MWAIT takes POISON (R319)
  deriving DecidableEq, Repr

/-! ### Workgroups -/

/-- A tile's place (R314): in the engine, or spilled. -/
structure TileRef where
  quad    : Nat
  tile    : Nat
  spilled : Bool
  frame   : Nat
  spillAt : Nat
  deriving DecidableEq, Repr

/-- A matrix command's word and operands (R269): the same in the four issues of a quad. -/
structure MatWord where
  major : Nat
  fn    : Nat
  y     : Nat
  k     : Nat
  x     : DWord
  deriving DecidableEq, Repr

/-- The decoded header that the loader keeps (R350, R353). -/
structure Kernel where
  ctx       : BitVec 16
  addr      : Nat
  stepReq   : Nat
  eclass    : Nat
  isProt    : Bool
  compat    : Bool
  extent    : Nat
  slice     : Option Nat
  entry     : Nat
  supported : BitVec 4
  regs      : Nat
  pad       : Nat
  inherit   : DWord
  bufs      : List (Nat × Nat)     -- depth and slot bytes of step buffers 0 to 3
  marks     : List Nat
  deriving DecidableEq, Repr

/-- What a scratchpad word held before a write, which group made the write, if no engine did, and the FENCE.e that have made it engine-visible (R199,
R218). -/
structure PadOld where
  val    : Word
  by_    : Option GKey
  fences : List Nat
  deriving DecidableEq, Repr

/-- Where a workgroup stands. -/
inductive WgStatus where
  | running | draining | handing (handle mask : DWord) | saved (area : Nat) | gone
  deriving DecidableEq, Repr

/-- A workgroup (R109, R150, R167, R295). -/
structure Workgroup where
  uid      : Nat
  launch   : Nat
  l        : Nat
  core     : Nat             -- where it runs, or was saved from
  home     : Nat             -- the core of its dispatch (R172)
  status   : WgStatus
  kern     : Kernel
  size     : Nat             -- A of R167
  padBase  : Nat
  pad      : SMap Byte
  tags     : List Nat        -- words whose tag is full, rising
  tagKnow  : SMap Know
  padBad   : List Nat        -- poisoned 8-byte units
  padOld   : SMap (List PadOld)  -- what the engines may still read of each word, newest first (R218)
  account  : Nat             -- bytes (R150)
  claimQ   : List Nat        -- claiming groups, first in first (R152)
  request  : Option (Nat × Bool × Nat)  -- standing pre-emption request: when, EVICT, grace (R298)
  tested   : Option Nat      -- parking for an in-field test of this cluster (R326)
  tiles    : List TileRef
  joint    : List (Nat × MatWord)   -- issues that wait for their quad (R234)
  retsKnow : Know
  energy   : Nat             -- metered nanojoules (R7)
  charged  : Nat             -- ENERGY subtracted at placement, in microjoules (R295)
  started  : Nat
  groupsN  : Nat
  areas    : List Nat        -- the save areas it still holds after its restores (R315)
  deriving DecidableEq, Repr

/-! ### Launches -/

/-- A lease range (R175). -/
structure Lease where
  base : DWord
  len  : Nat
  tier : Nat
  wr   : Bool
  deriving DecidableEq, Repr

/-- A core's strings (R249). -/
structure Strings where
  core : Nat
  up   : List Nat
  down : List Nat
  deriving DecidableEq, Repr

/-- A channel binding (R243, R294). -/
structure Binding where
  sender : Nat
  out    : Nat
  recv   : Nat
  inp    : Nat
  deriving DecidableEq, Repr

/-- A placement map (R293). -/
structure PlaceMap where
  cores    : List Nat
  strings  : List Strings
  bindings : List Binding
  deriving DecidableEq, Repr

/-- A die's share of the workgroups: the next and the end (R290 to R292). -/
structure Share where
  die  : Nat
  next : Nat
  stop : Nat
  deriving DecidableEq, Repr

/-- A workgroup's range in the distributed window (R172). -/
structure Window where
  core : Nat
  base : Nat
  len  : Nat
  wg   : Nat
  fin  : Bool
  deriving DecidableEq, Repr

/-- An entry of a channel (R243): 16 words and what its sender knew. -/
structure Entry where
  words : List Word
  know  : Know
  deriving DecidableEq, Repr

/-- A channel of a launch (R243 to R245): entries in transit, in the FIFO and in the toy box. -/
structure Chan where
  bind    : Binding
  transit : List Entry
  fifo    : List Entry
  toy     : List Entry
  toyOn   : Bool
  toyAt   : Nat
  toyCap  : Nat
  toyNext : Nat              -- the place in the toy box area of the next entry put there (R245)
  closed  : Bool             -- the receiver has retired: a send completes into nothing (R277)
  deriving DecidableEq, Repr

/-- A queue of the network (R339, R342); of a receive queue under ROD, the place of the message that comes next (R341). -/
structure NetQueue where
  spec  : QueueSpec
  error : Bool
  next  : Nat
  deriving DecidableEq, Repr

/-- A posted receive descriptor (R281, R282). -/
structure Posted where
  queue   : Nat
  op      : NetOp
  buf     : DWord
  length  : Nat
  tag     : Nat
  inc     : Nat
  counter : Nat
  deriving DecidableEq, Repr

/-- STATUS's STATE (R284), and a launch that waits to be checked. -/
inductive LaunchState where
  | pooled | queued | running | done | refused | ending | ended
  deriving DecidableEq, Repr

/-- A launch's entry in a die's pending-launch pool (R260, R290): the die, since when it is queued there (R295), and whether it
still takes the entry up: it does until the die has dispatched its share. -/
structure PoolEntry where
  die   : Nat
  since : Nat
  held  : Bool
  deriving DecidableEq, Repr

/-- A launch (R283 to R300). -/
structure Launch where
  uid      : Nat
  packet   : Nat
  ctx      : BitVec 16
  words    : List DWord
  depth    : Nat
  parent   : Option Nat
  kern     : Kernel
  leases   : List Lease
  map      : Option PlaceMap
  shares   : List Share
  placed   : List Nat
  waiting  : List Nat         -- saved workgroups that wait for restore (R295)
  state    : LaunchState
  code     : Nat
  statusPa : Option Nat
  countPa  : Option Nat
  queuedAt : Nat
  know     : Know
  windows  : List Window
  chans    : List Chan
  queues   : List NetQueue
  posted   : List Posted
  retired  : Nat
  poolDie  : Option Nat       -- the die whose group issued it (R260)
  pools    : List PoolEntry   -- the dies whose pools its shares have come to
  trapInfo : DWord × DWord
  deriving DecidableEq, Repr

/-! ### Cores and dies -/

/-- Who owns a tile frame (R236, R276). -/
structure FrameOwner where
  ctx    : BitVec 16
  packet : Nat
  l      : Nat
  wg     : Nat
  quad   : Nat
  tile   : Nat
  deriving DecidableEq, Repr

/-- A command completed into a frame: its number, the accumulator before it, its word, what it read, which is the scratchpad's bytes,
the planes with NB, and the marks of poison, and the elements that its poisoned operands made read 0 (R222, R319). -/
structure Past where
  serial : Nat
  acc    : SMap Word
  word   : MatWord
  pad    : SMap Byte
  planes : SMap Word
  nb     : Nat
  bad    : List Nat
  zeroed : List Nat
  deriving DecidableEq, Repr

/-- A tile frame (R236, R270): accumulator, planes, NB, poisoned elements, one more than the number of the last command
completed into it, and the commands that no MWAIT covers, newest first (R222). -/
structure Frame where
  owner  : Option FrameOwner
  held   : Option (Nat × Nat × Nat)
  acc    : SMap Word
  planes : SMap Word
  nb     : Nat
  bad    : List Nat
  serial : Nat
  past   : List Past
  deriving DecidableEq, Repr

/-- A matrix command in the engine (R237). -/
structure MatCmd where
  wg    : Nat
  quad  : Nat
  tile  : Nat
  word  : MatWord
  known : Know               -- what happens before the four issues (R221)
  serial : Nat               -- its number, rising in entry order (R222)
  taken : Option (SMap Byte × List Nat)  -- the scratchpad bytes and the poisoned units that it has read already (R258)
  deriving DecidableEq, Repr

/-- How far a rendezvous has come: groups still arrive; every group has parked and the grant of energy is awaited;
accepted, and the move runs (R116, R117). -/
inductive RdvPhase where
  | opened | energy | moving
  deriving DecidableEq, Repr

/-- A rendezvous of a launch on a core (R116): its target once every group has parked, and since when it waits. -/
structure Rendezvous where
  launch : Nat
  phase  : RdvPhase
  target : Nat
  since  : Nat
  deriving DecidableEq, Repr

/-- A leaf of the page tables, and a TLB entry (R174): its address space, place and size, its frame, its rights, the copy-on-write
mark, and the accessed and dirty bits that a grant sets (R176). -/
structure Leaf where
  ctx  : BitVec 16
  va   : Nat
  size : Nat
  pa   : Nat
  wr   : Bool
  cow  : Bool
  used : Bool
  dirtied : Bool
  deriving DecidableEq, Repr

/-- What a core holds for one paced launch (R249 to R255). -/
structure Pace where
  launch   : Nat
  step     : Nat               -- STEP (R250)
  ended    : Nat               -- steps ended (R252)
  finished : Bool              -- its workgroup has retired: every step has ended
  heard    : SMap Nat          -- steps that other cores have ended, as far as the news has arrived (R338)
  heardOver : List Nat
  endKnow  : SMap Know         -- what the end of each step releases (R208)
  strings  : Strings
  kept     : Option Nat        -- the retired workgroup whose step buffers are kept (R255)
  deriving DecidableEq, Repr

/-- A core (R112, R113, R225, R252, R323, R325). -/
structure Core where
  id       : Nat
  present  : Bool
  cells    : List Nat          -- healthy lane cells of each quarter
  point    : Nat
  curve    : BitVec 4          -- HEALTHY (R149)
  curveCap : BitVec 4          -- CURVE of the capability block (R365)
  rail     : Nat               -- millivolts
  slewed   : Option Nat        -- when the rail last moved (R360)
  floorUp  : Nat               -- tenths of a millivolt that the floors were raised (R325)
  frozen   : Bool
  crossed  : Option Nat
  errors   : SMap (List Nat)   -- times of corrected errors by array (R325)
  droop    : List Nat          -- its eight sensors (R359)
  paces    : List Pace         -- the paced launches that have come to the core, one entry each
  rdv      : List Rendezvous
  frames   : SMap Frame
  mq       : List MatCmd
  tlb      : List Leaf
  icache   : List Line
  setup    : CoreSetup
  issued   : SMap Nat          -- by quarter: one more than the slot that issued last (R124)
  retired  : List Nat          -- arrays that a spare replaces (R323)
  deriving DecidableEq, Repr

/-- A die (R290, R295 to R297, R314, R349). -/
structure Die where
  reservoir : Int              -- nanojoules
  capW      : Nat              -- power cap in watts
  pool      : Nat              -- entries used of the pending-launch pool
  savePool  : List Nat
  spillPool : List Nat
  hottest   : Int              -- the last reading of its hottest sensor, in degrees Celsius (R361)
  lowHead   : Bool
  noPlace   : List Nat         -- clusters that take no workgroup during a test
  lacking   : Option (Nat × Nat)  -- the head launch that lacks room, and since when (R295)
  deriving DecidableEq, Repr

/-! ### Engines, network, time -/

/-- A copy in flight (R226 to R233). -/
structure Copy where
  id      : Nat
  core    : Nat
  wg      : Nat
  launch  : Nat
  from_   : GKey
  src     : DWord
  dst     : DWord
  sstride : Nat
  dstride : Nat
  rows    : Nat
  rowb    : Nat
  skind   : Nat
  dkind   : Nat
  zero    : Bool
  full    : Bool
  scope   : Nat
  counter : Nat
  counterVa : DWord
  inc     : Nat
  moved   : List Nat           -- words already moved, by number
  data    : SMap Word          -- what a network send has read (R341)
  known   : Know
  fresh   : Know               -- engine-visible floors at its issue (R218)
  sent    : Option Nat
  deriving DecidableEq, Repr

/-- An ATOM or RED on its way to its owner (R190 to R195). -/
structure AtomReq where
  id    : Nat
  from_ : GKey
  core  : Nat
  lane  : Nat
  op    : AtomOp
  wide  : Bool
  pa    : Nat
  x     : DWord
  y     : DWord
  reg   : Option Nat
  acq   : Bool
  rel   : Bool
  scope : Nat
  know  : Know
  rels  : List Rel
  deriving DecidableEq, Repr

/-- A message sent and not yet acknowledged (R341, R342). -/
structure OutMsg where
  id     : Nat
  copy   : Nat
  launch : Nat
  queue  : Nat
  arg    : Nat
  port   : Nat
  packets : List (List Byte)   -- of at most 4,096 bytes each (R341)
  sentAt : Nat
  retry  : Nat               -- no-buffer answers so far
  next   : Option Nat        -- after such an answer: when it is sent again (R342)
  deriving DecidableEq, Repr

/-- A message of which packets have been placed and which has not arrived whole (R341): the posted entry that it fills, the packets placed
so far, and the writes of their words. -/
structure Inbound where
  msg    : Message
  entry  : Posted
  placed : List Nat
  know   : Know
  deriving DecidableEq, Repr

/-- What an endpoint has answered (R340, R342). -/
inductive AnswerKind where
  | unsupported | retransmit | noBuffer
  deriving DecidableEq, Repr

structure NetAnswer where
  kind  : AnswerKind
  port  : Nat
  queue : Nat
  deriving DecidableEq, Repr

/-- A page's home (R179, R180). -/
structure Home where
  page   : Nat
  pinned : Bool
  moves  : List Nat
  deriving DecidableEq, Repr

/-- A page that the operating system has mapped and that is not resident (R176): its leaf, whose frame says nothing now, its bytes that
do not read 0, and its poisoned units, both counted from its first byte. -/
structure Paged where
  leaf  : Leaf
  cells : List Host.Cell
  bad   : List Nat
  deriving DecidableEq, Repr

/-- A trace buffer (R349): records are written in turn; lost counts those overwritten since the last KIND 0 record. -/
structure TraceBuf where
  setup : TraceSetup
  next  : Nat
  used  : Nat
  lost  : Nat
  deriving DecidableEq, Repr

/-- The hub's words of the capability block (R365) that are not a core's or a die's. -/
structure Capability where
  stepping : Byte
  supply   : Bool
  serial   : Word
  clusters : Word
  dies     : BitVec 4
  ports    : BitVec 12
  coresUp  : List DWord
  near     : List Nat
  second   : Nat
  deriving DecidableEq, Repr

/-- A die-to-die or hub link (R332, R334). -/
structure LinkState where
  up       : Bool
  retrain  : Bool
  replays  : Nat
  deriving DecidableEq, Repr

/-- The time unit (R344, R345): the count, the millionths of a nanosecond above it, its rate correction in parts per million, the PTP
port and domain, the last timestamp of each port, and since when the master is lost. -/
structure TimeUnit where
  now    : Nat
  frac   : Nat
  ppm    : Int
  port   : Option Nat
  domain : Nat
  stamps : SMap DWord
  lost   : Option Nat
  deriving DecidableEq, Repr

/-- A cluster's test state (R326, R360). -/
structure Cluster where
  testing : Option Nat       -- since when an attempt runs
  inTest  : Bool
  misses  : Nat
  overdue : Bool
  retryAt : Option Nat
  excess  : Bool             -- the last supply test found an excess drop
  supplyAt : Option Nat      -- when it was made (R360)
  service : Nat              -- the cluster whose service group serves its addresses
  deriving DecidableEq, Repr

/-- One move of one agent. -/
inductive Move where
  /-- an event of the device, or a word given to the current group -/
  | event (i : Instr)
  /-- the named group fetches and issues its next word -/
  | issue (g : GKey)
  /-- time passes, in nanoseconds -/
  | elapse (ns : Nat)
  /-- the copy moves its k-th word (R229) -/
  | copyWord (id k : Nat)
  /-- the operating system maps a leaf, unless a lease covers it (R177) -/
  | map (leaf : Leaf)
  /-- the operating system takes a leaf out of memory, unless a lease covers it (R176, R177) -/
  | pageOut (leaf : Leaf)
  /-- the puppeteer sets the power cap of a die, in watts (R361) -/
  | cap (die watts : Nat)
  /-- a packet of a message is placed at its receiver before the message has arrived whole (R341) -/
  | packet (m : Message) (k : Nat)
  deriving DecidableEq, Repr

/-- Memory: the bytes of the physical address space that do not read 0. -/
abbrev Memory := List Host.Cell

/-- The canonical form of memory: addresses strictly rise and no listed byte is 0. -/
def Memory.wf (m : Memory) : Bool := mapWf (0 : Byte) m

/-- The whole machine. -/
structure State where
  cur      : Group
  groups   : List Group
  wg       : Workgroup
  wgs      : List Workgroup
  core     : Core
  cores    : List Core
  launch   : Launch
  launches : List Launch
  dies     : SMap Die
  mem      : Memory
  memBad   : List Nat          -- poisoned 8-byte units of memory, by number
  hist     : SMap WordHist
  atomq    : List AtomReq
  copies   : List Copy
  outMsgs  : List OutMsg
  inbound  : List Inbound
  tables   : List Leaf         -- the page tables' leaves
  objects  : List Kernel       -- code objects the loader accepted (R353)
  homes    : List Home
  paged    : List Paged        -- pages that are not resident (R176)
  accepted : SMap Nat          -- submissions a launch port has accepted, by context (R287)
  hubLoad  : DWord             -- the word the hub last answered an application core with (R180, R287)
  cap      : Capability
  time     : TimeUnit
  traces   : List TraceBuf
  seqs     : SMap Nat
  links    : SMap LinkState
  clusters : SMap Cluster
  power    : List (Nat × Nat × Nat)  -- energy class, point, core power (R297)
  digests  : List (List Byte)
  report   : List Byte         -- the last attestation report and its signature (R363)
  phase    : Nat               -- the last bring-up step completed (R364)
  failed   : Option Nat        -- the firmware image that failed, which the management port reports (R362)
  appKnow  : SMap Know         -- what happens before, for each application core (R366)
  answers  : List NetAnswer
  withdrawn : List (Nat × Nat)  -- physical ranges of failed pseudo-channels (R323)
  endpoints : List (Nat × Nat × Bool)  -- failed channel endpoints: core, number, whether outbound (R323)
  nextId   : Nat
  cycleId  : Nat
  free     : Nat               -- the model's own: how many free values have been used
  agenda   : List Move         -- the model's own: who moves next
  turn     : Nat               -- the model's own: the fair default rule's counter
  deriving DecidableEq, Repr

/-- Why a step stops with a fault. -/
inductive Fault where
  /-- Raised by the meaning of a word when no live group stands at cur: there is no thread to execute it. Safe: the
  hardware has no such step. -/
  | noGroup
  deriving DecidableEq, Repr

/-- Why a step is refused. -/
inductive Refusal where
  /-- Raised by an arm of exec whose instruction has no meaning yet. Safe: nothing is claimed of the step. -/
  | notModelled (mnemonic : String)
  deriving DecidableEq, Repr

/-- One step's outcome. -/
abbrev Out := Host.Outcome State Fault Refusal

/-- What the effect of an instruction is, before its completion is recorded: it goes on in sequence, jumps (with or
without keeping what it wrote when the target traps), traps, waits, or has already settled its group's state. -/
inductive Eff where
  | next (s : State)
  | jump (target : DWord) (register : Bool) (s : State)
  | trap (cause : Nat) (code : Nat) (val : DWord) (s : State)
  | lease (val : DWord) (s : State)
  | wait (w : Wait) (s : State)
  | settled (s : State)
  deriving Repr

/-! ### Reset -/

def TReg.zero : TReg := { base := 0, frame := 0, limit := 0, rd := false, wr := false }
def Lane.empty : Lane := { thread := none, v := [], p := 1, bad := [] }
def Run.none : Run := { first := .none, imm := .none, mod := .none, bad := .none }

/-- A slot without a group; also the state of R21 before a start fills it. -/
def Group.absent : Group :=
  { key := { wg := 0, gid := 0, shadow := false }, live := false, width := 16, lanes := [], s := [], c := 1, t := [],
    q := [], pc := 0, act := 0, exited := 0, stack := [], gstat := 0, energy0 := 0, trapCause := 0, trapPc := 0,
    trapVal := 0, trapOrg := 0, sup := false, bankS := [], bankT := .zero, count := 0, rpc := 0, ra := 0, rdepth := 0,
    restart := 0, nopre := none, run := .none, sched := [], gaveWay := false, pend := [], wait := .none, waitSp := false, held := false,
    liveAt := 0, safe := false, parked := false, known := [], seen := [], fenceRel := [], fenceAcq := [], dirtyBad := [], dirty := [], whole := [], fbuf := [],
    slot := 0, fault := none, matBad := [] }

def Kernel.none : Kernel :=
  { ctx := 0, addr := 0, stepReq := 0, eclass := 0, isProt := false, compat := false, extent := 0, slice := .none,
    entry := 0, supported := 0, regs := 0, pad := 0, inherit := 0, bufs := [], marks := [] }

def Workgroup.absent : Workgroup :=
  { uid := 0, launch := 0, l := 0, core := 0, home := 0, status := .gone, kern := .none, size := 0,
    padBase := 0, pad := [], tags := [], tagKnow := [], padBad := [], padOld := [], account := 0, claimQ := [], request := none,
    tested := none, tiles := [], joint := [], retsKnow := [], energy := 0, charged := 0, started := 0, groupsN := 0, areas := [] }

def Launch.absent : Launch :=
  { uid := 0, packet := 0, ctx := 0, words := [], depth := 0, parent := none, kern := .none, leases := [], map := none,
    shares := [], placed := [], waiting := [], state := .done, code := 0, statusPa := none, countPa := none,
    queuedAt := 0, know := [], windows := [], chans := [], queues := [], posted := [], retired := 0, poolDie := none,
    pools := [], trapInfo := (0, 0) }

/-- A core in step 0 of a paced launch. -/
def Pace.fresh (launch : Nat) (strings : Strings) : Pace :=
  { launch := launch, step := 0, ended := 0, finished := false, heard := [], heardOver := [], endKnow := [], strings := strings,
    kept := none }

/-- A core before bring-up has given it anything: no supervisor region, the curve empty until step 6 (R364). -/
def Core.idle (id : Nat) : Core :=
  { id := id, present := false, cells := [], point := 1, curve := 0, curveCap := 0, rail := 0, slewed := none, floorUp := 0,
    frozen := false, crossed := none, errors := [], droop := [], paces := [], rdv := [], frames := [], mq := [], tlb := [],
    icache := [],
    setup := { core := id, cells := [], codeBase := 0, codeLen := 0, handler := 0, dataBase := 0, dataLen := 0 },
    issued := [], retired := [] }

def Frame.free : Frame :=
  { owner := none, held := none, acc := [], planes := [], nb := 0, bad := [], serial := 0, past := [] }

def Die.idle : Die :=
  { reservoir := 0, capW := 0, pool := 0, savePool := [], spillPool := [], hottest := 0, lowHead := false, noPlace := [],
    lacking := none }

def Cluster.idle : Cluster :=
  { testing := none, inTest := false, misses := 0, overdue := false, retryAt := none, excess := false, supplyAt := none, service := 32 }

/-- The machine before step 1 of bring-up (R364): no launch, no group, nothing in memory, GEN and the fused words of the
capability block in place, every other word 0. -/
def State.reset : State :=
  { cur := .absent, groups := [], wg := .absent, wgs := [], core := .idle 0, cores := [], launch := .absent,
    launches := [], dies := [], mem := [], memBad := [], hist := [], atomq := [], copies := [],
    outMsgs := [], inbound := [], tables := [], objects := [], homes := [], paged := [], accepted := [], hubLoad := 0,
    cap := { stepping := 0xB1, supply := false, serial := 0, clusters := 0, dies := 0, ports := 0, coresUp := [],
             near := [], second := 0 },
    time := { now := 0, frac := 0, ppm := 0, port := none, domain := 0, stamps := [], lost := none }, traces := [], seqs := [], links := [],
    clusters := [], power := [], digests := [], report := [], phase := 0, failed := none, appKnow := [], answers := [], withdrawn := [],
    endpoints := [],
    nextId := 1, cycleId := 0, free := 0, agenda := [], turn := 0 }

end Sys2Proof.Machine
end

