-- ==== Sys2Proof/Machine/Ops.lean ====
section
/-!
DEFINITION. Machine/Ops.lean: the named operations over registers, groups, workgroups, cores and launches; trace records;
and taking a trap, ending a launch, restarting a region and returning from a trap, each once for the whole model.
-/

namespace Sys2Proof.Machine

/-! ### Numbers -/

/-- R9: bits [63:57] all equal bit 56. -/
def canonical (a : DWord) : Bool := a.toNat < 2 ^ 56 || 2 ^ 64 - 2 ^ 56 ≤ a.toNat

/-- Rounds up to a multiple. -/
def roundUp (n k : Nat) : Nat := (n + (k - 1)) / k * k

/-- An integer clamped to a range. -/
def clampInt (lo hi e : Int) : Int := if e < lo then lo else if hi < e then hi else e

/-- The bytes of a number, lowest address first. -/
def natBytes (v : Nat) : Nat → List Byte
  | 0 => []
  | n + 1 => .ofNat 8 v :: natBytes (v / 256) n

/-- A bit of a mask, set or cleared. -/
def setBit {w : Nat} (m : BitVec w) (j : Nat) (b : Bool) : BitVec w :=
  if b then m ||| (1#w <<< j) else m &&& ~~~(1#w <<< j)

/-- The mask of a list of lanes. -/
def maskOf (js : List Nat) : Mask := js.foldl (fun m j => setBit m j true) 0

/-- The base-2 logarithm of a power of two, by trying the exponents up to a bound. -/
def log2Upto : Nat → Nat → Nat
  | 0, _ => 0
  | k + 1, n => if 2 ^ (k + 1) ≤ n then k + 1 else log2Upto k n

/-! ### Lanes and registers -/

def Group.lane (g : Group) (j : Nat) : Lane := mapGet .empty g.lanes j
def Group.setLane (g : Group) (j : Nat) (l : Lane) : Group := { g with lanes := mapSet .empty g.lanes j l }

/-- v(r) of lane j (R4). -/
def Group.vget (g : Group) (j r : Nat) : Word := mapGet 0 (g.lane j).v r

/-- Writes v(r) of lane j; a register write covers its whole unit and clears its poison (R318). -/
def Lane.vset (l : Lane) (r : Nat) (x : Word) : Lane :=
  { l with v := mapSet 0 l.v r x, bad := l.bad.filter (· ≠ r) }

def Group.vset (g : Group) (j r : Nat) (x : Word) : Group := g.setLane j ((g.lane j).vset r x)

/-- The pair at an even register, low half first (R5). -/
def Group.vget64 (g : Group) (j r : Nat) : DWord := g.vget j (r + 1) ++ g.vget j r
def Group.vset64 (g : Group) (j r : Nat) (x : DWord) : Group :=
  (g.vset j r (x.setWidth 32)).vset j (r + 1) ((x >>> 32).setWidth 32)

/-- p(i) of lane j; p0 reads true (R4). -/
def Group.pget (g : Group) (j i : Nat) : Bool := i == 0 || (g.lane j).p.getLsbD i

/-- Writes p(i) of lane j; a write to p0 is discarded. -/
def Group.pset (g : Group) (j i : Nat) (b : Bool) : Group :=
  if i = 0 then g else g.setLane j { g.lane j with p := setBit (g.lane j).p i b }

/-- c(i); c0 reads true. -/
def Group.cget (g : Group) (i : Nat) : Bool := i == 0 || g.c.getLsbD i
def Group.cset (g : Group) (i : Nat) (b : Bool) : Group := if i = 0 then g else { g with c := setBit g.c i b }

/-- s(r): s0 reads zero; in supervisor mode s56 to s63 name the bank (R4, R17). -/
def Group.sget (g : Group) (r : Nat) : DWord :=
  if r = 0 then 0 else if g.sup && 56 ≤ r then mapGet 0 g.bankS r else mapGet 0 g.s r

def Group.sset (g : Group) (r : Nat) (x : DWord) : Group :=
  if r = 0 then g
  else if g.sup && 56 ≤ r then { g with bankS := mapSet 0 g.bankS r x }
  else { g with s := mapSet 0 g.s r x }

/-- t(k); in supervisor mode t7 names the bank (R17). -/
def Group.tget (g : Group) (k : Nat) : TReg := if g.sup && k == 7 then g.bankT else mapGet .zero g.t k
def Group.tset (g : Group) (k : Nat) (x : TReg) : Group :=
  if g.sup && k == 7 then { g with bankT := x } else { g with t := mapSet .zero g.t k x }

/-- The lanes of the active mask A, rising (R69). -/
def Group.lanesOn (g : Group) : List Nat := (List.range g.width).filter (fun j => g.act.getLsbD j)

/-- The lane guard of a word (R24). -/
def Group.laneGuard (g : Group) (c : Ctl) (j : Nat) : Bool := xor (g.pget j c.pi.toNat) c.n

/-- The uniform guard of a word (R24). -/
def Group.guard (g : Group) (c : Ctl) : Bool := xor (g.cget c.pi.toNat) c.n

/-- The lanes with Act(t) in a lane instruction (R52). -/
def Group.on (g : Group) (c : Ctl) : List Nat := g.lanesOn.filter (g.laneGuard c)

/-- R69: the stack is empty and A holds every thread not in E. -/
def Group.converged (g : Group) : Bool :=
  g.stack.isEmpty &&
    (List.range g.width).all (fun j => (g.lane j).thread.isNone || g.exited.getLsbD j || g.act.getLsbD j)

/-- The operand queue q of lane j, oldest first (R241). -/
def Group.queue (g : Group) (j q : Nat) : List Word := mapGet [] g.q (8 * j + q)
def Group.setQueue (g : Group) (j q : Nat) (ws : List Word) : Group := { g with q := mapSet [] g.q (8 * j + q) ws }

/-- ORs flags into GSTAT (R8: sticky). -/
def Group.flag (g : Group) (f : DWord) : Group := { g with gstat := g.gstat ||| f }

/-- GSTAT.LASTREF (R8). -/
def Group.lastRef (g : Group) (code : Nat) : Group :=
  { g with gstat := (g.gstat &&& ~~~0xFF00#64) ||| (.ofNat 64 (code * 256)) }

/-- The flag SCOPEX (R8). -/
def scopeX : DWord := 0x40

/-- The address of the first word of the run (R30). -/
def Group.runFirst (g : Group) : DWord := g.run.first.getD g.pc

/-! ### Finding and updating parts of the state -/

def State.setCur (s : State) (g : Group) : State := { s with cur := g }

/-- Every live group, the current one first. -/
def State.allGroups (s : State) : List Group := (s.cur :: s.groups).filter (·.live)
def State.onGroups (s : State) (f : Group → Group) : State := { s with cur := f s.cur, groups := s.groups.map f }
def State.onGroup (s : State) (k : GKey) (f : Group → Group) : State :=
  s.onGroups (fun g => if g.live && g.key == k then f g else g)

def State.findGroup (s : State) (k : GKey) : Option Group := s.allGroups.find? (fun g => g.key == k)

def State.allWgs (s : State) : List Workgroup := s.wg :: s.wgs
def State.onWgs (s : State) (f : Workgroup → Workgroup) : State := { s with wg := f s.wg, wgs := s.wgs.map f }
def State.onWg (s : State) (u : Nat) (f : Workgroup → Workgroup) : State :=
  s.onWgs (fun w => if w.uid == u then f w else w)

def State.findWg (s : State) (u : Nat) : Option Workgroup := s.allWgs.find? (fun w => w.uid == u)

/-- Core n; one that nothing has touched is idle. -/
def State.getCore (s : State) (n : Nat) : Core :=
  if s.core.id = n then s.core else (s.cores.find? (fun c => c.id == n)).getD (.idle n)

def State.onCore (s : State) (n : Nat) (f : Core → Core) : State :=
  if s.core.id = n then { s with core := f s.core }
  else if s.cores.any (fun c => c.id == n) then
    { s with cores := s.cores.map (fun c => if c.id == n then f c else c) }
  else { s with cores := s.cores ++ [f (.idle n)] }

/-- Tile frame i of a core (R236). -/
def Core.frame (c : Core) (i : Nat) : Frame := mapGet .free c.frames i

def Core.setFrame (c : Core) (i : Nat) (f : Frame) : Core := { c with frames := mapSet .free c.frames i f }

/-- What a core holds for paced launch u: a core to which it has not come is in step 0 and has ended none. -/
def Core.pace (c : Core) (u : Nat) : Pace :=
  (c.paces.find? (fun p => p.launch == u)).getD (.fresh u { core := c.id, up := [], down := [] })

def Core.onPace (c : Core) (u : Nat) (f : Pace → Pace) : Core :=
  { c with paces := c.paces.map (fun p => if p.launch == u then f p else p) }

def State.paceOf (s : State) (core u : Nat) : Pace := (s.getCore core).pace u
def State.onPace (s : State) (core u : Nat) (f : Pace → Pace) : State := s.onCore core (fun c => c.onPace u f)

def State.allLaunches (s : State) : List Launch := s.launch :: s.launches
def State.onLaunch (s : State) (u : Nat) (f : Launch → Launch) : State :=
  let h := fun (l : Launch) => if l.uid == u then f l else l
  { s with launch := h s.launch, launches := s.launches.map h }

def State.findLaunch (s : State) (u : Nat) : Option Launch := s.allLaunches.find? (fun l => l.uid == u)

def State.die (s : State) (d : Nat) : Die := mapGet .idle s.dies d
def State.onDie (s : State) (d : Nat) (f : Die → Die) : State :=
  { s with dies := mapSet .idle s.dies d (f (s.die d)) }

def State.cluster (s : State) (c : Nat) : Cluster := mapGet .idle s.clusters c
def State.onCluster (s : State) (c : Nat) (f : Cluster → Cluster) : State :=
  { s with clusters := mapSet .idle s.clusters c (f (s.cluster c)) }

/-- Clusters are numbered 8 × die + cluster, cores 64 × die + 8 × cluster + core (R1, R190). -/
def clusterOf (core : Nat) : Nat := core / 8
def dieOf (core : Nat) : Nat := core / 64

/-- Makes the workgroup, core and launch of the current group the current ones. -/
def State.focusParts (s : State) : State :=
  let s := if s.wg.uid = s.cur.key.wg then s else
    match s.wgs.find? (fun w => w.uid == s.cur.key.wg) with
    | none => s
    | some w =>
      { s with wg := w, wgs := (if s.wg.uid = 0 then [] else [s.wg]) ++ s.wgs.filter (fun x => x.uid ≠ w.uid) }
  let s := if s.core.id = s.wg.core then s else
    { s with core := s.getCore s.wg.core, cores := s.core :: s.cores.filter (fun x => x.id ≠ s.wg.core) }
  if s.launch.uid = s.wg.launch then s else
    match s.launches.find? (fun l => l.uid == s.wg.launch) with
    | none => s
    | some l =>
      { s with launch := l,
               launches := (if s.launch.uid = 0 then [] else [s.launch]) ++ s.launches.filter (fun x => x.uid ≠ l.uid) }

/-- Makes a live group the current one. -/
def State.focus (s : State) (k : GKey) : State :=
  if s.cur.live && s.cur.key == k then s.focusParts else
  match s.groups.find? (fun g => g.live && g.key == k) with
  | none => s
  | some g =>
    State.focusParts { s with
      cur := g, groups := (if s.cur.live then [s.cur] else []) ++ s.groups.filter (fun x => x.key != k) }

/-- A free value (log entry 2). -/
def State.freeVal (s : State) : DWord := Config.free s.free
def State.tick (s : State) : State := { s with free := s.free + 1 }

/-! ### The tiers, and the links between the dies (R165, R332, R334) -/

/-- Where the near tiers end, one after another from address 0, and the second tier after them (log entry 23). -/
def State.nearTop (s : State) : Nat := (s.cap.near.map (· * 2 ^ 20)).sum

/-- Is a physical address in the near tier (log entry 23)? -/
def State.nearTier (s : State) (pa : Nat) : Bool := pa < s.nearTop

/-- The addresses of a die's near tier, and of the second tier. -/
def State.dieRange (s : State) (d : Nat) : Nat × Nat :=
  (((s.cap.near.take d).map (· * 2 ^ 20)).sum, ((s.cap.near.take (d + 1)).map (· * 2 ^ 20)).sum)

def State.secondRange (s : State) : Nat × Nat := (s.nearTop, s.nearTop + s.cap.second * 2 ^ 20)

/-- The die whose near tier holds a physical address (log entry 23). -/
def State.homeDie (s : State) (pa : Nat) : Nat := ((List.range 4).findIdx (fun d => pa < (s.dieRange d).2)) % 4

def LinkState.idle : LinkState := { up := true, retrain := false, replays := 0 }

/-- The links, by number: 0 joins D0 and D1, 1 D0 and D2, 2 D1 and D3, 3 D2 and D3; 4 to 7 are the hub links of D0 to D3 (R332). -/
def linkEnds : List (Nat × Nat × Nat) := [(0, 0, 1), (1, 0, 2), (2, 1, 3), (3, 2, 3)]

/-- The direct link of two dies. -/
def linkOf (a b : Nat) : Option Nat :=
  (linkEnds.find? (fun x => (x.2.1 == a && x.2.2 == b) || (x.2.1 == b && x.2.2 == a))).map (·.1)

/-- The fixed path between two dies, the same in both directions: D0 and D3 meet through D1, D1 and D2 through D0 (R332). -/
def diePath (a b : Nat) : List Nat :=
  if a = b then [] else
  match linkOf a b with
  | some n => [n]
  | none => let via := if a = 0 || b = 0 then 1 else 0
            (linkOf a via).toList ++ (linkOf via b).toList

/-- The path between a die and the hub, or a port: the die's hub link (R332). -/
def hubPath (a : Nat) : List Nat := [4 + a]

/-- The links that traffic between two dies takes: a link that is mapped out is replaced by the hub links of its two dies (R334). -/
def State.linksOn (s : State) (a b : Nat) : List Nat :=
  ((diePath a b).map (fun n =>
    if (mapGet .idle s.links n).up then [n]
    else (linkEnds.filter (fun x => x.1 == n)).flatMap (fun x => hubPath x.2.1 ++ hubPath x.2.2))).flatten

/-- Does one of these links retrain? Its traffic waits (R334). -/
def State.retraining (s : State) (ls : List Nat) : Bool := ls.any (fun n => (mapGet .idle s.links n).retrain)

/-- Traffic between two dies waits while a link on its way retrains (R334). -/
def State.linkWaits (s : State) (a b : Nat) : Bool := s.links.any (·.2.retrain) && s.retraining (s.linksOn a b)

/-- The links between a die and a physical address: to the L2 of its home die, or of a second-tier page to the L2 that its hash names,
which the spec does not give, and from there over that die's hub link (R165, R332; log entry 81). -/
def State.wayTo (s : State) (die pa : Nat) : List Nat :=
  if s.nearTier pa then s.linksOn die (s.homeDie pa)
  else s.linksOn die (Config.secondDie (pa / 4096) % 4) ++ hubPath (Config.secondDie (pa / 4096) % 4)

/-- Does what a die exchanges with a physical address wait for a link (R334)? -/
def State.wayWaits (s : State) (die pa : Nat) : Bool := s.links.any (·.2.retrain) && s.retraining (s.wayTo die pa)

/-! ### Launch facts -/

/-- Word n of the launch packet (R283). -/
def Launch.word (l : Launch) (n : Nat) : Nat := (l.words.getD n 0).toNat
def Launch.pword (l : Launch) (n lo w : Nat) : Nat := fld (l.word n) lo w
def Launch.paced (l : Launch) : Bool := l.pword 2 42 1 == 1
def Launch.isProt (l : Launch) : Bool := l.pword 2 43 1 == 1

/-- R283: MOVABLE is set or ALLOWED holds more than one point. -/
def Launch.allowed (l : Launch) : BitVec 4 := .ofNat 4 (l.pword 2 38 4)
def bitCount (n : Nat) : Nat → Nat
  | 0 => 0
  | k + 1 => n / 2 ^ k % 2 + bitCount n k

def Launch.movable (l : Launch) : Bool := l.pword 2 44 1 == 1 || 1 < bitCount l.allowed.toNat 4
def Launch.prio (l : Launch) : Nat := l.pword 0 0 6

/-- X, Y and Z of the workgroup in threads (R283), and the threads of a workgroup. -/
def Launch.wgX (l : Launch) : Nat := l.pword 2 0 12
def Launch.wgY (l : Launch) : Nat := l.pword 2 12 12
def Launch.wgZ (l : Launch) : Nat := l.pword 2 24 12
def Launch.threads (l : Launch) : Nat := l.wgX * l.wgY * l.wgZ
def Launch.gridN (l : Launch) : Nat := l.pword 1 0 32 * l.pword 1 32 16 * l.pword 1 48 16

/-- W at a point (R2). -/
def widthAt (p : Nat) : Nat := 16 * 2 ^ p

/-- The clock of a point in MHz (R2). -/
def clockAt (p : Nat) : Nat := if p = 0 then 3000 else if p = 1 then 2100 else if p = 2 then 1400 else 800

/-- The nominal rail of a point in millivolts (R2). -/
def railAt (p : Nat) : Nat := if p = 0 then 950 else if p = 1 then 780 else if p = 2 then 600 else 460

/-- The launch of the current group is protected: visible lanes are the even ones (R126). -/
def State.prot (s : State) : Bool := s.launch.isProt

/-- The kernel runs under 16-lane compatibility (R127). -/
def State.compat (s : State) : Bool := s.wg.kern.compat

/-- W as the group reads it (R7, R126, R127). -/
def State.visW (s : State) : Nat := if s.prot then s.cur.width / 2 else s.cur.width

/-- The physical lane of visible lane i, and LANEID of a physical lane (R126). -/
def State.physLane (s : State) (i : Nat) : Nat := if s.prot then 2 * i else i
def State.laneId (s : State) (j : Nat) : Nat := if s.prot then j / 2 else j

/-- Is this physical lane a visible one? -/
def State.visible (s : State) (j : Nat) : Bool := !s.prot || j % 2 == 0

/-- Bytes a group holds of its workgroup's account: lanes with a thread × count × 4 (R150). -/
def Group.holds (g : Group) : Nat :=
  if g.live && !g.key.shadow then
    ((List.range g.width).filter (fun j => (g.lane j).thread.isSome)).length * g.count * 4
  else 0

def Group.threadsN (g : Group) : Nat := ((List.range g.width).filter (fun j => (g.lane j).thread.isSome)).length

/-- The live groups of a workgroup, shadows apart. -/
def State.groupsOf (s : State) (u : Nat) : List Group :=
  s.allGroups.filter (fun g => g.key.wg == u && !g.key.shadow)

def State.shadowsOf (s : State) (u : Nat) : List Group :=
  s.allGroups.filter (fun g => g.key.wg == u && g.key.shadow)

/-- The free balance F (R150). -/
def State.balance (s : State) (u : Nat) : Nat :=
  ((s.findWg u).getD .absent).account - ((s.groupsOf u).map Group.holds).sum

/-- The workgroups of a launch that have not gone. -/
def State.wgsOf (s : State) (l : Nat) : List Workgroup :=
  s.allWgs.filter (fun w => w.launch == l && w.status != .gone && w.uid != 0)

/-- A workgroup resident on its core: placed and not saved. -/
def Workgroup.resident (w : Workgroup) : Bool :=
  match w.status with
  | .saved _ => false
  | .gone => false
  | _ => w.uid != 0

def State.residents (s : State) (core : Nat) : List Workgroup :=
  s.allWgs.filter (fun w => w.core == core && w.resident)

/-- A restored workgroup's save areas go back to the pool once no tile of it is spilled any more (R315). -/
def State.freeArea (s : State) (u : Nat) : State :=
  match s.findWg u with
  | none => s
  | some w =>
    if w.areas.isEmpty || w.tiles.any (·.spilled) then s else
    (s.onDie (dieOf w.home) (fun d => { d with savePool := d.savePool ++ w.areas })).onWg u (fun w => { w with areas := [] })

/-! ### Memory bytes and trace records -/

/-- The byte of physical memory as the coherence order last left it; one that nothing has written reads 0 (log
entry 5). -/
def State.byte (s : State) (pa : Nat) : Byte := mapGet 0 s.mem pa
def State.bytes (s : State) (pa n : Nat) : List Byte := mapGetList 0 s.mem pa n
def State.natAt (s : State) (pa n : Nat) : Nat := bytesNat (s.bytes pa n)
def Memory.put (m : Memory) (pa : Nat) (bs : List Byte) : Memory := mapSetList (0 : Byte) m pa bs

/-- R347: the 32 bytes of a trace record. -/
def traceBytes (s : State) (kind event : Nat) (unit : Nat) (core slot : Option Nat) (ctx : BitVec 16) (seq : Nat)
    (a0 a1 : DWord) : List Byte :=
  natBytes (s.time.now % 2 ^ 64) 8 ++ natBytes ctx.toNat 2 ++ natBytes kind 1 ++ natBytes event 1 ++
  natBytes (core.getD 0) 1 ++ natBytes (slot.getD 0) 1 ++
  natBytes (unit + (if slot.isSome then 8 else 0) + (if core.isSome then 16 else 0)) 1 ++ natBytes seq 1 ++
  natBytes a0.toNat 8 ++ natBytes a1.toNat 8

/-- Puts one record into the buffer of its unit (R349); a full buffer overwrites its oldest record, which counts as lost until a
record of KIND 0 has counted it. -/
def State.tracePut (s : State) (u : Nat) (bs : List Byte) (marks : Bool) : State :=
  match s.traces.find? (fun t => t.setup.unit == u) with
  | none => s
  | some t =>
    let n := t.setup.size / 32
    if n = 0 then s else
    let full := t.used == n
    let t' := { t with next := (t.next + 1) % n, used := if full then n else t.used + 1,
                       lost := (if marks then 0 else t.lost) + (if full then 1 else 0) }
    { s with mem := Memory.put s.mem (t.setup.base + 32 * t.next) bs,
             traces := s.traces.map (fun x => if x.setup.unit == u then t' else x) }

/-- Writes a trace record of R348 for a unit (die 0 to 3 or hub 4), if the mask of its buffer records the KIND; after an overwrite
the KIND 0 record that counts the lost ones comes first (R347 to R349). SEQ counts the records of a KIND and unit. -/
def State.trace (s : State) (kind event unit : Nat) (core slot : Option Nat) (ctx : BitVec 16) (a0 a1 : DWord) : State :=
  match s.traces.find? (fun t => t.setup.unit == unit) with
  | none => s
  | some t =>
    if !t.setup.kinds.contains kind then s else
    let key := fun (k : Nat) (c : Option Nat) => k * 1024 + (match c with | some n => n | none => 512 + unit)
    let s := if t.lost = 0 then s else
      let q := mapGet 0 s.seqs (key 0 none)
      { s.tracePut unit (traceBytes s 0 1 unit none none 0 q (.ofNat 64 t.lost) 0) true with
        seqs := mapSet 0 s.seqs (key 0 none) ((q + 1) % 256) }
    let q := mapGet 0 s.seqs (key kind core)
    { s.tracePut unit (traceBytes s kind event unit core slot ctx q a0 a1) false with
      seqs := mapSet 0 s.seqs (key kind core) ((q + 1) % 256) }

/-- A record of the current core. -/
def State.traceCore (s : State) (kind event core : Nat) (ctx : BitVec 16) (a0 a1 : DWord) : State :=
  s.trace kind event (dieOf core) (some core) none ctx a0 a1

/-- A shadow ends, if it has not: at its own EXIT, with its group, when its fault is taken, or with its launch (R242, R248). -/
def State.endShadow (s : State) (k : GKey) : State :=
  match s.findGroup { k with shadow := true } with
  | none => s
  | some h =>
    let w := (s.findWg k.wg).getD .absent
    (s.onGroup h.key (fun g => { g with live := false, pend := [], wait := .none })).traceCore 3 3 w.core
      ((s.findLaunch w.launch).getD .absent).ctx h.pc 0

/-- Runs an operation as another group and comes back. -/
def State.asGroup (s : State) (k : GKey) (f : State → State) : State :=
  if s.cur.live && s.cur.key == k then f s else
  match s.findGroup k with
  | none => s
  | some _ =>
    let me := s.cur.key
    let t := f (s.focus k)
    match t.findGroup me with
    | some _ => t.focus me
    | none => t

/-- A record of a core with no context for an event whose arguments R348 does not list: they are free values (log entry 2). -/
def State.traceOpen (s : State) (kind event core : Nat) : State :=
  s.tick.tick.traceCore kind event core 0 s.freeVal s.tick.freeVal

/-! ### Causes (R18) -/

def causeIllegal : Nat := 1
def causeBounds : Nat := 2
def causePcWrap : Nat := 3
def causeAlign : Nat := 4
def causeLease : Nat := 5
def causeStale : Nat := 6
def causeWaitCycle : Nat := 7
def causeClaim : Nat := 8
def causeAccOwn : Nat := 9
def causePoison : Nat := 10
def causeShadow : Nat := 11
def causeOverdue : Nat := 12
def causeBreak : Nat := 13
def causeSvc : Nat := 14
def codeKilled : Nat := 16

/-! ### The pending-launch pools (R260, R290, R336) -/

/-- The workgroups of a launch that a die may place next: the next of its share, or, of a map, the lowest of each core that is not
placed yet (R293). -/
def Launch.pendingOn (l : Launch) (die : Nat) : List Nat :=
  match l.map with
  | none => ((l.shares.filter (fun x => x.die == die && x.next < x.stop)).map (·.next)).take 1
  | some m =>
    let left := (List.range m.cores.length).filter (fun i => dieOf (m.cores.getD i 0) == die && !l.placed.contains i)
    left.filter (fun i => !left.any (fun k => k < i && m.cores.getD k 0 == m.cores.getD i 0))

/-- Has the launch an entry in the pool of a die? -/
def Launch.inPool (l : Launch) (die : Nat) : Bool := l.pools.any (fun e => e.die == die && e.held)

/-- A launch's share comes into the pool of a die. -/
def State.enterPool (s : State) (u die : Nat) : State :=
  (s.onLaunch u (fun l => { l with pools := l.pools ++ [{ die := die, since := s.time.now, held := true }] })).onDie die
    (fun d => { d with pool := d.pool + 1 })

/-- An entry of a die's pool has become free: the share that has waited longest in the hub for that die takes it, before any new
LAUNCH can (R290). -/
def State.hubFill (s : State) (die : Nat) : State :=
  let waits := s.allLaunches.filter (fun l => l.uid != 0 && (l.state == .queued || l.state == .running) &&
    !(l.pendingOn die).isEmpty && !l.pools.any (fun e => e.die == die))
  match waits with
  | [] => s
  | l :: ls =>
    let first := ls.foldl (fun m x => if x.queuedAt < m.queuedAt || (x.queuedAt == m.queuedAt && x.uid < m.uid) then x else m) l
    if 1024 ≤ (s.die die).pool then s else s.enterPool first.uid die

/-- A launch gives up its entry in the pool of a die. -/
def State.leavePool (s : State) (u die : Nat) : State :=
  if !((s.findLaunch u).getD .absent).inPool die then s else
  ((s.onLaunch u (fun l => { l with pools := l.pools.map (fun e => if e.die == die then { e with held := false } else e) })).onDie die
    (fun d => { d with pool := d.pool - 1 })).hubFill die

/-- A launch that queues nothing any more leaves every pool. -/
def State.leavePools (s : State) (u : Nat) : State := (List.range 4).foldl (fun s d => s.leavePool u d) s

/-! ### Ending a launch (R299) -/

/-- The reservoir gains the charge back, less what was metered, when a placed workgroup retires or is stopped (R296). -/
def State.reconcile (s : State) (w : Workgroup) : State :=
  if w.uid = 0 then s else
  s.onDie (dieOf w.home) (fun d =>
    let r := d.reservoir + 1000 * w.charged - 1000 * ((w.energy + 999) / 1000)
    { d with reservoir := if (d.capW * 20000000 : Int) < r then (d.capW * 20000000 : Int) else r })

/-- Stops the groups of a launch at once and discards its queued workgroups; its engine commands run on, and
LAUNCH_END_COMPLETION does the rest (R299). A launch that is already ending keeps its first code. -/
def State.endLaunch (s : State) (u code : Nat) : State :=
  match s.findLaunch u with
  | none => s
  | some l =>
    if l.state = .ending || l.state = .ended || l.state = .done || l.state = .refused then s else
    let mine := s.wgsOf u
    let uids := mine.map (·.uid)
    let info := if s.cur.live && s.cur.sup && uids.contains s.cur.key.wg then (s.cur.trapCause, s.cur.trapVal) else (0, 0)
    let s := (uids.flatMap s.shadowsOf).foldl (fun s g => s.endShadow g.key) s
    let s := s.onGroups (fun g => if uids.contains g.key.wg then { g with live := false, wait := .none, pend := [] } else g)
    let s := mine.foldl (fun s w => s.reconcile w) s
    let s := s.onWgs (fun w => if uids.contains w.uid then
      { w with status := (match w.status with | .saved a => .saved a | _ => .draining), request := none, claimQ := [], joint := [],
               charged := 0, energy := 0 } else w)
    let shut := fun (c : Core) => { c with rdv := c.rdv.filter (fun r => r.launch ≠ u) }
    let s := { s with core := shut s.core, cores := s.cores.map shut }
    (s.onLaunch u (fun l => { l with state := .ending, code := code, shares := [], waiting := [], trapInfo := info })).leavePools u

/-! ### Taking a trap (R15 to R19) and coming back -/

/-- TRAPCAUSE (R18). -/
def trapCauseWord (cause code : Nat) : DWord := .ofNat 64 (code % 2 ^ 24 * 65536 + cause)

/-- The supervisor bank at entry (R17). -/
def Group.bankAtEntry (g : Group) (c : CoreSetup) : Group :=
  { g with bankS := mapSet 0 (mapSet 0 [] 56 (BitVec.ofNat 64 c.dataBase)) 57 (BitVec.ofNat 64 c.dataLen),
           bankT := { base := 0, frame := c.dataBase, limit := c.dataLen, rd := true, wr := true } }

/-- The trap registers of a trap taken from user mode (R16). A cause that never enters the handler writes them too: the rules
that give its TRAPVAL name a register (R168, R172, R311), and R16 writes the four together (DESIGN CHOICE, log entry 57). -/
def Group.recordTrap (g : Group) (cause code : Nat) (val tpc org : DWord) : Group :=
  { g with trapCause := trapCauseWord cause code, trapPc := tpc, trapVal := val, trapOrg := org }

/-- An access that ends the launch of the current group with LEASE (R178); in supervisor mode the registers of the first trap
stay for the end record (R311). -/
def State.endLease (s : State) (val tpc org : DWord) : State :=
  (if s.cur.sup then s else s.setCur (s.cur.recordTrap causeLease 0 val tpc org)).endLaunch s.launch.uid causeLease

/-- A group's entry to its handler (R16, R17): the trap registers, supervisor mode with its bank, the handler's address;
a NOPRE window closes (R83), a doze and a claim end, an issue that waits for its quad is withdrawn by the caller. -/
def Group.enterHandler (g : Group) (c : CoreSetup) (cause code : Nat) (val tpc org : DWord) : Group :=
  { (g.bankAtEntry c).recordTrap cause code val tpc org with
    sup := true,
    pc := .ofNat 64 c.handler, run := .none, nopre := none, wait := .none, safe := false, fbuf := [],
    pend := g.pend.map (fun e => { e with kept := true }) }

/-- R321: the group restarts its region, or none when no restart is left; the trap closes a NOPRE window (R83). -/
def Group.restartRegion (g : Group) : Option Group :=
  if g.rpc ≠ 0 && (g.restart &&& 3).toNat < 2 then
    some { g with restart := ((g.restart + 1) &&& 3) ||| (g.restart &&& 0x7C) ||| 0x80,
                  act := g.ra &&& ~~~g.exited, stack := g.stack.drop (g.stack.length - g.rdepth),
                  pc := g.rpc, run := .none, nopre := none, wait := .none, safe := false, fbuf := [] }
  else none

/-- A group that leaves its word for a trap withdraws its joint issue (R275) and its claim (R152). -/
def Workgroup.withdraw (w : Workgroup) (gid : Nat) : Workgroup :=
  { w with joint := w.joint.filter (fun x => x.1 ≠ gid), claimQ := w.claimQ.filter (· ≠ gid) }

/-- A trap of the current group, its outstanding results having landed: entry to the handler; in supervisor mode the end
of the launch with the cause (R19); POISON and SHADOW_MISMATCH restart the region or end the launch (R321); LEASE ends
the launch (R178); a fault in a shadow stops it (R242). -/
def State.takeTrap (s : State) (cause code : Nat) (val tpc org : DWord) : State :=
  let g := s.cur
  if g.key.shadow then
    (s.setCur { g with fault := some (cause, val), parked := false }).traceCore 3 2 s.wg.core s.launch.ctx
      (.ofNat 64 cause) val
  else if cause = causeLease then s.endLease val tpc org
  else if g.sup then s.endLaunch s.launch.uid cause
  else if cause = causePoison || cause = causeShadow then
    let g := g.recordTrap cause 0 val tpc org
    match g.restartRegion with
    | some g' =>
      { s with cur := g', wg := s.wg.withdraw g.key.gid }.traceCore 8 5 s.wg.core s.launch.ctx g.rpc (g'.restart.setWidth 64)
    | none => (s.setCur g).endLaunch s.launch.uid cause
  else { s with cur := g.enterHandler s.core.setup cause code val tpc org, wg := s.wg.withdraw g.key.gid }

/-- ERET (R16, R17, R81): back to user mode at TRAPPC, whose two lowest bits are not used (DEDUCED, log entry 24); the bank
does not survive. -/
def Group.returnFromTrap (g : Group) : Group :=
  { g with sup := false, pc := g.trapPc &&& ~~~3#64, bankS := [], bankT := .zero, run := .none, safe := false, fbuf := [],
           pend := g.pend.map (fun e => { e with kept := false }) }

/-! ### Reconvergence (R69 to R75) -/

/-- Pops the top entry of the stack: PEND sets A to its mask, CONV to its mask without E (R70). -/
def Group.popEntry (g : Group) : Group :=
  match g.stack with
  | [] => g
  | e :: rest => { g with stack := rest, pc := e.pc, act := if e.pend then e.mask else e.mask &&& ~~~g.exited }

/-- The pc of the topmost CONV entry (R70, R71). -/
def Group.convPc (g : Group) : Option DWord := (g.stack.find? (fun e => !e.pend)).map (·.pc)

/-- R70, before an issue: at the pc of the topmost CONV entry, or when A is empty, the top entry is popped, and again while
that holds. The count bounds the pops by the stack. -/
def Group.rejoin : Nat → Group → Group
  | 0, g => g
  | n + 1, g =>
    if !g.stack.isEmpty && (g.act = 0 || g.convPc = some g.pc) then Group.rejoin n g.popEntry else g

/-- R70, when A is empty: pops until A holds a thread or the stack is empty. -/
def Group.popDead : Nat → Group → Group
  | 0, g => g
  | n + 1, g => if g.act = 0 && !g.stack.isEmpty then Group.popDead n g.popEntry else g

end Sys2Proof.Machine
end

