-- ==== Sys2Proof/Machine/Memory.lean ====
section
/-!
DEFINITION. Machine/Memory.lean: the four address spaces (R164): translation and leases, global memory under the ordering
rules of chapter 12, the scratchpad and its tags, the distributed window, atomics at their owner; and how an outstanding
result lands.
-/

namespace Sys2Proof.Machine

/-! ### Knowledge and scopes -/

/-- Inserts a number into a rising list, once. -/
def insRising (x : Nat) : List Nat → List Nat
  | [] => [x]
  | y :: ys => if x < y then x :: y :: ys else if x = y then y :: ys else y :: insRising x ys

def Know.raise (a : Know) (w n : Nat) : Know := mapSet [] a w (insRising n (mapGet [] a w))
def Know.join (a b : Know) : Know :=
  b.foldl (fun m e => mapSet [] m e.1 (e.2.foldl (fun l n => insRising n l) (mapGet [] m e.1))) a

/-- The key under which sync points and FENCE.e are known, and the one of the commands of a tile that were waited for. -/
def syncKey : Nat := 2 ^ 62
def waitKey (wg quad tile : Nat) : Nat := 2 ^ 62 + 1 + (wg * 512 + quad) * 8 + tile

/-- Does one of these sync points or FENCE.e happen before (R218)? -/
def Know.covers (k : Know) (syncs : List Nat) : Bool := (mapGet [] k syncKey).any syncs.contains

/-- Physical groups count as one group for .grp and for their own writes: the parts of one physical group under 16-lane
compatibility are one group (R127). -/
def physKey (compat prot : Bool) (point : Nat) (k : GKey) : GKey :=
  if compat then { k with gid := k.gid / (widthAt point / (if prot then 32 else 16)) } else k

def State.physOf (s : State) (k : GKey) (core : Nat) : GKey :=
  let w := (s.findWg k.wg).getD .absent
  physKey w.kern.compat ((s.findLaunch w.launch).getD .absent).isProt (s.getCore core).point k

/-- The physical group of the current group. -/
def State.owner (s : State) : GKey := physKey s.compat s.prot s.core.point s.cur.key

/-- R194: does q lie within the scope of p? -/
def reach (scope : Nat) (p q : Party) : Bool :=
  match p, q with
  | .device, _ => true
  | _, .device => true
  | .outside, _ => scope == 6
  | _, .outside => scope == 6
  | .group g c, .group h d =>
    if scope = 1 then g == h else if scope = 2 then c == d else if scope = 3 then clusterOf c == clusterOf d
    else if scope = 4 then dieOf c == dieOf d else true

/-- The party that a group is (R194). -/
def State.partyOf (s : State) (k : GKey) (core : Nat) : Party := .group (s.physOf k core) core
def State.me (s : State) : Party := .group s.owner s.wg.core

/-- The group whose writes a party reads as its own. -/
def Party.owner (p : Party) : Option GKey :=
  match p with
  | .group k _ => some k
  | _ => none

/-- The group that a live group is, as a party. -/
def State.partyIs (s : State) (g : Group) : Party := s.partyOf g.key ((s.findWg g.key.wg).getD .absent).core

/-- The groups that count as the current one: itself, and the other parts of its physical group (R127). -/
def State.partners (s : State) : List Group :=
  if s.compat then
    s.cur :: s.groups.filter (fun g => g.live && g.key.wg == s.cur.key.wg && g.key.shadow == s.cur.key.shadow &&
      physKey true s.prot s.core.point g.key == s.owner)
  else [s.cur]

/-! ### The writes of a word (R203, R205, R213, R214) -/

def WordHist.none : WordHist := { init := 0, vers := [], made := 0 }
def State.histOf (s : State) (w : Nat) : WordHist := mapGet .none s.hist w

/-- The word as it stands in the L2. -/
def State.word (s : State) (w : Nat) : Word := .ofNat 32 (s.natAt (4 * w) 4)

/-- The n-th value of a word in coherence order: 0 is the initial one. -/
def WordHist.at_ (h : WordHist) (n : Nat) : Word :=
  if n = 0 then h.init else ((h.vers[h.vers.length - n]?).map (·.val)).getD h.init

/-- The last place in coherence order of one of these writes: 0 for none. -/
def WordHist.place (h : WordHist) (ids : List Nat) : Nat := h.vers.length - h.vers.findIdx (fun v => ids.contains v.id)

/-- The bytes of x that a mask names over those of low. -/
def byteMask (m : BitVec 4) : Word :=
  (if m.getLsbD 0 then 0xFF else 0) ||| (if m.getLsbD 1 then 0xFF00 else 0) ||| (if m.getLsbD 2 then 0xFF0000 else 0) |||
    (if m.getLsbD 3 then 0xFF000000 else 0)

def overlay (low : Word) (m : BitVec 4) (x : Word) : Word := (x &&& byteMask m) ||| (low &&& ~~~(byteMask m))

def topOf (init : Word) (vs : List Version) : Word := (vs.head?.map (·.val)).getD init

/-- Writes placed above others leave, in the bytes they do not write, what stands below them (R203). -/
def stackOn (init : Word) (low : List Version) : List Version → List Version
  | [] => low
  | v :: vs =>
    let below := stackOn init low vs
    { v with val := overlay (topOf init below) v.mask v.val } :: below

/-- The writes that an L1 alone holds, and those in the L2. -/
def WordHist.inL1 (h : WordHist) : List Version := h.vers.takeWhile (fun v => !v.l2)
def WordHist.inL2 (h : WordHist) : List Version := h.vers.dropWhile (fun v => !v.l2)

/-- A new write: one that reaches the L2 comes after every write there and before those that an L1 alone holds (R205). -/
def WordHist.add (h : WordHist) (v : Version) : WordHist :=
  let v := { v with id := h.made + 1 }
  { h with made := h.made + 1,
           vers := if v.l2 then stackOn h.init h.inL2 (h.inL1 ++ [v]) else stackOn h.init h.vers [v] }

/-- The writes that a core's L1 alone holds reach the L2, in their order. -/
def WordHist.writeBack (h : WordHist) (core : Nat) : WordHist :=
  { h with vers := stackOn h.init h.inL2 (h.inL1.filter (fun v => v.core ≠ core) ++
      (h.inL1.filter (fun v => v.core == core)).map (fun v => { v with l2 := true })) }

/-- The word in the L2 after a change there. -/
def State.settleWord (s : State) (w : Nat) (h : WordHist) : State :=
  { s with hist := mapSet .none s.hist w h,
           mem := Memory.put s.mem (4 * w) (natBytes (topOf h.init h.inL2).toNat 4) }

/-- The writes of a word, its initial value taken from memory where nothing has written it since. -/
def State.histFrom (s : State) (w : Nat) : WordHist :=
  let h := s.histOf w
  if h.vers.isEmpty then { h with init := s.word w } else h

/-- A write of a word. -/
def State.addVersion (s : State) (w : Nat) (v : Version) : State :=
  let h := (s.histFrom w).add v
  if v.l2 then s.settleWord w h else { s with hist := mapSet .none s.hist w h }

/-- The number of the newest write of a word. -/
def State.lastWrite (s : State) (w : Nat) : Nat := (s.histOf w).made

/-- What a core's L1 alone holds of a word reaches the L2: by publication, CFLUSH, CINV or an eviction (R218). -/
def State.writeBack (s : State) (core w : Nat) : State :=
  let h := s.histOf w
  if h.inL1.any (fun v => v.core == core) then s.settleWord w (h.writeBack core) else s

def State.writeBackCore (s : State) (core : Nat) (only : Nat → Bool) : State :=
  (s.hist.filter (fun e => only e.1)).foldl (fun s e => s.writeBack core e.1) s

/-- May this party, a group or not, read this version (R213)? -/
def Version.readable (v : Version) (owner : Option GKey) (p : Party) : Bool :=
  v.open_ || (owner.isSome && v.owner == owner) || v.pubs.any (fun b => reach b.scope b.party p)

/-- The writes of a word from which a plain read may return: none older than the floor (R210, R214), each readable
(R213) or the floor itself. -/
def readChoices (h : WordHist) (floor : Nat) (owner : GKey) (p : Party) : List Nat :=
  (List.range (h.vers.length + 1)).filter (fun n =>
    n == floor || (floor < n && ((h.vers[h.vers.length - n]?).map (fun v => v.readable (some owner) p)).getD false))

/-- A plain read of a word by the current group: where more than one write may be returned the choice is free, and the
group never reads an older one again (R210, R214). -/
def State.readWord (s : State) (w : Nat) : Word × State :=
  let h := s.histOf w
  if h.vers.isEmpty then (s.word w, s) else
  let floor := s.partners.foldl (fun m g => max m (max (h.place (mapGet [] g.known w)) (h.place (mapGet [] g.seen w)))) 0
  let ch := readChoices h floor s.owner s.me
  let pick := if ch.length ≤ 1 then ch.headD floor else ch.getD (s.freeVal.toNat % ch.length) floor
  let s := if ch.length ≤ 1 then s else s.tick
  (h.at_ pick, match (if pick = 0 then none else h.vers[h.vers.length - pick]?) with
    | none => s
    | some v => s.setCur { s.cur with seen := s.cur.seen.raise w v.id })

/-- Does an access touch a poisoned unit of memory (R318)? A unit that one store of the group covers whole is not. -/
def State.gpoison (s : State) (pa n : Nat) : Bool :=
  (List.range ((pa % 8 + n + 7) / 8)).any (fun i =>
    (s.memBad.contains (pa / 8 + i) && !s.partners.any (fun g => g.whole.contains (pa / 8 + i))) ||
      s.partners.any (fun g => g.dirtyBad.contains (pa / 8 + i)))

/-- A plain global store by the current group: its bytes stay in the L1 until a sync point publishes them (R77, R213). -/
def State.gwrite (s : State) (pa : Nat) (bs : List Byte) : State :=
  s.setCur { s.cur with
    dirty := mapSetList none s.cur.dirty pa (bs.map some),
    dirtyBad := s.cur.dirtyBad.filter (fun u => !(pa ≤ 8 * u && 8 * u + 8 ≤ pa + bs.length)),
    whole := ((List.range (bs.length / 8)).map (fun i => pa / 8 + i)).foldl (fun l u => insRising u l) s.cur.whole }

/-- The words that hold one of these bytes, each once. -/
def wordsOf (m : SMap (Option Byte)) : List Nat := (m.map (fun e => e.1 / 4)).eraseDups

/-- The dirty bytes of one word of a group become one write of the word (R166, R203): in the L1 of its core, or in the L2 after
what that L1 holds. A store that covers a whole poisoned unit reaches it at once and clears its poison (R318); one that covers a
part of the word has its place at once too, since what it leaves in the other bytes depends on it (DESIGN CHOICE, log entry 67). A unit that
the L1 has lost carries its poison along. -/
def State.flushWord (s : State) (g : Group) (owner : GKey) (core : Nat) (pubs : List Pub) (syncs : List Nat) (l2 : Bool) (w : Nat) :
    State :=
  let bs := (List.range 4).map (fun i => mapGet none g.dirty (4 * w + i))
  let clean := g.whole.contains (w / 2) && s.memBad.contains (w / 2) && !g.dirtyBad.contains (w / 2)
  let v : Version :=
    { id := 0, val := .ofNat 32 (bytesNat (bs.map (·.getD 0))), owner := some owner, core := core, open_ := false,
      mask := (List.range 4).foldl (fun m i => setBit m i (mapGet none g.dirty (4 * w + i)).isSome) 0,
      l2 := l2 || clean || !bs.all (·.isSome), pubs := pubs, syncs := syncs, rels := [] }
  let s := (if v.l2 then s.writeBack core w else s).addVersion w v
  if g.dirtyBad.contains (w / 2) then (if s.memBad.contains (w / 2) then s else { s with memBad := (w / 2) :: s.memBad }) else
  if clean then { s with memBad := s.memBad.filter (· ≠ w / 2) } else s

/-- Every dirty byte of a group of the state, in the words named, becomes part of a write, known to the group. -/
def State.flushGroup (s : State) (k : GKey) (owner : GKey) (core : Nat) (pubs : List Pub) (syncs : List Nat) (l2 : Bool)
    (only : Nat → Bool) : State :=
  match s.findGroup k with
  | none => s
  | some g =>
    let ws := (wordsOf g.dirty).filter only
    let s := ws.foldl (fun s w => s.flushWord g owner core pubs syncs l2 w) s
    let known := ws.foldl (fun (m : Know) w => m.raise w (s.lastWrite w)) g.known
    let dirty := g.dirty.filter (fun e => !only (e.1 / 4))
    s.onGroup k (fun g => { g with known := known, dirty := dirty,
                                   dirtyBad := g.dirtyBad.filter (fun u => dirty.any (fun e => e.1 / 8 == u)),
                                   whole := g.whole.filter (fun u => dirty.any (fun e => e.1 / 8 == u)) })

/-- The bytes of a word that the group itself has written and not published. -/
def State.ownBytes (s : State) (w : Nat) : List (Option Byte) :=
  (List.range 4).map (fun i => s.partners.foldl (fun b g => (mapGet none g.dirty (4 * w + i)).orElse (fun _ => b)) none)

/-- The group's read of a word: its own unpublished store where that covers the word; where it covers a part, the store takes
its place in coherence order first, so that the word read is one that a write left (R203). -/
def State.readWordOwn (s : State) (w : Nat) : List Byte × State :=
  let own := s.ownBytes w
  if own.all (·.isSome) then (own.map (·.getD 0), s) else
  let s := if own.any (·.isSome) then
      s.partners.foldl (fun s g => s.flushGroup g.key s.owner s.wg.core [] [] true (· == w)) s
    else s
  let (x, s) := s.readWord w
  (natBytes x.toNat 4, s)

/-- Reads consecutive words for the current group. -/
def State.readWords (s : State) (w : Nat) : Nat → List Byte × State
  | 0 => ([], s)
  | n + 1 =>
    let (b, s) := s.readWordOwn w
    let (r, s) := State.readWords s (w + 1) n
    (b ++ r, s)

/-- A global read of n bytes by the current group (R203, R214). -/
def State.gread (s : State) (pa n : Nat) : List Byte × State :=
  let (bs, s') := s.readWords (pa / 4) ((pa % 4 + n + 3) / 4)
  ((bs.drop (pa % 4)).take n, s')

/-- Adds a publication to a group's own writes, where a group publishes, and to every write that happens before (R207). -/
def publishHist (h : SMap WordHist) (owner : Option GKey) (known : Know) (b : Pub) (syncs : List Nat) : SMap WordHist :=
  h.map (fun e =>
    let ids := mapGet [] known e.1
    (e.1, { e.2 with vers := e.2.vers.map (fun v =>
      if (owner.isSome && v.owner == owner) || ids.contains v.id then { v with pubs := insPub b v.pubs, syncs := syncs ++ v.syncs } else v) }))
where
  insPub (b : Pub) (l : List Pub) : List Pub := if l.contains b then l else b :: l

/-- The newest write of each word that has been published to a party within a scope (R206, R214). -/
def State.published (s : State) (me : Party) (scope : Nat) (seen : Know) : Know :=
  s.hist.foldl (fun (m : Know) e =>
    match e.2.vers.find? (fun v => v.pubs.any (fun b => reach b.scope b.party me && reach scope me b.party)) with
    | some v => m.raise e.1 v.id
    | none => m) seen

/-- The current group renews its snapshot at a scope (R206, R214). -/
def State.snapshot (s : State) (scope : Nat) : State :=
  s.setCur { s.cur with seen := s.published s.me scope s.cur.seen }

/-- What the group hands to an acquirer: everything that happens before, its own writes among it (R208, R209). -/
def State.releaseKnow (s : State) : Know := s.cur.known

/-- What happens before the next instruction of the physical group (R127, R209). -/
def State.issueKnow (s : State) : Know := s.partners.tail.foldl (fun k g => k.join g.known) s.cur.known
def State.acquire (s : State) (k : Know) : State := s.setCur { s.cur with known := s.cur.known.join k }

/-! ### Atomics at the owner (R190 to R196) -/

/-- The owner cluster of a physical address (R190). -/
def ownerHash (a : Nat) : Nat :=
  (fld a 12 5) ^^^ (fld a 17 5) ^^^ (fld a 22 5) ^^^ (fld a 27 5) ^^^ (fld a 32 5) ^^^ (fld a 37 5) ^^^
    (fld a 42 5) ^^^ (fld a 47 1)

/-- A cluster with a core that is present. -/
def State.clusterUp (s : State) (cl : Nat) : Bool := (List.range 8).any (fun i => (s.getCore (8 * cl + i)).present)

/-- The next healthy cluster in increasing number (R323). -/
def State.nextCluster (s : State) (cl : Nat) : Nat :=
  (((List.range 31).map (fun i => (cl + 1 + i) % 32)).find? s.clusterUp).getD cl

/-- The cluster whose service group serves an address: its owner (R190), or the one to which the ownership has passed, of a cluster that
is absent (R323) or in a test (R326). -/
def State.serverOf (s : State) (pa : Nat) : Nat :=
  let k := ownerHash pa
  if (s.cluster k).inTest then (s.cluster k).service else if s.clusterUp k then k else s.nextCluster k

/-- Does a request wait for a link, on its way to the service group that serves it or from there to the location's home (R334, R337)? -/
def State.atomWaits (s : State) (r : AtomReq) : Bool :=
  s.links.any (·.2.retrain) && (s.linkWaits (dieOf r.core) (s.serverOf r.pa / 8) || s.wayWaits (s.serverOf r.pa / 8) r.pa)

/-- The new value of a location of w bits (R192, R193). -/
def atomApply (op : AtomOp) (w : Nat) (old x y : BitVec w) : BitVec w :=
  match op with
  | .add => old + x
  | .exch => x
  | .cas => if old = x then y else old
  | .and => old &&& x
  | .or => old ||| x
  | .xor => old ^^^ x
  | .minS => if x.toInt < old.toInt then x else old
  | .maxS => if old.toInt < x.toInt then x else old
  | .minN => if x.toNat < old.toNat then x else old
  | .maxN => if old.toNat < x.toNat then x else old
  | .fadd => .ofNat w (if w = 32 then (fAdd f32 .rne old.toNat x.toNat).1 else (fAdd f64 .rne old.toNat x.toNat).1)

/-- The group's own dirty bytes of a location, and what the L1 of its core holds of it published, reach the L2 (R192). What other
groups have not published stays behind: no atomic of this group may read it (R213, log entry 59). -/
def State.flushOwn (s : State) (k : GKey) (core w n : Nat) : State :=
  let only := fun x => w ≤ x && x < w + n
  ((s.allGroups.filter (fun g => s.physOf g.key core == k)).foldl (fun s g => s.flushGroup g.key k core [] [] true only) s).writeBackCore
    core only

/-- The releases that pass the scope test of R194 for an acquirer, and whether one failed. -/
def scopeTest (rels : List Rel) (scope : Nat) (p : Party) : Know × Bool :=
  rels.foldl (fun (r : Know × Bool) x =>
    if reach x.scope x.party p && reach scope p x.party then (r.1.join x.know, r.2) else (r.1, true)) ([], false)

/-- The writes of a word in the L2 above which a read-modify-write by a party does not stand: it reads the newest write that it may
read, and no write comes between (R211, R213). An unpublished write of another group therefore follows it, unless that write covers a
part of the word only: such a write has its place already, and is read (log entry 59). ids are the writes that the party knows. -/
def WordHist.unread (h : WordHist) (owner : Option GKey) (p : Party) (ids : List Nat) : List Version :=
  h.inL2.takeWhile (fun v => v.mask == 15 && !v.readable owner p && !ids.contains v.id)

/-- The word that a read-modify-write or a WAITGE by a party reads, and the releases that it carries. -/
def State.sees (s : State) (owner : Option GKey) (p : Party) (known : Know) (w : Nat) : Word × List Rel :=
  let h := s.histFrom w
  let low := h.inL2.drop (h.unread owner p (mapGet [] known w)).length
  (topOf h.init low, (low.head?.map (·.rels)).getD [])

/-- Which write that is: 0 where it is the initial value. -/
def State.seesId (s : State) (owner : Option GKey) (p : Party) (known : Know) (w : Nat) : Nat :=
  let h := s.histFrom w
  ((h.inL2.drop (h.unread owner p (mapGet [] known w)).length).head?.map (·.id)).getD 0

/-- The same of a location of one word or two. -/
def State.seesAt (s : State) (owner : Option GKey) (p : Party) (known : Know) (w : Nat) (wide : Bool) : DWord × List Rel :=
  let a := s.sees owner p known w
  if wide then let b := s.sees owner p known (w + 1); (b.1 ++ a.1, a.2 ++ b.2) else (a.1.setWidth 64, a.2)

/-- The write that a read-modify-write makes: right above the one it read; it belongs to the release sequences of that one and carries
its own releases (R208, R211). -/
def State.putRmw (s : State) (owner : Option GKey) (p : Party) (known : Know) (own : List Rel) (w : Nat) (x : Word) : State :=
  let h := s.histFrom w
  let n := (h.unread owner p (mapGet [] known w)).length
  let v : Version :=
    { id := h.made + 1, val := x, mask := 15, owner := owner, core := 0, open_ := true, l2 := true, pubs := [], syncs := [],
      rels := (s.sees owner p known w).2 ++ own.map (fun r => { r with know := r.know.raise w (h.made + 1) }) }
  s.settleWord w { h with made := h.made + 1, vers := h.inL1 ++ h.inL2.take n ++ v :: h.inL2.drop n }

/-- One read-modify-write at a location by a party: the value it read, the releases it read from, and the state. -/
def State.rmw (s : State) (pa : Nat) (wide : Bool) (f : DWord → DWord) (owner : Option GKey) (p : Party) (known : Know)
    (own : List Rel) : DWord × List Rel × State :=
  let w := pa / 4
  let old := s.seesAt owner p known w wide
  let new := f old.1
  let t := s.putRmw owner p known own w (new.setWidth 32)
  let t := if wide then t.putRmw owner p known own (w + 1) ((new >>> 32).setWidth 32) else t
  -- an 8-byte step covers its whole unit
  (old.1, old.2, if wide then { t with memBad := t.memBad.filter (· ≠ w / 2) } else t)

/-- A group takes the acquire of releases it read from (R208, R216); a relaxed access keeps them for a later FENCE (R198). -/
def Group.takeRels (g : Group) (rels : List Rel) (acq rel : Bool) (scope : Nat) (p : Party) : Group :=
  if acq then
    let (k, failed) := scopeTest rels scope p
    let g := { g with known := g.known.join k }
    if failed then g.flag scopeX else g
  else if rel then g else { g with fenceAcq := g.fenceAcq ++ rels }

/-- What an outstanding entry of a group becomes: these entries in its place. -/
def Group.replace (g : Group) (f : PendAct → Bool) (acts : List PendAct) : Group :=
  { g with pend := (g.pend.map (fun e => if f e.act then acts.map (fun a => { e with act := a }) else [e])).flatten }

/-- The service group performs one request (R190, R192). The old value is on its way to the thread that holds the entry of
the request, wherever a span move has taken it (R118). -/
def State.performAtom (s : State) (r : AtomReq) : State :=
  let s := { s with atomq := s.atomq.filter (fun x => x.id ≠ r.id) }
  let k := s.physOf r.from_ r.core
  let s := s.flushOwn k r.core (r.pa / 4) (if r.wide then 2 else 1)
  let mine := fun (a : PendAct) => a == .atom r.id
  if s.memBad.contains (r.pa / 8) then s.onGroups (fun g => g.replace mine [.fault causePoison (.ofNat 64 r.pa)]) else
  let f := fun (old : DWord) =>
    if r.wide then atomApply r.op 64 old r.x r.y
    else ((atomApply r.op 32 (old.setWidth 32) (r.x.setWidth 32) (r.y.setWidth 32)).setWidth 64 : DWord)
  let p := s.partyOf r.from_ r.core
  let own := (if r.rel then [{ know := r.know, scope := r.scope, party := p : Rel }] else []) ++ r.rels
  let g := (s.findGroup r.from_).getD .absent
  let (old, rels, s) := s.rmw r.pa r.wide f (some k) p (g.known.join g.seen) own
  let d := r.reg.getD 0
  let words := PendAct.word d (old.setWidth 32) :: (if r.wide then [.word (d + 1) ((old >>> 32).setWidth 32)] else [])
  let s := s.onGroups (fun g => g.replace mine words)
  s.onGroup r.from_ (fun g =>
    let g := { g with known := g.known.raise (r.pa / 4) (s.lastWrite (r.pa / 4)) }
    let g := if r.wide then { g with known := g.known.raise (r.pa / 4 + 1) (s.lastWrite (r.pa / 4 + 1)) } else g
    let g := if r.reg.isSome then g.takeRels rels r.acq r.rel r.scope p else g
    if r.acq then { g with seen := s.published p r.scope g.seen } else g)

/-- Do two byte ranges meet? -/
def meets (a n b m : Nat) : Bool := a < b + m && b < a + n
def AtomReq.bytes (r : AtomReq) : Nat := if r.wide then 8 else 4

/-- Serves a request after the earlier requests of its group to its location (R190: in the order issued) and after the earlier RED of
the group: a RED has no window, so it is before the request in ppo, and R212 lets no RED read from what follows the request. -/
def State.serveAtom (s : State) (id : Nat) : State :=
  match s.atomq.find? (fun r => r.id == id) with
  | none => s
  | some r =>
    let me := s.physOf r.from_ r.core
    let first := s.atomq.filter (fun x => x.id < id && s.physOf x.from_ x.core == me && (meets x.pa x.bytes r.pa r.bytes || x.reg.isNone))
    (first ++ [r]).foldl (fun s x => s.performAtom x) s

/-- The requests of the current group, in the order issued. -/
def State.myRequests (s : State) : List AtomReq := s.atomq.filter (fun r => s.physOf r.from_ r.core == s.owner)

/-- Every reduction of a group is performed. -/
def State.serveRedsOf (s : State) (k : GKey) : State :=
  (s.atomq.filter (fun r => r.reg.isNone && s.physOf r.from_ r.core == k)).foldl (fun s r => s.serveAtom r.id) s

/-- The dirty bytes of some words in the L1 of a core, published or not and whoever of its groups wrote them, reach the L2 (R166,
R201): the earlier reductions of those groups come first (R212). -/
def State.flushDirty (s : State) (core : Nat) (only : Nat → Bool) : State :=
  let gs := s.allGroups.filter (fun g => ((s.findWg g.key.wg).getD .absent).core == core && g.dirty.any (fun e => only (e.1 / 4)))
  let s := gs.foldl (fun s g => s.serveRedsOf (s.physOf g.key core)) s
  (gs.foldl (fun s g => s.flushGroup g.key (s.physOf g.key core) core [] [] true only) s).writeBackCore core only

/-- Dirty bytes of a word may leave an L1 at any time (R166, R218): for each core that holds some, the choice is free. -/
def State.evictions (s : State) (w : Nat) : State :=
  let cores := (((s.allGroups.filter (fun g => g.dirty.any (fun e => e.1 / 4 == w))).map (fun g =>
    ((s.findWg g.key.wg).getD .absent).core)) ++ (s.histOf w).inL1.map (·.core)).eraseDups
  if cores.isEmpty then s else
  ((List.range cores.length).zip cores).foldl (fun t p => if s.freeVal.getLsbD p.1 then t.flushDirty p.2 (· == w) else t) s.tick

/-- Serves every request of the current group (R197, R202). -/
def State.serveAll (s : State) : State := s.myRequests.foldl (fun s x => s.performAtom x) s

/-- Every reduction of the current group is performed: a RED has no window, so it comes before what the group does next
(R204). -/
def State.serveAllReds (s : State) : State := (s.myRequests.filter (·.reg.isNone)).foldl (fun s r => s.serveAtom r.id) s

/-- The group's own reductions to a location come before what it does there later (R210). -/
def State.serveReds (s : State) (pa n : Nat) : State :=
  (s.myRequests.filter (fun r => r.reg.isNone && meets r.pa r.bytes pa n)).foldl
    (fun s r => s.serveAtom r.id) s

/-! ### Sync points (R206, R207) -/

/-- The current group publishes at a scope (R206, R207): every write of the group earlier than the sync point, its atomics
among them, and every write that happens before. From .cl up the writes are in the L2. -/
def State.publish (s : State) (scope : Nat) : State :=
  if scope ≤ 1 then s else
  let s := s.serveAll
  let wide := 3 ≤ scope
  let b : Pub := { scope := scope, party := s.me }
  let syncs := if wide then [s.nextId] else []
  let s := s.partners.foldl (fun s g => s.flushGroup g.key s.owner s.wg.core [b] syncs wide (fun _ => true)) s
  let s := if wide then s.writeBackCore s.wg.core (fun _ => true) else s
  let s := { s with hist := publishHist s.hist (some s.owner) s.cur.known b syncs }
  if wide then { s with nextId := s.nextId + 1, cur := { s.cur with known := s.cur.known.raise syncKey s.nextId } } else s

/-- A sync point that publishes and takes a snapshot (R206). -/
def State.syncPoint (s : State) (pub snap : Nat) : State := (s.publish pub).snapshot snap

/-! ### Translation and leases (R9, R10, R12, R174 to R178) -/

/-- The leaf of the page tables that maps an address. -/
def State.leafOf (s : State) (ctx : BitVec 16) (va : Nat) : Option Leaf :=
  s.tables.find? (fun l => l.ctx == ctx && l.va ≤ va && va < l.va + l.size)

def State.translate (s : State) (ctx : BitVec 16) (va : Nat) : Option Nat :=
  (s.leafOf ctx va).map (fun l => l.pa + (va - l.va))

/-- R175: does some range cover the byte, and does one that covers it grant writes? -/
def Launch.covers (l : Launch) (va : Nat) : Bool :=
  canonical (.ofNat 64 va) && l.leases.any (fun r => r.base.toNat ≤ va && va < r.base.toNat + r.len)

def Launch.writable (l : Launch) (va : Nat) : Bool :=
  canonical (.ofNat 64 va) && l.leases.any (fun r => r.wr && r.base.toNat ≤ va && va < r.base.toNat + r.len)

/-- The whole byte range lies under the lease with the rights (R175: byte by byte, the union of the ranges). -/
def Launch.grants (l : Launch) (va n : Nat) (wr : Bool) : Bool :=
  (List.range n).all (fun i => if wr then l.writable (va + i) else l.covers (va + i))

/-- The TLB's route: a byte range under the lease, and its first byte's physical address (R10, R174). -/
def State.viaTlb (s : State) (l : Launch) (va : Nat) (n : Nat) (wr : Bool) : Option Nat :=
  if l.grants va n wr then s.translate l.ctx va else none

/-- Where an access goes. -/
inductive Route where
  | to (pa : Nat)
  | align (ea : DWord)
  | lease (ea : DWord)
  deriving DecidableEq, Repr

/-- R10 and R12: the alignment check, then the frame route or the TLB. Supervisor t7 never uses the TLB (R17). A register that XLATE
loaded without write rights refuses a store at any offset (R77). -/
def State.route (s : State) (k : Nat) (x : DWord) (n : Nat) (wr : Bool) : Route :=
  let t := s.cur.tget k
  let ea := t.base + x
  if n ≠ 0 && ea.toNat % n ≠ 0 then .align ea
  else if wr && t.rd && !t.wr then .lease ea
  else if x.toNat + n ≤ t.limit then
    if (if wr then t.wr else t.rd) then .to (t.frame + x.toNat) else .lease ea
  else if s.cur.sup && k == 7 then .lease ea
  else match s.viaTlb s.launch ea.toNat n wr with
    | some pa => .to pa
    | none => .lease ea

/-- Bytes that map contiguously from an address in a leaf, leaf by leaf for n leaves more. -/
def contiguous (s : State) (l : Launch) (base : Nat) (leaf : Leaf) : Nat → Nat
  | 0 => leaf.va + leaf.size - base
  | n + 1 =>
    let stop := leaf.va + leaf.size
    match s.leafOf l.ctx stop with
    | some m => if m.pa = leaf.pa + leaf.size && stop < base + 2 ^ 48 then contiguous s l base m n else stop - base
    | none => stop - base

/-- XLATE's register (R79): the contiguous mapping, cut by the lease's ranges. R4 gives the base 57 bits and R79 sets it to s(off): the
register keeps all 64 bits of an address that is not canonical, so that an access through it forms the address of R10 (DESIGN CHOICE,
log entry 60). -/
def State.xlate (s : State) (base : DWord) : TReg :=
  let l := s.launch
  let b := base.toNat
  match s.leafOf l.ctx b with
  | none => { base := base, frame := 0, limit := 0, rd := false, wr := false }
  | some leaf =>
    if !l.covers b then { base := base, frame := 0, limit := 0, rd := false, wr := false } else
    let w := l.writable b
    -- rights can change only where a range begins or ends
    let edges := (l.leases.map (fun r => r.base.toNat)) ++ (l.leases.map (fun r => r.base.toNat + r.len)) ++ [2 ^ 56]
    let stop := edges.foldl (fun m e => if b < e && e < m && (!l.covers e || l.writable e != w) then e else m) (b + 2 ^ 48)
    { base := base, frame := leaf.pa + (b - leaf.va),
      limit := min (contiguous s l b leaf s.tables.length) (stop - b), rd := true, wr := w }

/-- Does a line, by its physical number, hold a leased byte of the virtual range (R87)? -/
def State.lineInRange (s : State) (lo len num : Nat) : Bool :=
  s.tables.any (fun f =>
    f.ctx == s.launch.ctx && f.pa < 64 * num + 64 && 64 * num < f.pa + f.size &&
    -- the virtual bytes that map to the line
    (let v0 := f.va + (64 * num - f.pa)
     let v1 := f.va + (64 * num + 64 - f.pa)
     s.launch.leases.any (fun r =>
       max (max v0 lo) r.base.toNat < min (min v1 (lo + len)) (r.base.toNat + r.len))))

/-! ### Engine and outside writes -/

/-- A whole-word write by an engine or another agent: readable by every party once performed (R213). -/
def State.engineWrite (s : State) (w : Nat) (x : Word) : State :=
  s.addVersion w
    { id := 0, val := x, mask := 15, owner := none, core := 0, open_ := true, l2 := true, pubs := [], syncs := [], rels := [] }

/-- Marks or clears the poison of the unit that a word lies in (R229, R318). -/
def State.poisonMem (s : State) (w : Nat) : State :=
  if s.memBad.contains (w / 2) then s else { s with memBad := (w / 2) :: s.memBad }

/-- A write of n bytes clears the poison of every unit that it covers whole. -/
def State.cleanMem (s : State) (pa n : Nat) : State :=
  { s with memBad := s.memBad.filter (fun u => !(pa ≤ 8 * u && 8 * u + 8 ≤ pa + n)) }

/-! ### Scratchpad and tags (R167, R168, R171, R184) -/

def Workgroup.padRead (w : Workgroup) (off n : Nat) : List Byte := mapGetList 0 w.pad off n
def Workgroup.padWrite (w : Workgroup) (off : Nat) (bs : List Byte) : Workgroup :=
  { w with pad := mapSetList 0 w.pad off bs,
           padBad := w.padBad.filter (fun u => !(off ≤ 8 * u && 8 * u + 8 ≤ off + bs.length)),
           padOld := w.padOld.filter (fun e => !(off < 4 * e.1 + 4 && 4 * e.1 < off + bs.length)) }

/-- A store of a group, or of an engine: what the words held before may still be what an engine reads (R218). -/
def Workgroup.padStore (w : Workgroup) (by_ : Option GKey) (off : Nat) (bs : List Byte) : Workgroup :=
  { w.padWrite off bs with
    padOld := (List.range ((off % 4 + bs.length + 3) / 4)).foldl (fun m i =>
      mapSet [] m (off / 4 + i) ({ val := .ofNat 32 (bytesNat (w.padRead (4 * (off / 4 + i)) 4)), by_ := by_, fences := [] } ::
        mapGet [] m (off / 4 + i))) w.padOld }

/-- What an engine may read of a scratchpad word: its value, and older ones back to the newest write that is engine-visible to
the command (R218). -/
def Workgroup.padChoices (w : Workgroup) (know : Know) (word : Nat) : List Word :=
  .ofNat 32 (bytesNat (w.padRead (4 * word) 4)) ::
    ((mapGet [] w.padOld word).takeWhile (fun o => !know.covers o.fences)).map (·.val)

def Workgroup.padPoison (w : Workgroup) (off n : Nat) : Bool :=
  (List.range ((off % 8 + n + 7) / 8)).any (fun i => w.padBad.contains (off / 8 + i))

def Workgroup.full (w : Workgroup) (word : Nat) : Bool := w.tags.contains word

def Workgroup.setTag (w : Workgroup) (word : Nat) (b : Bool) : Workgroup :=
  { w with tags := if b then insRising word w.tags else w.tags.filter (· ≠ word) }

/-- R168: ALIGN before bounds; none where the access is good. -/
def padCheck (size : Nat) (off : DWord) (n : Nat) : Option (Nat × DWord) :=
  if n ≠ 0 && off.toNat % n ≠ 0 then some (causeAlign, off)
  else if size < off.toNat + n then some (causeLease, off) else none

/-- What comes before a tagged instruction of the current group, at its issue (R204, R207): its reductions are performed, and its stores
have their places among the writes of their words. -/
def State.beforeTag (s : State) : State :=
  s.partners.foldl (fun s g => s.flushGroup g.key s.owner s.wg.core [] [] false (fun _ => true)) s.serveAllReds

/-- The sync point that a tagged step of the current group is (R206 to R208): it acquires what earlier steps on the word released; it
publishes at .wg and releases that and what stood before its instruction, however late it is performed. -/
def State.tagSync (s : State) (know : Know) (word : Nat) : State :=
  let took := mapGet [] s.wg.tagKnow word
  let s := s.acquire took
  let s := { s with hist := publishHist s.hist none (know.join took) { scope := 2, party := s.me } [] }.snapshot 2
  { s with wg := { s.wg with tagKnow := mapSet [] s.wg.tagKnow word (know.join took) } }

/-- One tagged step of one lane (R184): none while the tag is in the wrong state. A poisoned word makes a take or a peek a
fault of the instruction (R319), reported by the second component. -/
def State.tagStep (s : State) (know : Know) (op : TagOp) (off : Nat) (x : Word) : Option (State × Option Word × Bool) :=
  let w := off / 4
  let full := s.wg.full w
  let old : Word := .ofNat 32 (bytesNat (s.wg.padRead off 4))
  let t := s.tagSync know w
  let bad := s.wg.padPoison off 4
  match op with
  | .take => if !full then none else if bad then some (s, none, true) else some ({ t with wg := t.wg.setTag w false }, some old, false)
  | .peek => if !full then none else if bad then some (s, none, true) else some (t, some old, false)
  | .fill => if full then none else some ({ t with wg := (t.wg.padStore (some s.owner) off (natBytes x.toNat 4)).setTag w true }, none, false)
  | .force => some ({ t with wg := (t.wg.padStore (some s.owner) off (natBytes x.toNat 4)).setTag w true }, none, false)

/-- Sets the tags of n bytes from an offset (R187): a synchronising access for every word it sets. -/
def State.setTags (s : State) (know : Know) (off n : Nat) (full : Bool) : State :=
  (List.range (n / 4)).foldl (fun s i =>
    let s := s.tagSync know (off / 4 + i)
    { s with wg := s.wg.setTag (off / 4 + i) full }) s

/-! ### The distributed window (R172, R173, R189) -/

/-- The workgroup and offset that a window access names; none where it ends the launch (R172). Of a workgroup that has finished
only the kept step buffers can be read, and nothing written (R255). -/
def State.windowAt (s : State) (l : Launch) (a : DWord) (n : Nat) (wr : Bool) : Option (Nat × Nat) :=
  if 2 ^ 27 ≤ a.toNat then none else
  let core := a.toNat / 2 ^ 19
  let off := a.toNat % 2 ^ 19
  match l.windows.find? (fun w => w.core == core && w.base ≤ off && off < w.base + w.len) with
  | none => none
  | some w =>
    let keptBytes := !wr && (s.paceOf core l.uid).kept == some w.wg &&
      off - w.base + n ≤ (((s.findWg w.wg).getD .absent).kern.bufs.foldl (fun m b => m + roundUp (b.1 * b.2) 64) 0)
    -- an access of at most 16 aligned bytes lies in one allocation, whose length is a multiple of 64
    if 2 ^ 19 < w.base + w.len || w.base + w.len < off + n || (w.fin && !keptBytes) then none
    else some (w.wg, off - w.base)

/-- Reads another workgroup's scratchpad: the allocation, or the save area of a saved one (R173). -/
def State.wgPadRead (s : State) (u off n : Nat) : List Byte :=
  match s.findWg u with
  | none => List.replicate n 0
  | some w => match w.status with
    | .saved _ => s.bytes (w.padBase + off) n
    | _ => w.padRead off n

def State.wgPadWrite (s : State) (u off : Nat) (bs : List Byte) : State :=
  match s.findWg u with
  | none => s
  | some w => match w.status with
    | .saved _ => { s.cleanMem (w.padBase + off) bs.length with mem := Memory.put s.mem (w.padBase + off) bs }
    | _ => s.onWg u (fun w => w.padStore none off bs)

/-- The same for a store of the current group. -/
def State.wgPadStore (s : State) (u off : Nat) (bs : List Byte) : State :=
  match s.findWg u with
  | none => s
  | some w => match w.status with
    | .saved _ => s.wgPadWrite u off bs
    | _ => s.onWg u (fun w => w.padStore (some s.owner) off bs)

def State.wgPadPoison (s : State) (u off n : Nat) : Bool :=
  match s.findWg u with
  | none => false
  | some w => match w.status with
    | .saved _ => (List.range ((off % 8 + n + 7) / 8)).any (fun i => s.memBad.contains ((w.padBase + off) / 8 + i))
    | _ => w.padPoison off n

/-! ### Landing (R15, R26) -/

/-- A narrow, word or wide datum in the registers of a lane (R76) or in uniform registers (R78). -/
def extendBytes (w : Width) (bs : List Byte) (bits : Nat) : Nat :=
  let v := bytesNat bs
  if w.signed && 2 ^ (8 * w.bytes - 1) ≤ v then 2 ^ bits - 2 ^ (8 * w.bytes) + v else v

/-- The registers that a datum fills, one write each: of a lane, or uniform (R76, R78). -/
def Width.writes (w : Width) (lane : Option Nat) (r : Nat) (bs : List Byte) : List PendAct :=
  match lane with
  | some _ =>
    if w.bytes ≤ 4 then [.word r (.ofNat 32 (extendBytes w bs 32))]
    else (List.range (w.bytes / 4)).map (fun i => .word (r + i) (.ofNat 32 (bytesNat ((bs.drop (4 * i)).take 4))))
  | none =>
    if w.bytes ≤ 8 then [.uword r (.ofNat 64 (extendBytes w bs 64))]
    else [.uword r (.ofNat 64 (bytesNat (bs.take 8))), .uword (r + 1) (.ofNat 64 (bytesNat (bs.drop 8)))]

/-- One register write lands. In a protected launch a load is served once and delivered to both lanes of a pair (R202): what
reaches a visible lane reaches its shadow. -/
def State.putWrite (s : State) (lane : Option Nat) (a : PendAct) : State :=
  match a with
  | .word r x =>
    let j := lane.getD 0
    let g := s.cur.vset j r x
    s.setCur (if s.prot then g.vset (j + 1) r x else g)
  | .uword r x => s.setCur (s.cur.sset r x)
  | .pred c b => s.setCur (s.cur.cset c b)
  | _ => s

/-- Appends a loaded word to an operand queue of the shadow's group, and in a protected launch to the shadow lane's (R202,
R241). -/
def State.pushQueue (s : State) (lane q : Nat) (x : Word) : State :=
  let push := fun (g : Group) j => g.setQueue j q (g.queue j q ++ [x])
  s.onGroup { s.cur.key with shadow := false } (fun g => if s.prot then push (push g lane) (lane + 1) else push g lane)

/-- How an outstanding entry of the current group completes: done, done but for some register writes, not yet, with a fault, or
with the end of the launch. -/
inductive Landed where
  | done (s : State)
  | left (s : State) (acts : List PendAct)
  | notYet
  | fault (cause : Nat) (val : DWord) (s : State)
  | lease (val : DWord) (s : State)

/-- A result of several registers comes back: all of them are written, or, inside the window, some now and the others later, as
R26 gives each register its old or its new value. -/
def State.landWrites (s : State) (all : Bool) (lane : Option Nat) (ws : List PendAct) : Landed :=
  let n := s.freeVal.toNat
  let ix := (List.range ws.length).zip ws
  let later := if all || ws.length ≤ 1 then [] else (ix.filter (fun p => n.testBit p.1)).map (·.2)
  let now := if all || ws.length ≤ 1 then ws else (ix.filter (fun p => !n.testBit p.1)).map (·.2)
  let t := now.foldl (fun s a => s.putWrite lane a) (if all || ws.length ≤ 1 then s else s.tick)
  if later.isEmpty then .done t else .left t later

/-- FENCE.e (R199): the group's stores reach where the engines within the scope read. -/
def State.fenceEngines (s : State) (scope : Nat) : State :=
  let n := s.nextId
  let s := if scope ≤ 2 then s else
    let s := s.partners.foldl (fun s g => s.flushGroup g.key s.owner s.wg.core [] [] true (fun _ => true)) s.serveAll
    let s := s.writeBackCore s.wg.core (fun _ => true)
    { s with hist := s.hist.map (fun e => (e.1, { e.2 with vers := e.2.vers.map (fun v =>
        if v.owner == some s.owner then { v with syncs := n :: v.syncs } else v) })) }
  let me := s.owner
  let t := s.onWgs (fun w => { w with padOld := w.padOld.map (fun e => (e.1, e.2.map (fun o =>
    if o.by_ == none || o.by_ == some me then { o with fences := n :: o.fences } else o))) })
  { t with nextId := max t.nextId (n + 1), cur := { t.cur with known := t.cur.known.raise syncKey n } }

/-- Does an outstanding entry read memory or a scratchpad when it lands? -/
def PendAct.reads (a : PendAct) : Bool :=
  match a with
  | .load _ _ _ => true
  | .pad _ _ _ => true
  | .window _ _ _ => true
  | .push _ _ _ _ => true
  | _ => false

/-- Is what an entry of the current group has outstanding held up by a link that retrains (R334)? -/
def State.crosses (s : State) (a : PendAct) : Bool :=
  let die := dieOf s.wg.core
  match a with
  | .load pa _ _ => s.wayWaits die pa
  | .push true pa _ _ => s.wayWaits die pa
  | .window a w _ => s.links.any (·.2.retrain) &&
      (s.windowAt s.launch (.ofNat 64 a) w.bytes false).any (fun p => s.linkWaits die (dieOf ((s.findWg p.1).getD .absent).core))
  | .atom id => s.atomq.any (fun r => r.id == id && s.atomWaits r)
  | _ => false

/-- One outstanding entry of the current group is served (R26): what it reads is read now, and its result written. -/
def State.land (s : State) (all : Bool) (e : Pend) : Landed :=
  if s.crosses e.act then .notYet else
  -- a RED has no window: it comes before what the group reads (R204)
  let s := if e.act.reads then s.serveAllReds else s
  match e.act with
  | .load pa w r =>
    let (bs, s') := s.gread pa w.bytes
    if s'.gpoison pa w.bytes then .fault causePoison (.ofNat 64 pa) s'
    else s'.landWrites all e.lane (w.writes e.lane r bs)
  | .pad off w r =>
    if s.wg.padPoison off w.bytes then .fault causePoison (.ofNat 64 off) s
    else s.landWrites all e.lane (w.writes e.lane r (s.wg.padRead off w.bytes))
  | .window a w r =>
    match s.windowAt s.launch (.ofNat 64 a) w.bytes false with
    | none => .lease (.ofNat 64 a) s
    | some (u, off) =>
      if s.wgPadPoison u off w.bytes then .fault causePoison (.ofNat 64 a) s
      else s.landWrites all e.lane (w.writes e.lane r (s.wgPadRead u off w.bytes))
  | .push global a w q =>
    let j := e.lane.getD 0
    let mq := ((s.findGroup { s.cur.key with shadow := false }).getD .absent).queue j q
    if 8 ≤ mq.length then .notYet
    else if global then
      let (bs, s') := s.gread a w.bytes
      if s'.gpoison a w.bytes then .fault causePoison (.ofNat 64 a) s'
      else .done (s'.pushQueue j q (.ofNat 32 (extendBytes w bs 32)))
    else if s.wg.padPoison a w.bytes then .fault causePoison (.ofNat 64 a) s
    else .done (s.pushQueue j q (.ofNat 32 (extendBytes w (s.wg.padRead a w.bytes) 32)))
  | .xlate base t => .done (s.setCur (s.cur.tset t (s.xlate base)))
  | .tag op off x r =>
    match s.tagStep e.know op off x with
    | none => .notYet
    | some (s', v, bad) =>
      if bad then .fault causePoison (.ofNat 64 off) s'
      else match v with
        | some x => .done (s'.putWrite e.lane (.word r x))
        | none => .done s'
  | .tags off n full => .done (s.setTags e.know off n full)
  | .tagq off r =>
    let bits := (List.range 32).foldl (fun (m : Word) i => setBit m i (s.wg.full (off / 4 + i))) 0
    .done (((List.range 32).foldl (fun s i => s.tagSync e.know (off / 4 + i)) s).putWrite e.lane (.word r bits))
  | .atom id =>
    let t := s.serveAtom id
    -- the entry has become the register writes, or a fault
    if t.cur.pend.any (fun x => x.act == .atom id) then .notYet else .left t []
  | .fence scope => .done (s.fenceEngines scope)
  | .word r x => .done (s.putWrite e.lane (.word r x))
  | .uword r x => .done (s.putWrite e.lane (.uword r x))
  | .pred c b => .done (s.putWrite e.lane (.pred c b))
  | .fault _ _ => .notYet
  | .ended => .notYet

/-- Does an outstanding entry access bytes of global memory, of the scratchpad, or of a window (R210)? -/
def State.touchesMem (s : State) (e : Pend) (pa n : Nat) : Bool :=
  match e.act with
  | .load a w _ => meets a w.bytes pa n
  | .push true a w _ => meets a w.bytes pa n
  | .atom id => s.atomq.any (fun r => r.id == id && meets r.pa r.bytes pa n)
  | _ => false

def Pend.touchesPad (e : Pend) (off n : Nat) : Bool :=
  match e.act with
  | .pad o w _ => meets o w.bytes off n
  | .push false o w _ => meets o w.bytes off n
  | .tag _ o _ _ => meets o 4 off n
  | .tags o m _ => meets o m off n
  | .tagq o _ => meets o 128 off n
  | .window _ _ _ => true
  | _ => false

/-- Must the earlier entry f land before e: tagged steps of one word (R185), pushes into one queue (R241), accesses of
one location (R210), the fills before a FENCE.e (R199)? -/
def State.behind (s : State) (e f : Pend) : Bool :=
  match e.act with
  | .tag _ o _ _ => f.touchesPad o 4
  | .tags o n _ => f.touchesPad o n
  | .pad o w _ => f.touchesPad o w.bytes
  | .tagq o _ => f.touchesPad o 128
  | .load a w _ => s.touchesMem f a w.bytes
  | .atom id => (s.atomq.find? (fun r => r.id == id)).any (fun r => s.touchesMem f r.pa r.bytes)
  | .push global a w q =>
    (match f.act with | .push _ _ _ q' => q == q' && e.lane == f.lane | _ => false) ||
      (if global then s.touchesMem f a w.bytes else f.touchesPad a w.bytes)
  | .window a w _ =>
    (match f.act with | .window _ _ _ => true | _ => false) ||
      (match s.windowAt s.launch (.ofNat 64 a) w.bytes false with
       | some (u, off) => u == s.wg.uid && f.touchesPad off w.bytes
       | none => false)
  | .fence _ => (match f.act with | .tag .fill _ _ _ => true | .tag .force _ _ _ => true | .tags _ _ _ => true | _ => false)
  | _ => false

/-- Was f issued before e by a group that both belong to: the physical group of their issue, in the order of its instructions and of
their lanes, or, after a span move, the group that issued e and holds f now (R185, R186, R210)? -/
def Pend.after (e f : Pend) (together : Bool) : Bool :=
  (f.from_.num < e.from_.num || (f.from_.num == e.from_.num && f.from_.lane < e.from_.lane)) &&
    ((f.from_.owner == e.from_.owner && f.from_.point == e.from_.point) || (together && f.from_.point != e.from_.point))

/-- Does something issued before hold entry e of the current group back? -/
def State.heldBack (s : State) (e : Pend) : Bool :=
  s.allGroups.any (fun g => g.key.wg == s.cur.key.wg && g.key.shadow == s.cur.key.shadow &&
    g.pend.any (fun f => e.after f (g.key == s.cur.key) && s.behind e f))

/-- Serves entry number i of the current group, if nothing before it holds it back: it is done, wholly or but for some register
writes, stays in the list as the fault it raised, or ends the launch. -/
def State.landAt (s : State) (all : Bool) (i : Nat) : State :=
  match s.cur.pend[i]? with
  | none => s
  | some e =>
    if s.heldBack e then s else
    let put := fun (s : State) (acts : List PendAct) =>
      s.setCur { s.cur with pend := (s.cur.pend.map (fun x => if x == e then acts.map (fun a => { x with act := a }) else [x])).flatten }
    match s.land all e with
    | .done s' => put s' [.ended]
    | .left s' acts => if acts.isEmpty then s' else put s' acts
    | .notYet => s
    | .fault c v s' => put s' [.fault c v]
    | .lease v s' => s'.endLease v s'.cur.runFirst e.org

/-- Has the instruction of this number something outstanding, in whatever group a lane of it is now (R26, R186)? -/
def PendAct.isOpen (a : PendAct) : Bool :=
  match a with
  | .fault _ _ => false
  | .ended => false
  | _ => true

def State.running (s : State) (n : Nat) : Bool := s.allGroups.any (fun g => g.pend.any (fun e => e.from_.num == n && e.act.isOpen))

/-- What is done is dropped once its whole instruction is. -/
def State.tidy (s : State) : State :=
  s.setCur { s.cur with pend := s.cur.pend.filter (fun e => e.act != .ended ||
    s.allGroups.any (fun g => g.pend.any (fun f => f.from_.num == e.from_.num && f.act != .ended))) }

/-- Serves the entries from number i on, oldest first, n times: an entry that has left register writes behind gives them too. -/
def State.landFrom : Nat → Nat → State → State
  | 0, _, s => s
  | n + 1, i, s =>
    let s' := s.landAt true i
    -- an ATOM's entry is now its register writes
    let again := match s.cur.pend[i]?, s'.cur.pend[i]? with
      | some a, some b => b.act.isOpen && a != b
      | _, _ => false
    State.landFrom n (if again then i else i + 1) s'

/-- Steps enough to serve a list of entries: one each, and two more for an ATOM's register writes. -/
def landSteps (es : List Pend) : Nat := (es.map (fun e => match e.act with | .atom _ => 3 | _ => 1)).sum

/-- Everything outstanding of the current group lands, as far as it can (R15, R27). -/
def State.settle (s : State) : State := (State.landFrom (landSteps s.cur.pend) 0 s).tidy

/-- The entries up to the last one that f selects land, oldest first: landing early is always allowed (R26). -/
def State.settleTo (s : State) (f : Pend → Bool) : State :=
  if s.cur.pend.any f then
    (State.landFrom (landSteps (s.cur.pend.take (s.cur.pend.length - s.cur.pend.reverse.findIdx f))) 0 s).tidy
  else s

/-- Has the window of a thread that the group issues for next run out at this entry (R26)? The window of a lane is that of its own
thread, a uniform one's that of the group. -/
def Group.spent (g : Group) (e : Pend) : Bool :=
  e.rem == 0 && !e.kept && (match e.lane with | none => true | some j => g.act.getLsbD j)

/-- Does an outstanding entry bind what the group issues next: has a window of its instruction run out for a thread that issues next?
Such a thread waits for every lane of the instruction (R26, R186). -/
def Group.binds (g : Group) (e : Pend) : Bool :=
  !e.kept && e.act != .ended && g.pend.any (fun x => x.from_.num == e.from_.num && g.spent x)

/-- What the next instruction must wait for lands, also where a span move has taken a lane of it to another group (R26, R118). -/
def State.settleForced (s : State) : State :=
  let ns := (s.cur.pend.filter s.cur.spent).map (·.from_.num)
  let mine := fun (e : Pend) => ns.contains e.from_.num
  let s := s.settleTo mine
  (s.groups.filter (fun h => h.live && h.key.wg == s.cur.key.wg && h.pend.any (fun e => mine e && e.act.isOpen))).foldl
    (fun s h => s.asGroup h.key (fun s => s.settleTo mine)) s

/-- Does the group wait for an outstanding result beyond its window (R124, R186)? -/
def State.blocked (s : State) (g : Group) : Bool := g.pend.any (fun e => g.spent e && s.running e.from_.num)

/-- The oldest fault among the outstanding entries (R15: the earliest in program order). -/
def Group.firstFault (g : Group) : Option (Nat × DWord × DWord) :=
  g.pend.findSome? (fun e => match e.act with | .fault c v => if e.kept then none else some (c, v, e.org) | _ => none)

/-- A fault whose trapping point has come. -/
def Group.dueFault (g : Group) : Option (Nat × DWord × DWord) :=
  g.pend.findSome? (fun e => match e.act with | .fault c v => if g.binds e then some (c, v, e.org) else none | _ => none)

/-- The recorded faults of the group are dropped when the earliest of them is taken: R15 has it taken, and says of the others
nothing (DESIGN CHOICE, log entry 57). -/
def Group.clearFaults (g : Group) : Group :=
  { g with pend := g.pend.filter (fun e => match e.act with | .fault _ _ => e.kept | _ => true) }

/-- A fault of an outstanding instruction is taken at a trapping point (R15). -/
def State.takeFault (s : State) (f : Nat × DWord × DWord) (tpc : DWord) : State :=
  (s.setCur s.cur.clearFaults).takeTrap f.1 0 f.2.1 tpc f.2.2

/-- The word issues again when what these entries have outstanding is done; its group stays at the safe point that it has reached. -/
def State.holdFor (s : State) (nums : List Nat) : State := s.setCur { s.cur with wait := .again nums.eraseDups }

/-- The numbers of the instructions that have something outstanding among these entries. -/
def Group.openNums (g : Group) (f : Pend → Bool) : List Nat := (g.pend.filter (fun e => e.act.isOpen && f e)).map (·.from_.num)

/-- The instructions whose results a link holds up: a trap waits for them, as for every result that is on its way (R15, R334). -/
def State.late (s : State) : List Nat := s.cur.openNums (fun e => s.crosses e.act)

/-- A trap at a trapping point (R15): outstanding results land first; a fault of an outstanding instruction found then is
taken in its place, and the displaced trap leaves no record. -/
def State.raise (s : State) (cause code : Nat) (val tpc org : DWord) (displacedPc : DWord) : State :=
  let s := s.settle
  if !s.cur.live then s else
  if !s.late.isEmpty then s.holdFor s.late else
  match s.cur.firstFault with
  | some f => s.takeFault f displacedPc
  | none => s.takeTrap cause code val tpc org

end Sys2Proof.Machine
end

