-- ==== Sys2Proof/Machine/Flags.lean ====
section
/-!
DEFINITION. Machine/Flags.lean: the MOD fields (R33) and which of them an instruction accepts, and how a result's flags
reach GSTAT (R8, R92).
-/

namespace Sys2Proof.Machine

/-! ### MOD fields (R33), as masks of the payload -/

def mRM : Nat := 0xE00000
def mSAT : Nat := 0x100000
def mNS : Nat := 0x80000
def mSX : Nat := 0x40000
def mCP : Nat := 0x38000
def mSC : Nat := 0x7000
def mORD : Nat := 0xC00
def mADD : Nat := 0x3F8   -- AE and ADD
def mBU : Nat := 0x4
def mMN : Nat := 0x2

/-- The MOD payload of the run; 0 without one. -/
def Run.modBits (r : Run) : Nat := (r.mod.getD 0).toNat
def Run.rm (r : Run) : Nat := fld r.modBits 21 3
def Run.sat (r : Run) : Bool := fld r.modBits 20 1 == 1
def Run.ns (r : Run) : Bool := fld r.modBits 19 1 == 1
def Run.sx (r : Run) : Bool := fld r.modBits 18 1 == 1
def Run.cp (r : Run) : Nat := fld r.modBits 15 3
def Run.sc (r : Run) : Nat := fld r.modBits 12 3
def Run.ord (r : Run) : Nat := fld r.modBits 10 2
def Run.ae (r : Run) : Bool := fld r.modBits 9 1 == 1
def Run.add (r : Run) : Nat := fld r.modBits 3 6
def Run.bu (r : Run) : Bool := fld r.modBits 2 1 == 1
def Run.mn (r : Run) : Bool := fld r.modBits 1 1 == 1

/-- Check 1 of R30: a reserved RM, CP or SC value (R33). -/
def modPayloadBad (m : Nat) : Bool := 6 ≤ fld m 21 3 || 4 ≤ fld m 15 3 || fld m 12 3 == 7

/-- Check 3 of R30 for a MOD word: a non-zero field outside the accepted ones, or AE = 0 with ADD ≠ 0; bit 0 is
ignored. SX counts as accepted with SAT = 1 alone where the instruction accepts it so (R53). -/
def modPairBad (m accepted : Nat) (sxNeedsSat : Bool) : Bool :=
  (m - m % 2) &&& (0xFFFFFF - accepted) != 0 ||
  (fld m 9 1 == 0 && fld m 3 6 != 0) ||
  (sxNeedsSat && fld m 18 1 == 1 && fld m 20 1 == 0)

/-- The MOD word with a payload (R29). -/
def modWord (m : BitVec 24) : DWord := .ofNat 64 (0xF6000000 + m.toNat)

/-- The IMM word with a payload (R29). -/
def immWord (v : BitVec 24) : DWord := .ofNat 64 (0xF5000000 + v.toNat)

/-- A result's flags reach GSTAT (R92: a lane instruction sets a flag when any of its active threads does). -/
def flagsOf (fs : List DWord) : DWord := fs.foldl (· ||| ·) 0

/-- A scope field: 0 is the default of the instruction (R33). -/
def scopeOr (deflt sc : Nat) : Nat := if sc = 0 then deflt else sc

end Sys2Proof.Machine
end

