-- ==== Sys2Proof/Machine/Operands.lean ====
section
/-!
DEFINITION. Machine/Operands.lean: how a word is issued (R24, R30, R36, R39, R240, R251), how it completes (R14, R26, R28,
R31), and every operand form: lane and uniform registers, pairs and quads (R5, R6), the b operand under IMM and BU (R32,
R33, R52), the addend of a three-source word (R33), operand queues (R241).
-/

namespace Sys2Proof.Machine

/-! ### Issue -/

/-- How a word uses an IMM of its run (R32, R37). -/
inductive ImmUse where
  /-- marked "no IMM" -/
  | none
  /-- replaces b, whose field must be 0 -/
  | replaces (b : Nat)
  /-- widens imm9, adds a displacement, or has a use of its own -/
  | takes
  deriving DecidableEq, Repr

/-- What the issue of a word needs to know of it: its bits, whether its own fields are legal, its IMM use, its accepted
MOD fields, whether a group held after STEPEND may issue it (R251), and whether slice code may use it (R240). -/
structure Form where
  word    : Nat
  legal   : Bool
  imm     : ImmUse
  mods    : Nat
  sxSat   : Bool
  heldOk  : Bool
  sliceOk : Bool
  deriving DecidableEq, Repr

/-- R263: an engine word that takes no MOD field takes no MOD word at all. -/
def takesNoMod (w mods : Nat) : Bool := mods = 0 && 0x36 ≤ fld w 26 6 && fld w 26 6 ≤ 0x3C

/-- The offending word of the first of the checks of R30 that fails. -/
def Group.runCheck (g : Group) (f : Form) : Option DWord :=
  match g.run.bad with
  | some w => some (w.setWidth 64)
  | none =>
    if !f.legal then some (.ofNat 64 f.word) else
    let immBad := match g.run.imm, f.imm with
      | none, _ => none
      | some v, .none => some (immWord v)
      | some v, .replaces b => if b = 0 then none else some (immWord v)
      | some _, .takes => none

    match immBad with
    | some w => some w
    | none =>
      match g.run.mod with
      | none => none
      | some m => if takesNoMod f.word f.mods || modPairBad m.toNat f.mods f.sxSat then some (modWord m) else none

/-- One instruction of the window of every outstanding entry of these lanes, and of the uniform ones, has gone by (R26). -/
def Group.countWindow (g : Group) (act : Mask) : Group :=
  { g with pend := g.pend.map (fun e =>
      if !e.kept && (match e.lane with | none => true | some j => act.getLsbD j) then { e with rem := e.rem - 1 } else e) }

/-- A completed instruction: the next pc, the run consumed, the SCHED fields moved on (R31), the windows counted, and the
safe point it is (R28: none in supervisor mode, R54). -/
def Group.complete (g : Group) (act : Mask) (sp : Bool) (pc : DWord) : Group :=
  { g.countWindow act with
    pc := pc, liveAt := g.pc + 4, run := .none, wait := .none, sched := g.sched.drop 1,
    gaveWay := (g.sched.headD (0, false)).2, safe := sp && !g.sup }

/-- The waits of R265: a waiting word with SP = 1 counts as a safe point while it waits. -/
def Wait.isSafePoint (w : Wait) : Bool :=
  match w with
  | .counter _ _ _ _ => true
  | .joint _ => true
  | .step _ _ => true
  | .receive _ => true
  | .send _ _ => true
  | .copySlot => true
  | .frame _ => true
  | .posted _ => true
  | .matrix _ _ _ => true
  | _ => false

/-- A word that has not issued leaves its group at the safe point before it (R28): it is held (R251), or stalls. -/
def Wait.unissued (w : Wait) (held : Bool) : Bool := w.stalls || (held && (match w with | .step _ _ => true | _ => false))

/-- Commits what an instruction did (R14 to R16, R24). s is the state at its issue: a trap discards every effect. -/
def commit (s : State) (sp : Bool) (e : Eff) : State :=
  let g := s.cur
  match e with
  | .next t =>
    if !t.cur.live then t
    else if canonical (g.pc + 4) then t.setCur (t.cur.complete g.act sp (g.pc + 4))
    else s.raise causePcWrap 0 (g.pc + 4) g.runFirst g.runFirst g.runFirst
  | .jump target register t =>
    if !canonical target then s.raise causePcWrap 0 target g.runFirst g.runFirst g.runFirst
    else if register && target.toNat % 4 ≠ 0 then s.raise causeAlign 0 target g.runFirst g.runFirst g.runFirst
    else t.setCur (t.cur.complete g.act sp target)
  | .trap cause code val t => t.raise cause code val g.runFirst g.runFirst g.runFirst
  | .lease v t => t.endLease v g.runFirst g.runFirst
  | .wait w t => t.setCur { t.cur with
      wait := w, waitSp := sp, safe := (sp && w.isSafePoint || w.unissued t.cur.held && t.cur.safe) && !t.cur.sup }
  | .settled t => t

/-- Does a word issue an instruction that its guard lets act (R22, R24, R25, R181)? A lane word acts where a lane's guard is
true, every other word by its uniform guard; a lane BRA and CONV always act. -/
def Group.acts (g : Group) (w : Nat) : Bool :=
  let m := fld w 26 6
  let ctl : Ctl := { sp := false, n := fld w 24 1 == 1, pi := .ofNat 3 (fld w 21 3) }
  let lane := (8 ≤ m && m < 0x18) || (0x20 ≤ m && m < 0x2B) || m == 0x2C || m == 0x2D || (0x30 ≤ m && m < 0x35)
  if m = 2 || m = 5 then true
  else if (lane && !(m == 0x16 && fld w 8 1 == 1)) || (m == 0x35 && fld w 0 2 ≠ 0) then !(g.on ctl).isEmpty
  else g.guard ctl

/-- The words that a PHASE, FENCE or FENCE.e not yet complete holds back, whatever its lookahead (R200): those that touch
memory, a tag, the window or an engine. -/
def fenced (w : Nat) : Bool :=
  (0x2C ≤ fld w 26 6 && fld w 26 6 < 0x35) || (0x35 ≤ fld w 26 6 && fld w 26 6 < 0x3D && !(fld w 26 6 == 0x35 && fld w 0 2 == 0 && fld w 11 6 == 0))

def PendAct.isFence (a : PendAct) : Bool := match a with | .fence _ => true | _ => false

/-- The words that wait wherever they stand: WAITGE, MWAIT, CHSEND, CHRECV and LDSTEP (R265), by their encodings (R262). -/
def waitingWord (w : Nat) : Bool :=
  (fld w 26 6 == 0x36 && (fld w 14 7 == 1 || fld w 14 7 == 2)) || (fld w 26 6 == 0x39 && fld w 14 7 == 4) ||
    (fld w 26 6 == 0x3A && (fld w 14 7 == 0 || fld w 14 3 == 1)) || (fld w 26 6 == 0x3B && fld w 14 3 == 2)

/-- The issue of a non-hint word by the current group: the checks of R30; then, where its guard lets it act (R24), what slice
code may not use (R240), the hold of R251 and the fences of R200; then the body, which sees to its guard. -/
def issue (f : Form) (sp : Bool) (s : State) (body : State → Eff) : Out :=
  if !s.cur.live then .fault .noGroup else
  match s.cur.runCheck f with
  | some w => .next (s.raise causeIllegal 0 w s.cur.runFirst s.cur.runFirst s.cur.runFirst)
  | none =>
    if !s.cur.acts f.word then .next (commit s sp (body s))
    else if s.cur.key.shadow && !f.sliceOk then
      .next (s.raise causeIllegal 0 (.ofNat 64 f.word) s.cur.runFirst s.cur.runFirst s.cur.runFirst)
    else if s.cur.held && !s.cur.sup && !f.heldOk then
      -- of the words that R251 holds only those of R265 count as safe points while they wait
      .next (commit s (sp && waitingWord f.word) (.wait (.step s.wg.core (s.core.pace s.launch.uid).step) s))
    else if fenced f.word && s.cur.pend.any (fun e => e.act.isFence) then
      let t := s.settleTo (fun e => e.act.isFence)
      if t.cur.live && t.cur.pend.any (fun e => e.act.isFence) then .next (t.holdFor (t.cur.openNums (fun e => e.act.isFence)))
      else if t.cur.live then .next (commit t sp (body t)) else .next t
    else .next (commit s sp (body s))

/-- A word that is about to wait with its completion still to come: where the next PC is not canonical it traps instead, as a
word that completes does (R14). -/
def onward (s : State) (e : Eff) : Eff :=
  if canonical (s.cur.pc + 4) then e else .trap causePcWrap 0 (s.cur.pc + 4) s

/-- A uniform or X word: the body runs under the uniform guard (R24). -/
def underGuard (c : Ctl) (body : State → Eff) (s : State) : Eff :=
  if s.cur.guard c then body s else .next s

/-! ### Register checks (R5, R6, R239, R241, R318) -/

/-- A vector register operand: its number and how many registers it spans. -/
abbrev VReg := Nat × Nat

/-- The kernel has an access slice, so that source fields 56 to 63 name the operand queues (R241). -/
def State.slice (s : State) : Bool := s.wg.kern.slice.isSome

/-- Does a source operand name a queue? -/
def State.isQueue (s : State) (r : VReg) : Bool := s.slice && 56 ≤ r.1 && r.2 == 1

/-- Queue q of lane j: the group's, which its shadow names too. R241 gives the pop to the group alone; the model lets a word of
slice code that names a queue as a source pop it as well (DESIGN CHOICE, log entry 68). -/
def State.entries (s : State) (j q : Nat) : List Word :=
  if s.cur.key.shadow then ((s.findGroup { s.cur.key with shadow := false }).map (fun g => g.queue j q)).getD []
  else s.cur.queue j q

/-- The registers a group may name: its count, or 16 in a shadow (R6, R239). -/
def State.regLimit (s : State) : Nat := if s.cur.key.shadow then 16 else s.cur.count

/-- A register operand breaks R5 or R6. -/
def State.regBad (s : State) (r : VReg) : Bool := r.1 % r.2 != 0 || s.regLimit < r.1 + r.2

/-- The number that TRAPVAL holds for the first operand that breaks R5, R6 or R241: where several do, the rules do not say
which, and the model takes destinations before sources (DESIGN CHOICE, log entry 58). -/
def State.regFault (s : State) (dsts srcs : List VReg) : Option Nat :=
  ((dsts.find? s.regBad).orElse (fun _ => srcs.find? (fun r => !s.isQueue r && s.regBad r))).map (·.1)

/-- A source register whose unit is uncorrectable in a lane that reads it (R319). -/
def State.poisonReg (s : State) (on : List Nat) (srcs : List VReg) : Option Nat :=
  (srcs.filter (fun r => !s.isQueue r)).findSome? (fun r =>
    (List.range r.2).findSome? (fun i => if on.any (fun j => (s.cur.lane j).bad.contains (r.1 + i)) then some (r.1 + i) else none))

/-- The queues that the sources name, each once (R241). -/
def State.queuesOf (s : State) (srcs : List VReg) : List Nat :=
  ((srcs.filter s.isQueue).map (fun r => r.1 - 56)).eraseDups

/-- Pops one entry of each queue in each lane. -/
def Group.popQueues (g : Group) (on qs : List Nat) : Group :=
  qs.foldl (fun g q => on.foldl (fun g j => g.setQueue j q (g.queue j q).tail) g) g

def State.popQueues (s : State) (on qs : List Nat) : State :=
  if s.cur.key.shadow then s.onGroup { s.cur.key with shadow := false } (fun g => g.popQueues on qs)
  else s.setCur (s.cur.popQueues on qs)

/-- A source word of lane j: a register, or the oldest entry of a queue. A lane that does not act pops nothing; where another lane
reads it all the same, as BXCH and LGET may, it gives its oldest entry, or 0 where it has none (DESIGN CHOICE, log entry 69). -/
def State.src (s : State) (j r : Nat) : Word :=
  if s.isQueue (r, 1) then (s.entries j (r - 56)).headD 0 else s.cur.vget j r

def State.src64 (s : State) (j r : Nat) : DWord := s.cur.vget64 j r

/-- What stands before the body of a lane instruction (R5, R6, R24, R52, R241): where no lane has Act(t) nothing happens;
otherwise the register checks and the queues, then the body. It reads through s and writes into the state it is given, in
which the queues have been popped. -/
def laneStart (on : List Nat) (dsts srcs : List VReg) (body : State → State → Eff) (s : State) : Eff :=
  if on.isEmpty then .next s else
  match s.regFault dsts srcs with
  | some r => .trap causeIllegal 0 (.ofNat 64 r) s
  | none =>
    let qs := s.queuesOf srcs
    match qs.find? (fun q => on.any (fun j => (s.entries j q).isEmpty)) with
    | some q => .wait (.queue q (maskOf on)) s
    | none => body s (if qs.isEmpty then s else s.popQueues on qs)

/-- Does an effect stop the instruction with a lower cause code than this one (R19)? -/
def Eff.before (e : Eff) (cause : Nat) : Bool :=
  match e with
  | .trap c _ _ _ => c < cause
  | .lease _ _ => causeLease < cause
  | _ => false

/-- A poisoned source traps at the instruction (R319), unless a fault of it with a lower code arises there too (R19). -/
def poisonFirst (s : State) (bad : Option Nat) (e : Eff) : Eff :=
  match bad with
  | some r => if e.before causePoison then e else .trap causePoison 0 (.ofNat 64 r) s
  | none => e

/-- A lane instruction whose faults are precise: its poisoned sources, then its body. -/
def laneBody (on : List Nat) (dsts srcs : List VReg) (body : State → State → Eff) (s : State) : Eff :=
  laneStart on dsts srcs (fun s t => poisonFirst s (s.poisonReg on srcs) (body s t)) s

/-! ### The b operand and the addend (R32, R33, R52) -/

/-- The IMM value of the run, as an integer. -/
def Run.immInt (r : Run) : Option Int := r.imm.map (·.toInt)

/-- Is b read from a vector register? -/
def State.bFromReg (s : State) : Bool := s.cur.run.imm.isNone && !s.cur.run.bu

/-- The vector register that b names, if any; in slice code a uniform register past s15 is refused as a pair past v15 is (R240). -/
def State.bSrc (s : State) (b n : Nat) : List VReg :=
  if s.bFromReg then [(b, n)]
  else if s.cur.key.shadow && s.cur.run.imm.isNone && 16 ≤ b then [(b, 2)] else []

/-- B(t) of a 32-bit lane form, of a form on pairs, and of a uniform form. -/
def State.bLane (s : State) (j b : Nat) : Word :=
  match s.cur.run.immInt with
  | some v => .ofInt 32 v
  | none => if s.cur.run.bu then (s.cur.sget b).setWidth 32 else s.src j b

def State.bPair (s : State) (j b : Nat) : DWord :=
  match s.cur.run.immInt with
  | some v => .ofInt 64 v
  | none => if s.cur.run.bu then s.cur.sget b else s.src64 j b

def State.bUni (s : State) (b : Nat) : DWord :=
  match s.cur.run.immInt with
  | some v => .ofInt 64 v
  | none => s.cur.sget b

/-- The register of the addend or base operand: ADD under AE, else the destination (R33). -/
def State.zReg (s : State) (d : Nat) : Nat := if s.cur.run.ae then s.cur.run.add else d

/-- imm9, widened by IMM to 33 bits (R32). -/
def State.imm9 (s : State) (i : BitVec 9) : Int :=
  match s.cur.run.imm with
  | none => i.toInt
  | some v => (v ++ i).toInt

/-- Scalar register names of slice code stop at s15 (R239, R240). -/
def State.sBad (s : State) (rs : List Nat) : Option Nat := if s.cur.key.shadow then rs.find? (16 ≤ ·) else none
def uniBody (rs : List Nat) (body : State → Eff) (s : State) : Eff :=
  match s.sBad rs with
  | some r => .trap causeIllegal 0 (.ofNat 64 r) s
  | none => body s

/-! ### Shapes of instructions -/

/-- Writes a 32-bit result, or a pair, into d of every lane that acts (R52). -/
def Group.putLanes (g : Group) (on : List Nat) (d : Nat) (f : Nat → Word) : Group :=
  on.foldl (fun g j => g.vset j d (f j)) g

def Group.putPairs (g : Group) (on : List Nat) (d : Nat) (f : Nat → DWord) : Group :=
  on.foldl (fun g j => g.vset64 j d (f j)) g

def Group.putPreds (g : Group) (on : List Nat) (d : Nat) (f : Nat → Bool) : Group :=
  on.foldl (fun g j => g.pset j d (f j)) g

/-- d := f a, d := f a b and d := f a b z on 32-bit lanes. -/
def lane1 (c : Ctl) (d a : Nat) (f : Word → Word) (s : State) : Eff :=
  laneBody (s.cur.on c) [(d, 1)] [(a, 1)]
    (fun s t => .next (t.setCur (t.cur.putLanes (s.cur.on c) d (fun j => f (s.src j a))))) s

def lane2 (c : Ctl) (d a b : Nat) (f : Word → Word → Word) (s : State) : Eff :=
  laneBody (s.cur.on c) [(d, 1)] ((a, 1) :: s.bSrc b 1)
    (fun s t => .next (t.setCur (t.cur.putLanes (s.cur.on c) d (fun j => f (s.src j a) (s.bLane j b))))) s

def lane3 (c : Ctl) (d a b : Nat) (f : Word → Word → Word → Word) (s : State) : Eff :=
  laneBody (s.cur.on c) [(d, 1)] ((a, 1) :: (s.bSrc b 1 ++ [(s.zReg d, 1)]))
    (fun s t => .next (t.setCur (t.cur.putLanes (s.cur.on c) d
      (fun j => f (s.src j a) (s.bLane j b) (s.src j (s.zReg d)))))) s

/-- The same on pairs. -/
def pair1 (c : Ctl) (d a : Nat) (f : DWord → DWord) (s : State) : Eff :=
  laneBody (s.cur.on c) [(d, 2)] [(a, 2)]
    (fun s t => .next (t.setCur (t.cur.putPairs (s.cur.on c) d (fun j => f (s.src64 j a))))) s

def pair2 (c : Ctl) (d a b : Nat) (f : DWord → DWord → DWord) (s : State) : Eff :=
  laneBody (s.cur.on c) [(d, 2)] ((a, 2) :: s.bSrc b 2)
    (fun s t => .next (t.setCur (t.cur.putPairs (s.cur.on c) d (fun j => f (s.src64 j a) (s.bPair j b))))) s

def pair3 (c : Ctl) (d a b : Nat) (f : DWord → DWord → DWord → DWord) (s : State) : Eff :=
  laneBody (s.cur.on c) [(d, 2)] ((a, 2) :: (s.bSrc b 2 ++ [(s.zReg d, 2)]))
    (fun s t => .next (t.setCur (t.cur.putPairs (s.cur.on c) d
      (fun j => f (s.src64 j a) (s.bPair j b) (s.src64 j (s.zReg d)))))) s

/-- The same on uniform registers. -/
def uni1 (c : Ctl) (d a : Nat) (f : DWord → DWord) (s : State) : Eff :=
  underGuard c (uniBody [d, a] (fun s => .next (s.setCur (s.cur.sset d (f (s.cur.sget a)))))) s

def uni2 (c : Ctl) (d a b : Nat) (f : DWord → DWord → DWord) (s : State) : Eff :=
  underGuard c (uniBody (d :: a :: (if s.cur.run.imm.isNone then [b] else []))
    (fun s => .next (s.setCur (s.cur.sset d (f (s.cur.sget a) (s.bUni b)))))) s

def uni3 (c : Ctl) (d a b : Nat) (f : DWord → DWord → DWord → DWord) (s : State) : Eff :=
  underGuard c (uniBody (d :: a :: s.zReg d :: (if s.cur.run.imm.isNone then [b] else []))
    (fun s => .next (s.setCur (s.cur.sset d (f (s.cur.sget a) (s.bUni b) (s.cur.sget (s.zReg d))))))) s

/-- Writes a result with its flags: the flags of every lane that acts reach GSTAT (R92). -/
def flagged1 (c : Ctl) (d a : Nat) (f : Word → Word × DWord) (s : State) : Eff :=
  laneBody (s.cur.on c) [(d, 1)] [(a, 1)] (fun s t =>
    let r := fun j => f (s.src j a)
    .next (t.setCur ((t.cur.putLanes (s.cur.on c) d (fun j => (r j).1)).flag
      (flagsOf ((s.cur.on c).map (fun j => (r j).2)))))) s

def flagged2 (c : Ctl) (d a b : Nat) (f : Word → Word → Word × DWord) (s : State) : Eff :=
  laneBody (s.cur.on c) [(d, 1)] ((a, 1) :: s.bSrc b 1) (fun s t =>
    let r := fun j => f (s.src j a) (s.bLane j b)
    .next (t.setCur ((t.cur.putLanes (s.cur.on c) d (fun j => (r j).1)).flag
      (flagsOf ((s.cur.on c).map (fun j => (r j).2)))))) s

def flagged3 (c : Ctl) (d a b : Nat) (f : Word → Word → Word → Word × DWord) (s : State) : Eff :=
  laneBody (s.cur.on c) [(d, 1)] ((a, 1) :: (s.bSrc b 1 ++ [(s.zReg d, 1)])) (fun s t =>
    let r := fun j => f (s.src j a) (s.bLane j b) (s.src j (s.zReg d))
    .next (t.setCur ((t.cur.putLanes (s.cur.on c) d (fun j => (r j).1)).flag
      (flagsOf ((s.cur.on c).map (fun j => (r j).2)))))) s

def flaggedP1 (c : Ctl) (d a : Nat) (f : DWord → DWord × DWord) (s : State) : Eff :=
  laneBody (s.cur.on c) [(d, 2)] [(a, 2)] (fun s t =>
    let r := fun j => f (s.src64 j a)
    .next (t.setCur ((t.cur.putPairs (s.cur.on c) d (fun j => (r j).1)).flag
      (flagsOf ((s.cur.on c).map (fun j => (r j).2)))))) s

def flaggedP2 (c : Ctl) (d a b : Nat) (f : DWord → DWord → DWord × DWord) (s : State) : Eff :=
  laneBody (s.cur.on c) [(d, 2)] ((a, 2) :: s.bSrc b 2) (fun s t =>
    let r := fun j => f (s.src64 j a) (s.bPair j b)
    .next (t.setCur ((t.cur.putPairs (s.cur.on c) d (fun j => (r j).1)).flag
      (flagsOf ((s.cur.on c).map (fun j => (r j).2)))))) s

def flaggedP3 (c : Ctl) (d a b : Nat) (f : DWord → DWord → DWord → DWord × DWord) (s : State) : Eff :=
  laneBody (s.cur.on c) [(d, 2)] ((a, 2) :: (s.bSrc b 2 ++ [(s.zReg d, 2)])) (fun s t =>
    let r := fun j => f (s.src64 j a) (s.bPair j b) (s.src64 j (s.zReg d))
    .next (t.setCur ((t.cur.putPairs (s.cur.on c) d (fun j => (r j).1)).flag
      (flagsOf ((s.cur.on c).map (fun j => (r j).2)))))) s

/-! ### Forms -/

/-- The word of an instruction as a form needs it. -/
def wordOf (i : Instr) : Nat := (encode i).getD 0

/-- A lane R word whose b takes IMM and BU (R53, R130). -/
def laneForm (i : Instr) (b : Nat) (mods : Nat) (slice : Bool) : Form :=
  { word := wordOf i, legal := wellFormed i, imm := .replaces b, mods := mods, sxSat := false, heldOk := true,
    sliceOk := slice }

/-- A lane word marked "no IMM". -/
def laneNoImm (i : Instr) (mods : Nat) (slice : Bool) : Form :=
  { word := wordOf i, legal := wellFormed i, imm := .none, mods := mods, sxSat := false, heldOk := true, sliceOk := slice }

/-- A word whose IMM widens imm9 or is a displacement. -/
def takesForm (i : Instr) (mods : Nat) (held slice : Bool) : Form :=
  { word := wordOf i, legal := wellFormed i, imm := .takes, mods := mods, sxSat := false, heldOk := held, sliceOk := slice }

/-- A word with neither IMM nor MOD. -/
def bareForm (i : Instr) (held slice : Bool) : Form :=
  { word := wordOf i, legal := wellFormed i, imm := .none, mods := 0, sxSat := false, heldOk := held, sliceOk := slice }

end Sys2Proof.Machine
end

