-- ==== Sys2Proof/Machine/Arith.lean ====
section
/-!
DEFINITION. Machine/Arith.lean: integer and address arithmetic (R55 to R58), one meaning for every word.
-/

namespace Sys2Proof.Machine

/-- An operand as an exact integer: signed only under SAT with SX (R56). -/
def exactOf {w : Nat} (r : Run) (x : BitVec w) : Int := if r.sat && r.sx then x.toInt else x.toNat

/-- The result of an exact integer: reduced modulo 2^w, or clamped to the type's range under SAT (R56). -/
def narrow (w : Nat) (sat signed : Bool) (e : Int) : BitVec w :=
  .ofInt w (if sat then
    (if signed then clampInt (-(2 ^ (w - 1))) (2 ^ (w - 1) - 1) e else clampInt 0 (2 ^ w - 1) e) else e)

def addOp {w : Nat} (r : Run) (x y : BitVec w) : BitVec w := narrow w r.sat r.sx (exactOf r x + exactOf r y)
def subOp {w : Nat} (r : Run) (x y : BitVec w) : BitVec w := narrow w r.sat r.sx (exactOf r x - exactOf r y)
def mulOp {w : Nat} (r : Run) (x y : BitVec w) : BitVec w := narrow w r.sat r.sx (exactOf r x * exactOf r y)
def madOp {w : Nat} (r : Run) (x y z : BitVec w) : BitVec w :=
  narrow w r.sat r.sx (exactOf r x * exactOf r y + exactOf r z)

/-- The high w bits of the signed or unsigned product (R56). -/
def mulhS {w : Nat} (x y : BitVec w) : BitVec w := .ofInt w (x.toInt * y.toInt / 2 ^ w)
def mulhN {w : Nat} (x y : BitVec w) : BitVec w := .ofNat w (x.toNat * y.toNat / 2 ^ w)
def minS {w : Nat} (x y : BitVec w) : BitVec w := if y.toInt < x.toInt then y else x
def minN {w : Nat} (x y : BitVec w) : BitVec w := if y.toNat < x.toNat then y else x
def maxS {w : Nat} (x y : BitVec w) : BitVec w := if x.toInt < y.toInt then y else x
def maxN {w : Nat} (x y : BitVec w) : BitVec w := if x.toNat < y.toNat then y else x

/-- IDIV and IREM with their edges (R57). -/
def divS {w : Nat} (r : Run) (x y : BitVec w) : BitVec w :=
  if y = 0 then .ofInt w (-(2 ^ (w - 1))) else narrow w r.sat true (x.toInt.tdiv y.toInt)

def divN {w : Nat} (x y : BitVec w) : BitVec w := if y = 0 then .ofInt w (-1) else .ofNat w (x.toNat / y.toNat)
def remS {w : Nat} (x y : BitVec w) : BitVec w := if y = 0 then x else .ofInt w (x.toInt.tmod y.toInt)
def remN {w : Nat} (x y : BitVec w) : BitVec w := if y = 0 then x else .ofNat w (x.toNat % y.toNat)
def absOp {w : Nat} (r : Run) (x : BitVec w) : BitVec w := narrow w r.sat true x.toInt.natAbs
def negOp {w : Nat} (r : Run) (x : BitVec w) : BitVec w := narrow w r.sat true (-x.toInt)

/-- LEA (R58): both forms wrap. -/
def leaOp {w : Nat} (k : Nat) (x y : BitVec w) : BitVec w := x + (y <<< k)

/-- The form of the saturating lane words (R53: SX only with SAT). -/
def satForm (f : Form) : Form := { f with sxSat := true }

/-- IADD (R56). -/
def execIadd (ctl : Ctl) (d a b : BitVec 6) (s : State) : Out :=
  issue (satForm (laneForm (.iadd ctl d a b) b.toNat (mSAT + mSX + mBU) true)) ctl.sp s
    (lane2 ctl d.toNat a.toNat b.toNat (addOp s.cur.run))

/-- ISUB (R56). -/
def execIsub (ctl : Ctl) (d a b : BitVec 6) (s : State) : Out :=
  issue (satForm (laneForm (.isub ctl d a b) b.toNat (mSAT + mSX + mBU) true)) ctl.sp s
    (lane2 ctl d.toNat a.toNat b.toNat (subOp s.cur.run))

/-- IMUL (R56). -/
def execImul (ctl : Ctl) (d a b : BitVec 6) (s : State) : Out :=
  issue (satForm (laneForm (.imul ctl d a b) b.toNat (mSAT + mSX + mBU) true)) ctl.sp s
    (lane2 ctl d.toNat a.toNat b.toNat (mulOp s.cur.run))

/-- IMULH_S (R56). -/
def execImulhS (ctl : Ctl) (d a b : BitVec 6) (s : State) : Out :=
  issue (laneForm (.imulhS ctl d a b) b.toNat (mBU) true) ctl.sp s
    (lane2 ctl d.toNat a.toNat b.toNat (mulhS))

/-- IMULH_N (R56). -/
def execImulhN (ctl : Ctl) (d a b : BitVec 6) (s : State) : Out :=
  issue (laneForm (.imulhN ctl d a b) b.toNat (mBU) true) ctl.sp s
    (lane2 ctl d.toNat a.toNat b.toNat (mulhN))

/-- IMAD (R56). -/
def execImad (ctl : Ctl) (d a b : BitVec 6) (s : State) : Out :=
  issue (satForm (laneForm (.imad ctl d a b) b.toNat (mSAT + mSX + mADD + mBU) true)) ctl.sp s
    (lane3 ctl d.toNat a.toNat b.toNat (madOp s.cur.run))

/-- IMIN_S (R56). -/
def execIminS (ctl : Ctl) (d a b : BitVec 6) (s : State) : Out :=
  issue (laneForm (.iminS ctl d a b) b.toNat (mBU) true) ctl.sp s
    (lane2 ctl d.toNat a.toNat b.toNat (minS))

/-- IMIN_N (R56). -/
def execIminN (ctl : Ctl) (d a b : BitVec 6) (s : State) : Out :=
  issue (laneForm (.iminN ctl d a b) b.toNat (mBU) true) ctl.sp s
    (lane2 ctl d.toNat a.toNat b.toNat (minN))

/-- IMAX_S (R56). -/
def execImaxS (ctl : Ctl) (d a b : BitVec 6) (s : State) : Out :=
  issue (laneForm (.imaxS ctl d a b) b.toNat (mBU) true) ctl.sp s
    (lane2 ctl d.toNat a.toNat b.toNat (maxS))

/-- IMAX_N (R56). -/
def execImaxN (ctl : Ctl) (d a b : BitVec 6) (s : State) : Out :=
  issue (laneForm (.imaxN ctl d a b) b.toNat (mBU) true) ctl.sp s
    (lane2 ctl d.toNat a.toNat b.toNat (maxN))

/-- IDIV_S (R57). -/
def execIdivS (ctl : Ctl) (d a b : BitVec 6) (s : State) : Out :=
  issue (laneForm (.idivS ctl d a b) b.toNat (mSAT + mBU) true) ctl.sp s
    (lane2 ctl d.toNat a.toNat b.toNat (divS s.cur.run))

/-- IDIV_N (R57). -/
def execIdivN (ctl : Ctl) (d a b : BitVec 6) (s : State) : Out :=
  issue (laneForm (.idivN ctl d a b) b.toNat (mSAT + mBU) true) ctl.sp s
    (lane2 ctl d.toNat a.toNat b.toNat (divN))

/-- IREM_S (R57). -/
def execIremS (ctl : Ctl) (d a b : BitVec 6) (s : State) : Out :=
  issue (laneForm (.iremS ctl d a b) b.toNat (mBU) true) ctl.sp s
    (lane2 ctl d.toNat a.toNat b.toNat (remS))

/-- IREM_N (R57). -/
def execIremN (ctl : Ctl) (d a b : BitVec 6) (s : State) : Out :=
  issue (laneForm (.iremN ctl d a b) b.toNat (mBU) true) ctl.sp s
    (lane2 ctl d.toNat a.toNat b.toNat (remN))

/-- IABS (R56). -/
def execIabs (ctl : Ctl) (d a : BitVec 6) (s : State) : Out :=
  issue (laneNoImm (.iabs ctl d a) (mSAT) true) ctl.sp s
    (lane1 ctl d.toNat a.toNat (absOp s.cur.run))

/-- INEG (R56). -/
def execIneg (ctl : Ctl) (d a : BitVec 6) (s : State) : Out :=
  issue (laneNoImm (.ineg ctl d a) (mSAT) true) ctl.sp s
    (lane1 ctl d.toNat a.toNat (negOp s.cur.run))

/-- IADD_PAIR (R56). -/
def execIaddPair (ctl : Ctl) (d a b : BitVec 6) (s : State) : Out :=
  issue (satForm (laneForm (.iaddPair ctl d a b) b.toNat (mSAT + mSX + mBU) true)) ctl.sp s
    (pair2 ctl d.toNat a.toNat b.toNat (addOp s.cur.run))

/-- ISUB_PAIR (R56). -/
def execIsubPair (ctl : Ctl) (d a b : BitVec 6) (s : State) : Out :=
  issue (satForm (laneForm (.isubPair ctl d a b) b.toNat (mSAT + mSX + mBU) true)) ctl.sp s
    (pair2 ctl d.toNat a.toNat b.toNat (subOp s.cur.run))

/-- IMUL_PAIR (R56). -/
def execImulPair (ctl : Ctl) (d a b : BitVec 6) (s : State) : Out :=
  issue (satForm (laneForm (.imulPair ctl d a b) b.toNat (mSAT + mSX + mBU) true)) ctl.sp s
    (pair2 ctl d.toNat a.toNat b.toNat (mulOp s.cur.run))

/-- IMULH_S_PAIR (R56). -/
def execImulhSPair (ctl : Ctl) (d a b : BitVec 6) (s : State) : Out :=
  issue (laneForm (.imulhSPair ctl d a b) b.toNat (mBU) true) ctl.sp s
    (pair2 ctl d.toNat a.toNat b.toNat (mulhS))

/-- IMULH_N_PAIR (R56). -/
def execImulhNPair (ctl : Ctl) (d a b : BitVec 6) (s : State) : Out :=
  issue (laneForm (.imulhNPair ctl d a b) b.toNat (mBU) true) ctl.sp s
    (pair2 ctl d.toNat a.toNat b.toNat (mulhN))

/-- IMAD_PAIR (R56). -/
def execImadPair (ctl : Ctl) (d a b : BitVec 6) (s : State) : Out :=
  issue (satForm (laneForm (.imadPair ctl d a b) b.toNat (mSAT + mSX + mADD + mBU) true)) ctl.sp s
    (pair3 ctl d.toNat a.toNat b.toNat (madOp s.cur.run))

/-- IMIN_S_PAIR (R56). -/
def execIminSPair (ctl : Ctl) (d a b : BitVec 6) (s : State) : Out :=
  issue (laneForm (.iminSPair ctl d a b) b.toNat (mBU) true) ctl.sp s
    (pair2 ctl d.toNat a.toNat b.toNat (minS))

/-- IMIN_N_PAIR (R56). -/
def execIminNPair (ctl : Ctl) (d a b : BitVec 6) (s : State) : Out :=
  issue (laneForm (.iminNPair ctl d a b) b.toNat (mBU) true) ctl.sp s
    (pair2 ctl d.toNat a.toNat b.toNat (minN))

/-- IMAX_S_PAIR (R56). -/
def execImaxSPair (ctl : Ctl) (d a b : BitVec 6) (s : State) : Out :=
  issue (laneForm (.imaxSPair ctl d a b) b.toNat (mBU) true) ctl.sp s
    (pair2 ctl d.toNat a.toNat b.toNat (maxS))

/-- IMAX_N_PAIR (R56). -/
def execImaxNPair (ctl : Ctl) (d a b : BitVec 6) (s : State) : Out :=
  issue (laneForm (.imaxNPair ctl d a b) b.toNat (mBU) true) ctl.sp s
    (pair2 ctl d.toNat a.toNat b.toNat (maxN))

/-- IDIV_S_PAIR (R57). -/
def execIdivSPair (ctl : Ctl) (d a b : BitVec 6) (s : State) : Out :=
  issue (laneForm (.idivSPair ctl d a b) b.toNat (mSAT + mBU) true) ctl.sp s
    (pair2 ctl d.toNat a.toNat b.toNat (divS s.cur.run))

/-- IDIV_N_PAIR (R57). -/
def execIdivNPair (ctl : Ctl) (d a b : BitVec 6) (s : State) : Out :=
  issue (laneForm (.idivNPair ctl d a b) b.toNat (mSAT + mBU) true) ctl.sp s
    (pair2 ctl d.toNat a.toNat b.toNat (divN))

/-- IREM_S_PAIR (R57). -/
def execIremSPair (ctl : Ctl) (d a b : BitVec 6) (s : State) : Out :=
  issue (laneForm (.iremSPair ctl d a b) b.toNat (mBU) true) ctl.sp s
    (pair2 ctl d.toNat a.toNat b.toNat (remS))

/-- IREM_N_PAIR (R57). -/
def execIremNPair (ctl : Ctl) (d a b : BitVec 6) (s : State) : Out :=
  issue (laneForm (.iremNPair ctl d a b) b.toNat (mBU) true) ctl.sp s
    (pair2 ctl d.toNat a.toNat b.toNat (remN))

/-- IABS_PAIR (R56). -/
def execIabsPair (ctl : Ctl) (d a : BitVec 6) (s : State) : Out :=
  issue (laneNoImm (.iabsPair ctl d a) (mSAT) true) ctl.sp s
    (pair1 ctl d.toNat a.toNat (absOp s.cur.run))

/-- INEG_PAIR (R56). -/
def execInegPair (ctl : Ctl) (d a : BitVec 6) (s : State) : Out :=
  issue (laneNoImm (.inegPair ctl d a) (mSAT) true) ctl.sp s
    (pair1 ctl d.toNat a.toNat (negOp s.cur.run))

/-- IADD_U (R56). -/
def execIaddU (ctl : Ctl) (d a b : BitVec 6) (s : State) : Out :=
  issue (satForm (laneForm (.iaddU ctl d a b) b.toNat (mSAT + mSX) true)) ctl.sp s
    (uni2 ctl d.toNat a.toNat b.toNat (addOp s.cur.run))

/-- ISUB_U (R56). -/
def execIsubU (ctl : Ctl) (d a b : BitVec 6) (s : State) : Out :=
  issue (satForm (laneForm (.isubU ctl d a b) b.toNat (mSAT + mSX) true)) ctl.sp s
    (uni2 ctl d.toNat a.toNat b.toNat (subOp s.cur.run))

/-- IMUL_U (R56). -/
def execImulU (ctl : Ctl) (d a b : BitVec 6) (s : State) : Out :=
  issue (satForm (laneForm (.imulU ctl d a b) b.toNat (mSAT + mSX) true)) ctl.sp s
    (uni2 ctl d.toNat a.toNat b.toNat (mulOp s.cur.run))

/-- IMULH_S_U (R56). -/
def execImulhSU (ctl : Ctl) (d a b : BitVec 6) (s : State) : Out :=
  issue (laneForm (.imulhSU ctl d a b) b.toNat (0) true) ctl.sp s
    (uni2 ctl d.toNat a.toNat b.toNat (mulhS))

/-- IMULH_N_U (R56). -/
def execImulhNU (ctl : Ctl) (d a b : BitVec 6) (s : State) : Out :=
  issue (laneForm (.imulhNU ctl d a b) b.toNat (0) true) ctl.sp s
    (uni2 ctl d.toNat a.toNat b.toNat (mulhN))

/-- IMAD_U (R56). -/
def execImadU (ctl : Ctl) (d a b : BitVec 6) (s : State) : Out :=
  issue (satForm (laneForm (.imadU ctl d a b) b.toNat (mSAT + mSX + mADD) true)) ctl.sp s
    (uni3 ctl d.toNat a.toNat b.toNat (madOp s.cur.run))

/-- IMIN_S_U (R56). -/
def execIminSU (ctl : Ctl) (d a b : BitVec 6) (s : State) : Out :=
  issue (laneForm (.iminSU ctl d a b) b.toNat (0) true) ctl.sp s
    (uni2 ctl d.toNat a.toNat b.toNat (minS))

/-- IMIN_N_U (R56). -/
def execIminNU (ctl : Ctl) (d a b : BitVec 6) (s : State) : Out :=
  issue (laneForm (.iminNU ctl d a b) b.toNat (0) true) ctl.sp s
    (uni2 ctl d.toNat a.toNat b.toNat (minN))

/-- IMAX_S_U (R56). -/
def execImaxSU (ctl : Ctl) (d a b : BitVec 6) (s : State) : Out :=
  issue (laneForm (.imaxSU ctl d a b) b.toNat (0) true) ctl.sp s
    (uni2 ctl d.toNat a.toNat b.toNat (maxS))

/-- IMAX_N_U (R56). -/
def execImaxNU (ctl : Ctl) (d a b : BitVec 6) (s : State) : Out :=
  issue (laneForm (.imaxNU ctl d a b) b.toNat (0) true) ctl.sp s
    (uni2 ctl d.toNat a.toNat b.toNat (maxN))

/-- IDIV_S_U (R57). -/
def execIdivSU (ctl : Ctl) (d a b : BitVec 6) (s : State) : Out :=
  issue (laneForm (.idivSU ctl d a b) b.toNat (mSAT) true) ctl.sp s
    (uni2 ctl d.toNat a.toNat b.toNat (divS s.cur.run))

/-- IDIV_N_U (R57). -/
def execIdivNU (ctl : Ctl) (d a b : BitVec 6) (s : State) : Out :=
  issue (laneForm (.idivNU ctl d a b) b.toNat (mSAT) true) ctl.sp s
    (uni2 ctl d.toNat a.toNat b.toNat (divN))

/-- IREM_S_U (R57). -/
def execIremSU (ctl : Ctl) (d a b : BitVec 6) (s : State) : Out :=
  issue (laneForm (.iremSU ctl d a b) b.toNat (0) true) ctl.sp s
    (uni2 ctl d.toNat a.toNat b.toNat (remS))

/-- IREM_N_U (R57). -/
def execIremNU (ctl : Ctl) (d a b : BitVec 6) (s : State) : Out :=
  issue (laneForm (.iremNU ctl d a b) b.toNat (0) true) ctl.sp s
    (uni2 ctl d.toNat a.toNat b.toNat (remN))

/-- IABS_U (R56). -/
def execIabsU (ctl : Ctl) (d a : BitVec 6) (s : State) : Out :=
  issue (laneNoImm (.iabsU ctl d a) (mSAT) true) ctl.sp s
    (uni1 ctl d.toNat a.toNat (absOp s.cur.run))

/-- INEG_U (R56). -/
def execInegU (ctl : Ctl) (d a : BitVec 6) (s : State) : Out :=
  issue (laneNoImm (.inegU ctl d a) (mSAT) true) ctl.sp s
    (uni1 ctl d.toNat a.toNat (negOp s.cur.run))

/-- IADD_IMM (R32, R56). -/
def execIaddImm (ctl : Ctl) (d a : BitVec 6) (i : BitVec 9) (s : State) : Out :=
  issue (satForm (takesForm (.iaddImm ctl d a i) (mSAT + mSX) true true)) ctl.sp s
    (lane1 ctl d.toNat a.toNat (fun x => addOp s.cur.run x (.ofInt 32 (s.imm9 i))))

/-- IADD_IMM_PAIR (R32, R56). -/
def execIaddImmPair (ctl : Ctl) (d a : BitVec 6) (i : BitVec 9) (s : State) : Out :=
  issue (satForm (takesForm (.iaddImmPair ctl d a i) (mSAT + mSX) true true)) ctl.sp s
    (pair1 ctl d.toNat a.toNat (fun x => addOp s.cur.run x (.ofInt 64 (s.imm9 i))))

/-- LEA (R58). -/
def execLea (ctl : Ctl) (c : BitVec 3) (d a b : BitVec 6) (s : State) : Out :=
  issue (laneForm (.lea ctl c d a b) b.toNat mBU true) ctl.sp s
    (lane2 ctl d.toNat a.toNat b.toNat (leaOp c.toNat))

/-- LEA_U (R58). -/
def execLeaU (ctl : Ctl) (c : BitVec 3) (d a b : BitVec 6) (s : State) : Out :=
  issue (laneForm (.leaU ctl c d a b) b.toNat 0 true) ctl.sp s
    (uni2 ctl d.toNat a.toNat b.toNat (leaOp c.toNat))

end Sys2Proof.Machine
end

