-- ==== Sys2Proof/Machine/Life.lean ====
section
/-!
DEFINITION. Machine/Life.lean: what the groups of a workgroup, a core or a launch do together: the passing of time (R20), the register pool (R150 to
R153), the span rendezvous (R115, R116), the steps of a paced core (R251, R252), the rendezvous of RETS (R257), and a
group's retirement (R75, R111).
-/

namespace Sys2Proof.Machine

/-- A trap of a named group at the instruction it waits at. -/
def State.trapGroup (s : State) (k : GKey) (cause : Nat) (val : DWord) : State :=
  s.asGroup k (fun s => s.raise cause 0 val s.cur.runFirst s.cur.runFirst s.cur.runFirst)

/-- A waiting group's word completes in sequence; that the next PC is canonical was seen to when it began to wait (R14). -/
def Group.finishWait (g : Group) : Group := g.complete g.act g.waitSp (g.pc + 4)

/-- A refused SPAN, RETS, CLAIM or LAUNCH: c7 = 0 and the code (R8, R147, R152, R257). -/
def Group.refuse (g : Group) (code : Nat) : Group := ((g.cset 7 false).lastRef code).finishWait

/-! ### Time passes (R7, R20, R83, R296) -/

/-- Whole core cycles that end in the nanoseconds after an instant, at a clock in MHz. -/
def cyclesIn (now ns clock : Nat) : Nat := (now + ns) * clock / 1000 - now * clock / 1000

/-- Core cycles in the nanoseconds after an instant (R83, R117). During a move the clock changes at its step: downward in voltage
the target clock is set first, upward the rail slews at the old clock, 20 ns for each millivolt. -/
def Core.cyclesIn (c : Core) (now ns : Nat) : Nat :=
  let old := clockAt c.point
  match c.rdv.find? (fun r => r.phase == .moving) with
  | none => Machine.cyclesIn now ns old
  | some r =>
    let new := clockAt r.target
    let at_ := r.since + 20 * (railAt r.target - railAt c.point)
    let before := min ns (at_ - now)
    Machine.cyclesIn now before old + Machine.cyclesIn (now + before) (ns - before) new

/-- The core that a group runs on. -/
def State.coreOf (s : State) (g : Group) : Core := s.getCore ((s.findWg g.key.wg).getD .absent).core

/-- The time base counts nanoseconds at its corrected rate, as far as its 64 bits reach (R344, R345). -/
def TimeUnit.count (t : TimeUnit) (ns : Nat) : TimeUnit :=
  let x := t.frac + ns * ((1000000 : Int) + t.ppm).toNat
  { t with now := min (2 ^ 64 - 1) (t.now + x / 1000000), frac := x % 1000000 }

/-- Nanoseconds pass, as far as the 64-bit time base reaches: NOPRE windows run down (R83), the reservoirs fill at the cap,
to at most 20 ms of it (R296), and each resident workgroup is metered by an amount of its own that the spec does not give
(R7, log entry 2). -/
def State.elapse (s : State) (ns : Nat) : State :=
  let n := min ns (2 ^ 64 - 1 - s.time.now)
  let used := fun (w : Workgroup) => (Config.free (2 ^ 64 * (s.free + 1) + w.uid)).toNat
  let t := (s.onGroups (fun g => { g with nopre := g.nopre.map (fun c => c - (s.coreOf g).cyclesIn s.time.now n) })).onWgs
    (fun w => if w.resident then { w with energy := w.energy + used w } else w)
  { t.tick with
    time := s.time.count n,
    dies := s.dies.map (fun e => (e.1, { e.2 with
      reservoir := min ((e.2.capW * 20000000 : Nat) : Int) (e.2.reservoir + ((e.2.capW * n : Nat) : Int)) })) }

/-! ### The register pool -/

/-- The registers a grant adds read 0 in every lane (R152). -/
def Group.clearRegs (g : Group) (from_ n : Nat) : Group :=
  { g with lanes := g.lanes.map (fun e => (e.1, { e.2 with
      v := e.2.v.filter (fun x => !(from_ ≤ x.1 && x.1 < from_ + n)),
      bad := e.2.bad.filter (fun r => !(from_ ≤ r && r < from_ + n)) })) }

def Group.grantClaim (g : Group) (b : Nat) : Group :=
  (({ g.clearRegs g.count (8 * b) with count := g.count + 8 * b }).cset 7 true).finishWait

def Wait.claimed (w : Wait) : Nat := match w with | .claim b => b | _ => 0

/-- Grants waiting claims strictly in order while the free balance lets it (R152); n bounds the queue. -/
def State.grantClaims : Nat → Nat → State → State
  | 0, _, s => s
  | n + 1, u, s =>
    match (s.findWg u).map (·.claimQ) with
    | some (gid :: rest) =>
      match s.findGroup { wg := u, gid := gid, shadow := false } with
      | none => State.grantClaims n u (s.onWg u (fun w => { w with claimQ := rest }))
      | some g =>
        if g.threadsN * (8 * g.wait.claimed) * 4 ≤ s.balance u then
          State.grantClaims n u ((s.onGroup g.key (fun g => g.grantClaim g.wait.claimed)).onWg u
            (fun w => { w with claimQ := rest }))
        else s
    | _ => s

/-- A request to save stands for a workgroup: a pre-emption request or an in-field test's (R298, R326). -/
def Workgroup.asked (w : Workgroup) : Bool := w.request.isSome || w.tested.isSome

/-- R153: with no releaser left every claim in the queue traps. -/
def State.claimDeadlock (s : State) (u : Nat) : State :=
  match s.findWg u with
  | none => s
  | some w =>
    if w.claimQ.isEmpty || (s.groupsOf u).any (fun g => !w.claimQ.contains g.key.gid) then s else
    (s.groupsOf u).foldl (fun s g => s.trapGroup g.key causeClaim (.ofNat 64 g.wait.claimed)) s

def State.poolChanged (s : State) (u : Nat) : State :=
  (State.grantClaims (((s.findWg u).getD .absent).claimQ.length + 1) u s).claimDeadlock u

/-! ### The span rendezvous (R116) -/

def Wait.spanTarget (w : Wait) : Option Nat := match w with | .span t => some t | _ => Option.none
def Group.atSpan (g : Group) : Bool := g.wait.spanTarget.isSome

/-- The live groups of a launch resident on a core. -/
def State.launchGroups (s : State) (core l : Nat) : List Group :=
  let us := ((s.residents core).filter (fun w => w.launch == l)).map (·.uid)
  s.allGroups.filter (fun g => us.contains g.key.wg && !g.key.shadow)

/-- A shadow that parked at its SPAN resumes with the c7 of its group (R147). -/
def State.resumeShadow (s : State) (k : GKey) (c7 : Bool) : State :=
  s.onGroup { k with shadow := true } (fun g => if g.parked then { (g.cset 7 c7).finishWait with parked := false } else g)

/-- Refuses every group parked at the rendezvous of a core (R116, R148). -/
def State.refuseSpans (s : State) (core l code : Nat) : State :=
  let parked := (s.launchGroups core l).filter (·.atSpan)
  let s := parked.foldl (fun s g => (s.onGroup g.key (fun g => g.refuse code)).resumeShadow g.key false) s
  let s := s.onCore core (fun c => { c with rdv := c.rdv.filter (fun r => r.launch ≠ l) })
  let tgt := (parked.findSome? (fun g => g.wait.spanTarget)).getD 0
  s.traceCore 9 3 core (((s.findLaunch l).getD .absent).ctx) (.ofNat 64 tgt) (.ofNat 64 code)

/-- The core of a cluster that holds its atomic service group: the lowest-numbered healthy one; from a core that has been retired it passes
before the core is mapped out (R190, R323). -/
def State.serviceCore (s : State) (cl : Nat) : Nat :=
  let cs := ((List.range 8).map (fun i => 8 * cl + i)).filter (fun c => (s.getCore c).present)
  (cs.find? (fun c => (s.getCore c).curve ≠ 0)).getD (cs.headD (8 * cl))

/-- Group slots: 128, or 127 on the service core of a cluster (R112). -/
def State.slots (s : State) (core : Nat) : Nat := if s.serviceCore (clusterOf core) = core then 127 else 128

/-- The groups, shadows among them, that a workgroup of n threads forms at a width (R110, R112, R239). -/
def groupsAt (n w : Nat) (k : Kernel) : Nat := ((n + (w - 1)) / w) * (if k.slice.isSome then 2 else 1)

/-- The physical groups: under compatibility the parts of one physical group take one slot (R127). -/
def visWidth (l : Launch) (point : Nat) : Nat := if l.isProt then widthAt point / 2 else widthAt point

/-- The groups, shadows among them, that a workgroup forms at a target point: one that would hold only threads of retired groups
is not created (R116, R119). Under compatibility they are the physical groups of its parts (R127). -/
def State.formedAt (s : State) (l : Launch) (w : Workgroup) (target : Nat) : Nat :=
  let v := if w.kern.compat then 16 else visWidth l (s.getCore w.core).point
  let v' := visWidth l target
  let gs := s.groupsOf w.uid
  ((List.range (groupsAt l.threads v' .none)).filter (fun h =>
    gs.any (fun g => g.key.gid * v < (h + 1) * v' && h * v' < (g.key.gid + 1) * v))).length * (if w.kern.slice.isSome then 2 else 1)

/-- The group slot that the kept step-buffer bytes of retired workgroups need on a core (R255). -/
def State.keptSlots (s : State) (core : Nat) : Nat := ((s.getCore core).paces.filter (fun p => p.kept.isSome)).length

/-- By arrival: every live group of the launch on the core has parked; the completion checks 1 to 3 (R116). -/
def State.spanArrival (s : State) (core l : Nat) : State :=
  let gs := s.launchGroups core l
  if !(s.getCore core).rdv.any (fun r => r.launch == l && r.phase == .opened) || gs.isEmpty || gs.any (fun g => !g.atSpan) then s else
  let tgt := (gs.headD .absent).wait.spanTarget.getD 0
  let la := (s.findLaunch l).getD .absent
  if gs.any (fun g => g.wait.spanTarget ≠ some tgt) then s.refuseSpans core l 0x0A
  else if gs.any (fun g => g.count ≠ (gs.headD .absent).count) then s.refuseSpans core l 0x0B
  else
    let need := (((s.residents core).filter (fun w => w.launch == l)).map (fun w => s.formedAt la w tgt)).sum
    if s.slots core < need + s.keptSlots core then s.refuseSpans core l 0x0C
    else s.onCore core (fun c => { c with rdv := c.rdv.map (fun r =>
      if r.launch == l then { r with phase := .energy, target := tgt, since := s.time.now } else r) })

/-! ### Steps (R251, R252) -/

/-- The depth of the shallowest declared step buffer (R250). -/
def Kernel.dmin (k : Kernel) : Nat :=
  (k.bufs.filter (fun b => b.1 ≠ 0)).foldl (fun m b => if m = 0 then b.1 else min m b.1) 0

/-- The offset O(b) of a step buffer (R250). -/
def Kernel.bufOff (k : Kernel) (b : Nat) : Nat :=
  ((k.bufs.take b).map (fun x => roundUp (x.1 * x.2) 64)).sum

/-- Has the core heard that core u has ended m steps (R338)? -/
def Pace.has (p : Pace) (u m : Nat) : Bool := m ≤ mapGet 0 p.heard u || p.heardOver.contains u

/-- May core c begin its next step of launch u (R252)? -/
def Core.canBegin (c : Core) (u : Nat) (k : Kernel) : Bool :=
  let p := c.pace u
  p.ended == p.step + 1 && c.rdv.isEmpty && !p.finished &&
    p.strings.up.all (fun x => p.has x (p.step + 1)) && p.strings.down.all (fun d => p.has d (p.step + 2 - k.dmin))

/-- What the end of step m of launch u on a core releases (R208); a core whose workgroup has retired has ended every step, and its
groups' exits released. -/
def State.endOf (s : State) (core u m : Nat) : Know :=
  let p := s.paceOf core u
  let k : Know := mapGet [] p.endKnow m
  if p.finished then Know.join k ((((p.kept.bind s.findWg)).map (·.retsKnow)).getD []) else k

/-- The workgroup of a launch that lives on a core. -/
def State.residentOf (s : State) (core u : Nat) : Option Workgroup :=
  s.allWgs.find? (fun w => w.core == core && w.launch == u && w.resident)

/-- What the end of a step of a workgroup releases (R208): what its groups knew, those that have retired among them. -/
def State.endKnows (s : State) (u : Nat) : Know :=
  (s.groupsOf u).foldl (fun (k : Know) g => k.join g.known) ((s.findWg u).getD .absent).retsKnow

/-- A core has ended its step (R252). -/
def State.markEnd (s : State) (core u : Nat) (know : Know) : State :=
  s.onPace core u (fun p => { p with ended := p.step + 1, endKnow := mapSet [] p.endKnow p.step know })

/-- The core begins its next step: its held groups pass on, acquiring the ends they waited for (R206, R208). Where every group has
retired the step has ended with its beginning (R252). -/
def State.stepBegin (s : State) (core u : Nat) : State :=
  match s.residentOf core u with
  | none => s
  | some w =>
    if !(s.getCore core).canBegin u w.kern then s else
    let p := s.paceOf core u
    let n := p.step
    let know := (p.strings.up.map (fun x => s.endOf x u n) ++
      (if w.kern.dmin ≤ n + 1 then p.strings.down.map (fun d => s.endOf d u (n + 1 - w.kern.dmin)) else []) ++
      [s.endOf core u n]).foldl Know.join []
    let s := s.onPace core u (fun p => { p with step := n + 1 })
    if (s.groupsOf w.uid).isEmpty then s.markEnd core u (s.endKnows w.uid) else
    (s.groupsOf w.uid).foldl (fun s g => s.asGroup g.key (fun s =>
      (s.setCur { s.cur with held := false, wait := (match s.cur.wait with
        | .step _ _ => if s.cur.held then .none else s.cur.wait
        | w => w) }).acquire know |>.snapshot 5)) s

/-- The core ends its step once every group of its workgroup is held or has retired (R252): a phase boundary and a release at
.pkg; when the conditions hold already the next step begins with it. -/
def State.stepEnd (s : State) (core u : Nat) : State :=
  let p := s.paceOf core u
  match s.residentOf core u with
  | none => s
  | some w =>
    let gs := s.groupsOf w.uid
    if p.ended ≠ p.step || gs.any (fun g => !g.held) then s else
    let s := gs.foldl (fun s g => s.asGroup g.key (fun s => s.publish 5)) s
    (s.markEnd core u (s.endKnows w.uid)).stepBegin core u

/-! ### The rendezvous of RETS (R257) -/

def Wait.retsArgs (w : Wait) : Option (DWord × DWord) := match w with | .rets h m => some (h, m) | _ => Option.none

/-- The checks of R257 in order; none when the handover is accepted. -/
def State.retsRefusal (s : State) (u : Nat) (gs : List Group) : Option Nat :=
  let w := (s.findWg u).getD .absent
  let l := (s.findLaunch w.launch).getD .absent
  let (h, m) := ((gs.headD .absent).wait.retsArgs).getD (0, 0)
  if gs.any (fun g => g.wait.retsArgs ≠ some (h, m)) then some 0x40 else
  let heads := s.objects.filter (fun k => k.addr == h.toNat)
  if heads.isEmpty then some 0x41 else
  match heads.find? (fun k => k.ctx == l.ctx) with
  | none => some 0x42
  | some k =>
    let n := l.threads * (if l.isProt then 2 else 1)
    if !k.supported.getLsbD (s.getCore w.core).point then some 0x43
    else if gs.any (fun g => g.count ≠ (gs.headD .absent).count) || w.account < n * k.regs * 4 ||
        (List.range 8).any (fun i => m.getLsbD i && k.regs ≤ 8 * i) then some 0x44
    else if w.size < k.pad then some 0x45
    else if l.paced && k.bufs ≠ w.kern.bufs then some 0x46
    else if !(l.grants h.toNat (256 + k.extent) false) then some 0x47
    else if m &&& ~~~k.inherit ≠ 0 then some 0x48
    else if k.isProt ≠ w.kern.isProt || k.compat ≠ w.kern.compat || k.slice.isSome ≠ w.kern.slice.isSome then some 0x49
    else none

/-- When the last live group has parked at RETS: refuse all, or hand over (R257, R258). -/
def State.retsArrival (s : State) (u : Nat) : State :=
  let gs := s.groupsOf u
  if gs.isEmpty || gs.any (fun g => g.wait.retsArgs.isNone) then s else
  match s.retsRefusal u gs with
  | some code => gs.foldl (fun s g => s.onGroup g.key (fun g => g.refuse code)) s
  | none =>
    let (h, m) := ((gs.headD .absent).wait.retsArgs).getD (0, 0)
    let s := gs.foldl (fun s g => s.asGroup g.key (fun s => s.publish 6)) s
    let know := (s.groupsOf u).foldl (fun (k : Know) g => k.join g.known) []
    s.onWg u (fun w => { w with status := .handing h m, retsKnow := Know.join w.retsKnow know })

/-! ### Retirement of a group -/

/-- R111: the groups of a quad that wait at a joint issue for a retired group trap ILLEGAL with the quad's number. -/
def State.quadBroken (s : State) (u quad : Nat) : State :=
  ((s.groupsOf u).filter (fun g => g.key.gid / 4 == quad && g.wait == .joint quad)).foldl
    (fun s g => s.trapGroup g.key causeIllegal (.ofNat 64 quad)) s

/-- R236: a quad whose groups have all retired and whose commands have all completed gives up its frames. -/
def State.freeQuad (s : State) (u quad : Nat) : State :=
  match s.findWg u with
  | none => s
  | some w =>
    if !w.resident || (s.groupsOf u).any (fun g => g.key.gid / 4 == quad) ||
        (s.getCore w.core).mq.any (fun m => m.wg == u && m.quad == quad) then s else
    (s.onCore w.core (fun c => { c with frames := c.frames.filterMap (fun e =>
      if e.2.owner.any (fun o => o.wg == u && o.quad == quad) then e.2.held.map (fun h => (e.1, { Frame.free with held := some h }))
      else some e) })).onWg u (fun w => { w with tiles := w.tiles.filter (fun t => t.quad ≠ quad) })

/-- A group whose threads have all exited retires (R70, R75): its registers go back to the pool, its shadow ends, and
whatever waited for it is looked at again. The current group is the one that retires; a shadow only ends (R242). -/
def State.retireGroup (s : State) : State :=
  let k := s.cur.key
  if k.shadow then s.endShadow k else
  let known := s.cur.known
  let s := (s.setCur { s.cur with live := false, pend := [], wait := .none }).onWg k.wg (fun w =>
    { w with retsKnow := Know.join w.retsKnow known })
  let s := s.endShadow k
  let s := (s.quadBroken k.wg (k.gid / 4)).freeQuad k.wg (k.gid / 4)
  let s := s.poolChanged k.wg
  match s.findWg k.wg with
  | none => s
  | some w =>
    let s := s.spanArrival w.core w.launch
    let s := if (s.groupsOf k.wg).isEmpty then s.onWg k.wg (fun w => { w with status := .draining }) else s.retsArrival k.wg
    if ((s.findLaunch w.launch).getD .absent).paced then s.stepEnd w.core w.launch else s

end Sys2Proof.Machine
end

