-- ==== Sys2Proof/Machine/Admission.lean ====
section
/-!
DEFINITION. Machine/Admission.lean: what fits a core, in which order a die serves its launches, and what its head waits for (R112, R113,
R283, R295 to R297, R315).
-/

namespace Sys2Proof.Machine

/-! ### Packet fields (R283) -/

def Launch.inc (l : Launch) : Nat := l.pword 0 48 16
def Launch.codeAt (l : Launch) : Nat := 256 * l.pword 0 8 40
def Launch.start (l : Launch) : Nat := l.pword 2 36 2

/-- The grace time in nanoseconds. -/
def Launch.grace (l : Launch) : Nat := if l.pword 2 46 8 = 0 then 1000000 else 100000 * l.pword 2 46 8
def Launch.evicts (l : Launch) : Bool := l.pword 2 45 1 == 1
def Launch.estimate (l : Launch) : Nat := l.pword 3 0 32

def Launch.counterAt (l : Launch) : Nat := 8 * l.pword 4 3 45
def Launch.mapAt (l : Launch) : Nat := l.pword 5 0 48
def Launch.partAt (l : Launch) : Nat := l.pword 6 0 48
def Launch.leaseAt (l : Launch) : Nat := l.pword 7 0 48

/-! ### What fits a core (R112, R167, R255) -/

def State.dieUp (s : State) (d : Nat) : Bool := s.cap.dies.getLsbD d

def Launch.lanesPer (l : Launch) : Nat := if l.isProt then 2 else 1

/-- Register bytes of a workgroup. -/
def Launch.regBytes (l : Launch) (k : Kernel) : Nat := l.threads * l.lanesPer * k.regs * 4
def roundPad (a : Nat) : Nat := roundUp a 512

/-- The lowest contiguous free range of a scratchpad that holds so many bytes, among taken ranges (R167). -/
def padSlot (taken : List (Nat × Nat)) (need : Nat) : Option Nat :=
  let fits := fun b => b + need ≤ 524288 && taken.all (fun r => r.1 + r.2 ≤ b || b + need ≤ r.1)
  ((0 :: taken.map (fun r => r.1 + r.2)).filter fits).foldl (fun m b => match m with
    | none => some b
    | some a => some (min a b)) none

/-- Step-buffer bytes of a kernel (R250). -/
def Kernel.stepBytes (k : Kernel) : Nat := k.bufOff k.bufs.length

/-- The retired workgroups whose step buffers a core keeps (R255). -/
def State.keptOn (s : State) (core : Nat) : List Workgroup :=
  (s.getCore core).paces.filterMap (fun p => p.kept.bind s.findWg)

/-- Scratchpad ranges in use on a core, kept step buffers among them (R255). -/
def State.padTaken (s : State) (core : Nat) : List (Nat × Nat) :=
  ((s.residents core).filter (fun w => w.size ≠ 0)).map (fun w => (w.padBase, roundPad w.size)) ++
  (s.keptOn core).map (fun w => (w.padBase, roundPad w.kern.stepBytes))

/-- Group slots in use on a core at its point. A group that has retired while its workgroup is resident counts as before: the spec does
not say that its slot returns before the workgroup retires (DESIGN CHOICE, log entry 72). -/
def State.slotsUsed (s : State) (core : Nat) : Nat :=
  let p := (s.getCore core).point
  ((s.residents core).map (fun w =>
    let l := (s.findLaunch w.launch).getD .absent
    groupsAt l.threads (visWidth l p) w.kern)).sum + (s.keptOn core).length

def State.regsUsed (s : State) (core : Nat) : Nat := ((s.residents core).map (·.account)).sum

/-- One more workgroup of the launch fits the core at a point, with its register account and its allocation. -/
def State.hasRoom (s : State) (l : Launch) (k : Kernel) (bytes a core p : Nat) : Bool :=
  s.slotsUsed core + groupsAt l.threads (visWidth l p) k ≤ s.slots core &&
  s.regsUsed core + bytes ≤ 2 ^ 20 &&
  (a == 0 || (padSlot (s.padTaken core) (roundPad a)).isSome)

/-- An empty core could hold one workgroup at a point. -/
def State.couldHold (s : State) (l : Launch) (core p : Nat) : Bool :=
  (s.getCore core).present && (s.getCore core).curve.getLsbD p &&
  groupsAt l.threads (visWidth l p) l.kern ≤ s.slots core && l.regBytes l.kern ≤ 2 ^ 20 && roundPad l.kern.pad ≤ 524288

/-! ### The order of a die (R295 to R297) -/

/-- Since when a launch is queued on a die, and its effective priority there. -/
def Launch.queuedOn (l : Launch) (die : Nat) : Nat := ((l.pools.find? (fun e => e.die == die)).map (·.since)).getD l.queuedAt
def State.effective (s : State) (die : Nat) (l : Launch) : Nat := min 63 (l.prio + (s.time.now - l.queuedOn die) / 10000000)

/-- A core is idle: it holds no workgroup. -/
def State.idle (s : State) (core : Nat) : Bool := (s.residents core).isEmpty

/-- R113, R295: may a workgroup of the launch go to the core? -/
def State.eligible (s : State) (l : Launch) (core : Nat) (points : List Nat) : Bool :=
  let c := s.getCore core
  let rs := s.residents core
  let owner := fun (w : Workgroup) => (s.findLaunch w.launch).getD .absent
  c.present && !(s.die (dieOf core)).noPlace.contains (clusterOf core) &&
  (if rs.isEmpty then points.any (fun p => c.curve.getLsbD p)
   else if l.movable then rs.all (fun w => w.launch == l.uid) && c.curve.getLsbD c.point
   else points.contains c.point && c.curve.getLsbD c.point && rs.all (fun w => !(owner w).movable))

/-- Core power of a point in the puppeteer's table for an energy class (R297). -/
def State.powerOf (s : State) (cls p : Nat) : Nat := ((s.power.find? (fun x => x.1 == cls && x.2.1 == p)).map (·.2.2)).getD 0

/-- The point at which a workgroup would start on a core; a protected launch of a compatible kernel never starts at S0 (R128). -/
def State.startPoint (s : State) (l : Launch) (core : Nat) : Nat :=
  let c := s.getCore core
  if !s.idle core then c.point
  else if l.movable && (s.die (dieOf core)).lowHead then
    let ps := (List.range 4).filter (fun p => l.allowed.getLsbD p && c.curve.getLsbD p && !(l.isProt && l.kern.compat && p == 0))
    ps.foldl (fun m p => if s.powerOf l.kern.eclass p < s.powerOf l.kern.eclass m then p else m) (ps.headD l.start)
  else l.start

def insertBy {α : Type} (before : α → α → Bool) (x : α) : List α → List α
  | [] => [x]
  | y :: ys => if before x y then x :: y :: ys else y :: insertBy before x ys

/-- The order of R295: the higher effective priority, then the launch queued earlier. -/
def State.before (s : State) (die : Nat) (a b : Launch) : Bool :=
  s.effective die b < s.effective die a ||
    (s.effective die a == s.effective die b && (a.queuedOn die < b.queuedOn die || (a.queuedOn die == b.queuedOn die && a.uid < b.uid)))

/-- The launches that a die has still to serve, in the order of R295: those whose share is in its pool, and those with a saved
workgroup of it. -/
def State.order (s : State) (die : Nat) : List Launch :=
  (s.allLaunches.filter (fun l => l.uid != 0 && (l.state == .queued || l.state == .running) &&
    ((l.inPool die && !(l.pendingOn die).isEmpty) ||
      l.waiting.any (fun u => ((s.findWg u).map (fun w => dieOf w.core == die)).getD false)))).foldl
    (fun acc l => insertBy (s.before die) l acc) []

/-- The best of some cores: the most free slots, then the lowest number. -/
def State.bestCore (s : State) (cs : List Nat) : Option Nat :=
  let free := fun c => s.slots c - s.slotsUsed c
  match cs with
  | [] => none
  | c :: rest => some (rest.foldl (fun m d => if free m < free d then d else m) c)

def coresOf (die : Nat) : List Nat := (List.range 64).map (fun i => 64 * die + i)

/-- Where the next workgroup of a launch would go on a die: its index and its core. -/
def State.nextPlace (s : State) (l : Launch) (die : Nat) (barred : List Nat) : Option (Nat × Nat) :=
  let ok := fun c => !barred.contains c && s.eligible l c (if s.idle c then [s.startPoint l c] else [l.start]) &&
    s.hasRoom l l.kern (l.regBytes l.kern) l.kern.pad c (s.startPoint l c)
  match l.map with
  | none => match l.pendingOn die with
    | i :: _ => (s.bestCore ((coresOf die).filter ok)).map (fun c => (i, c))
    | [] => none
  | some m => ((l.pendingOn die).find? (fun i => ok (m.cores.getD i 0))).map (fun i => (i, m.cores.getD i 0))

/-- The head of a die's order has waited 10 ms for room (R295). -/
def State.starved (s : State) (die : Nat) (h : Launch) : Bool :=
  (s.nextPlace h die []).isNone && (s.die die).lacking.any (fun x => x.1 == h.uid && x.2 + 10000000 ≤ s.time.now)

/-- Cores that could hold the head of a die's order once it has waited 10 ms for room: no workgroup of lower e goes there. -/
def State.barredBy (s : State) (die : Nat) (l : Launch) : List Nat :=
  match s.order die with
  | h :: _ =>
    if h.uid != l.uid && s.effective die l < s.effective die h && s.starved die h
    then (coresOf die).filter (fun c => s.couldHold h c h.start &&
      (match h.map with | none => true | some m => m.cores.contains c)) else []
  | [] => []

/-- Does the reservoir cover an estimate (R295, R296)? -/
def Die.covers (d : Die) (e : Nat) : Bool :=
  (1000 * (e : Int) ≤ d.reservoir) || ((20000 * d.capW < e) && (20000000 * (d.capW : Int) ≤ d.reservoir))

/-! ### Where a saved workgroup goes (R295, R315) -/

/-- A saved workgroup has room on a core: a paced or movable one only on its own, every other at the POINT of its area. -/
def State.canRestore (s : State) (w : Workgroup) (l : Launch) (area core : Nat) : Bool :=
  let p := s.natAt (area + 15) 1
  let c := s.getCore core
  ((!l.paced && !l.movable) || core == w.core) && (s.idle core || c.point == p) && c.curve.getLsbD p &&
  s.eligible l core [p] && s.hasRoom l w.kern w.account w.size core p &&
  !(s.barredBy (dieOf core) l).contains core &&
  (core == w.core || ((List.range 64).filter (fun i => ((s.getCore w.core).frame i).owner.any (fun o => o.wg == w.uid))).length ≤
    (s.die (dieOf w.core)).spillPool.length)

/-- The core that would take a saved workgroup now: its own if it is paced or movable, else the best one of its die, which
dispatches it (log entry 25). -/
def State.restoreOn (s : State) (w : Workgroup) (l : Launch) (area : Nat) : Option Nat :=
  if l.paced || l.movable then (if s.canRestore w l area w.core then some w.core else none)
  else s.bestCore ((coresOf (dieOf w.core)).filter (s.canRestore w l area))

/-- The saved workgroup of a launch that a die restores next, and its core. -/
def State.nextRestore (s : State) (l : Launch) (die : Nat) : Option (Nat × Nat) :=
  l.waiting.findSome? (fun u => (s.findWg u).bind (fun w => match w.status with
    | .saved area => if dieOf w.core = die then (s.restoreOn w l area).map (fun c => (u, c)) else none
    | _ => none))

/-! ### The head's wait for room (R295) -/

/-- Before time passes each die notes whether its head lacks room, and since when (R295). -/
def State.watchHead (s : State) (die : Nat) : State :=
  let lacks := match s.order die with
    | h :: _ => if (s.nextRestore h die).isNone && (s.nextPlace h die []).isNone then some h.uid else none
    | [] => none
  s.onDie die (fun d => { d with lacking := lacks.map (fun u => match d.lacking with
    | some (v, t) => if v = u then (u, t) else (u, s.time.now)
    | none => (u, s.time.now)) })

/-- The head's workgroup has found room: for its next one the wait of 10 ms begins again (R295). -/
def State.foundRoom (s : State) (die u : Nat) : State :=
  s.onDie die (fun d => { d with lacking := d.lacking.filter (fun x => x.1 ≠ u) })

def State.watchHeads (s : State) : State := (List.range 4).foldl (fun s d => s.watchHead d) s

end Sys2Proof.Machine
end

