-- ==== Sys2Proof/Machine/Control.lean ====
section
/-!
DEFINITION. Machine/Control.lean: control flow (R69 to R75) and the system instructions (R81 to R87, R320).
-/

namespace Sys2Proof.Machine

/-! ### Time and energy (R7, R20) -/

/-- Time passes by an amount the spec does not give; the time base never runs back (R20). -/
def State.passTime (s : State) : State := s.watchHeads.tick.elapse s.freeVal.toNat

/-- The workgroup of the current group is metered by an amount the spec does not give (R7). -/
def State.passEnergy (s : State) : State :=
  { s.tick with wg := { s.wg with energy := s.wg.energy + s.freeVal.toNat % (2 ^ 64 - s.wg.energy % 2 ^ 64) } }

/-! ### Special registers (R7, R8, R18) -/

/-- X, Y and Z, counted from 0, of index n in an extent of x times y times any z (R109, R290). -/
def coord (x y n k : Nat) : Nat := if k = 0 then n % x else if k = 1 then n / x % y else n / (x * y)

/-- A special register that belongs to the thread of lane j (R7). -/
def State.threadReg (s : State) (n j : Nat) : Word :=
  if n = 6 then .ofNat 32 (s.laneId j)
  else .ofNat 32 (coord s.launch.wgX s.launch.wgY (((s.cur.lane j).thread).getD 0) n)

/-- A special register that belongs to the group (R7). -/
def State.groupReg (s : State) (n : Nat) : DWord :=
  if n < 6 then .ofNat 64 (coord (s.launch.pword 1 0 32) (s.launch.pword 1 32 16) s.wg.l (n - 3))
  else if n = 0x07 then .ofNat 64 s.cur.key.gid
  else if n = 0x08 then .ofNat 64 s.visW
  else if n = 0x09 then .ofNat 64 s.core.point
  else if n = 0x0A then (if s.launch.paced then .ofNat 64 (s.core.pace s.launch.uid).step else 0)
  else if n = 0x0B then .ofNat 64 s.time.now
  else if n = 0x0C then .ofNat 64 (s.wg.energy - s.cur.energy0)
  else if n = 0x0D then s.cur.gstat
  else if n = 0x0E then s.launch.ctx.setWidth 64
  else if n = 0x0F then .ofNat 64 s.wg.core
  else if n = 0x10 then .ofNat 64 (dieOf s.wg.core)
  else if n = 0x11 then s.cur.trapCause
  else if n = 0x12 then s.cur.trapPc
  else if n = 0x13 then s.cur.trapVal
  else s.cur.trapOrg

/-- TID and LANEID belong to the thread (R7). -/
def ofThread (n : Nat) : Bool := n < 3 || n == 6

/-- Registers whose Access is S alone (R7). -/
def supOnly (n : Nat) : Bool := 0x11 ≤ n

/-- RDSR (R85). -/
def rdsrBody (word d n : Nat) (s : State) : Eff :=
  if supOnly n && !s.cur.sup then .trap causeIllegal 0 (.ofNat 64 word) s
  else if ofThread n then
    if s.regBad (d, 1) then .trap causeIllegal 0 (.ofNat 64 d) s
    else .next (s.setCur (s.cur.putLanes s.cur.lanesOn d (s.threadReg n)))
  else
    let s := if n = 0x0B then s.passTime else if n = 0x0C then s.passEnergy else s
    .next (s.setCur (s.cur.sset d (s.groupReg n)))

/-- WRSR (R7, R8, R18): only GSTAT is written from user mode; CTXID is accepted from supervisor mode and keeps its
value; reserved bits keep reading 0. -/
def wrsrBody (word n a : Nat) (s : State) : Eff :=
  let g := s.cur
  let v := g.sget a
  if n = 0x0D then .next (s.setCur { g with gstat := v &&& 0xFFDF })
  else if !g.sup || (n < 0x11 && n ≠ 0x0E) then .trap causeIllegal 0 (.ofNat 64 word) s
  else if n = 0x11 then .next (s.setCur { g with trapCause := v &&& 0xFFFFFF00FF })
  else if n = 0x12 then .next (s.setCur { g with trapPc := v })
  else if n = 0x13 then .next (s.setCur { g with trapVal := v })
  else if n = 0x14 then .next (s.setCur { g with trapOrg := v })
  else .next s

/-! ### System instructions (R81 to R87) -/

/-- TRAP and SVC complete before their trap is taken (R16); a fault of an outstanding instruction displaces the trap, and
the word then has not completed (R15). TRAPPC is PC + 4 even where that is not canonical, and no PC_WRAP is raised: the rules
do not say which trap such a word takes (DESIGN CHOICE, log entry 57). -/
def softTrap (cause code : Nat) (s : State) : Eff :=
  let s := s.settle
  if !s.cur.live then .settled s else
  if !s.late.isEmpty then .settled (s.holdFor s.late) else
  match s.cur.firstFault with
  | some f => .settled (s.takeFault f s.cur.runFirst)
  | none => .settled ((s.setCur (s.cur.complete s.cur.act false (s.cur.pc + 4))).takeTrap cause code 0 (s.cur.pc + 4) s.cur.pc)

/-- IDEM (R81, R320). -/
def Group.recoveryPoint (g : Group) : Group :=
  { g with rpc := g.runFirst, ra := g.act, rdepth := g.stack.length,
           restart := if g.restart.getLsbD 7 then g.restart &&& 0x7F else g.restart &&& 0xFC }

/-- The scope of ICINV reaches a core (R87). -/
def icinvReaches (scope mine c : Nat) : Bool :=
  if scope ≤ 2 then c == mine else if scope = 3 then clusterOf c == clusterOf mine
  else if scope = 4 then dieOf c == dieOf mine else true

def State.icinv (s : State) (scope lo len : Nat) : State :=
  let drop := fun (c : Core) =>
    if icinvReaches scope s.core.id c.id then { c with icache := c.icache.filter (fun l => !s.lineInRange lo len l.num) } else c
  { s with core := drop s.core, cores := s.cores.map drop }

/-- DOZE (R20, R86): the group goes on after the word; until the instant it frees its issue slot. -/
def dozeBody (sp : Bool) (till : DWord) (s : State) : Eff :=
  if till.toNat ≤ s.time.now || !canonical (s.cur.pc + 4) then .next s
  else .settled (s.setCur { s.cur.complete s.cur.act sp (s.cur.pc + 4) with wait := .doze till })

/-- TRAP (R81); SP = 1 on TRAP, SVC, ERET and EXIT permits nothing (R54). -/
def execTrap (ctl : Ctl) (c : BitVec 18) (s : State) : Out :=
  issue (bareForm (.trap ctl c) false false) false s (underGuard ctl (softTrap causeBreak c.toNat))

/-- SVC (R81). -/
def execSvc (ctl : Ctl) (c : BitVec 18) (s : State) : Out :=
  issue (bareForm (.svc ctl c) false false) false s (underGuard ctl (softTrap causeSvc c.toNat))

/-- ERET (R16, R17, R81): outstanding results land first, so that a supervisor's load reaches its bank. A fault of such a load
whose window is still open stays with the group and is taken in user mode at the end of the window: the rules do not say
what becomes of it (DESIGN CHOICE, log entry 57). -/
def execEret (ctl : Ctl) (s : State) : Out :=
  issue (bareForm (.eret ctl) false false) false s (underGuard ctl (fun s =>
    if !s.cur.sup then .trap causeIllegal 0 (.ofNat 64 (wordOf (.eret ctl))) s else
    let s := s.settle
    if !s.cur.live then .settled s else
    if !s.late.isEmpty then .settled (s.holdFor s.late) else
    .settled (s.setCur ((s.cur.complete s.cur.act false (s.cur.pc + 4)).returnFromTrap))))

/-- NOP (R81). -/
def execNop (ctl : Ctl) (s : State) : Out :=
  issue (bareForm (.nop ctl) true true) ctl.sp s (underGuard ctl .next)

/-- IDEM (R320). -/
def execIdem (ctl : Ctl) (s : State) : Out :=
  issue (bareForm (.idem ctl) false false) ctl.sp s
    (underGuard ctl (fun s => .next (s.setCur s.cur.recoveryPoint)))

/-- The NOPRE window after a NOPRE (R83): an open one is not extended, one that has run down is closed. -/
def nopreOpen (w : Option Nat) : Option Nat :=
  match w with
  | some (n + 1) => some (n + 1)
  | _ => some 65536

/-- NOPRE (R83). -/
def execNopre (ctl : Ctl) (s : State) : Out :=
  issue (bareForm (.nopre ctl) false false) ctl.sp s
    (underGuard ctl (fun s => .next (s.setCur { s.cur with nopre := nopreOpen s.cur.nopre })))

/-- PREON (R83). -/
def execPreon (ctl : Ctl) (s : State) : Out :=
  issue (bareForm (.preon ctl) false false) ctl.sp s
    (underGuard ctl (fun s => .next (s.setCur { s.cur with nopre := none })))

/-- IFENCE (R84). -/
def execIfence (ctl : Ctl) (s : State) : Out :=
  issue (bareForm (.ifence ctl) false false) ctl.sp s
    (underGuard ctl (fun s => .next (s.setCur { s.cur with fbuf := [] })))

/-- RDSR (R85). -/
def execRdsr (ctl : Ctl) (d a : BitVec 6) (s : State) : Out :=
  issue (bareForm (.rdsr ctl d a) true false) ctl.sp s
    (underGuard ctl (rdsrBody (wordOf (.rdsr ctl d a)) d.toNat a.toNat))

/-- WRSR (R85). -/
def execWrsr (ctl : Ctl) (d a : BitVec 6) (s : State) : Out :=
  issue (bareForm (.wrsr ctl d a) false false) ctl.sp s
    (underGuard ctl (wrsrBody (wordOf (.wrsr ctl d a)) d.toNat a.toNat))

/-- TIME (R20, R85). -/
def execTime (ctl : Ctl) (d : BitVec 6) (s : State) : Out :=
  issue (bareForm (.time ctl d) true false) ctl.sp s (underGuard ctl (fun s =>
    let s := s.passTime
    .next (s.setCur (s.cur.sset d.toNat (.ofNat 64 s.time.now)))))

/-- DOZE (R20, R86). -/
def execDoze (ctl : Ctl) (a : BitVec 6) (s : State) : Out :=
  issue (bareForm (.doze ctl a) false false) ctl.sp s
    (underGuard ctl (fun s => dozeBody ctl.sp (s.cur.sget a.toNat) s))

/-- ICINV (R87): the length comes from b or IMM, the scope from SC, .pkg by default. -/
def execIcinv (ctl : Ctl) (a b : BitVec 6) (s : State) : Out :=
  issue { bareForm (.icinv ctl a b) false false with imm := .replaces b.toNat, mods := mSC } ctl.sp s
    (underGuard ctl (fun s =>
      .next (s.icinv (scopeOr 5 s.cur.run.sc) (s.cur.sget a.toNat).toNat (s.bUni b.toNat).toNat)))

/-! ### Control flow (R69 to R75) -/

/-- The target of a B word (R14, R23). -/
def branchTarget (pc : DWord) (o : BitVec 19) : DWord := pc + .ofInt 64 (4 * o.toInt)

/-- R322: the lowest visible lane whose branch condition differs from its shadow's. -/
def State.branchMismatch (s : State) (c : Ctl) : Option Nat :=
  if !s.prot then none
  else s.cur.lanesOn.find? (fun j => j % 2 == 0 && s.cur.laneGuard c j != s.cur.laneGuard c (j + 1))

/-- A lane BRA with its taken set (R71). -/
def braBody (taken : Mask) (target : DWord) (s : State) : Eff :=
  let g := s.cur
  let rest := g.act &&& ~~~taken
  let seq := g.pc + 4
  if rest = 0 then .jump target false s
  else if taken = 0 then .next s
  else if g.convPc = some target then .next (s.setCur { g with act := rest })
  else if g.convPc = some seq then .jump target false (s.setCur { g with act := taken })
  else match g.stack with
    | e :: es =>
      if e.pend && e.pc = seq then
        .jump target false (s.setCur { g with act := taken, stack := { e with mask := e.mask ||| rest } :: es })
      else if 32 ≤ g.stack.length then .trap causeIllegal 0 32 s
      else .jump target false (s.setCur { g with act := taken, stack := { pend := true, pc := seq, mask := rest } :: g.stack })
    | [] => .jump target false (s.setCur { g with act := taken, stack := [{ pend := true, pc := seq, mask := rest }] })

/-- Does a branch go where no canonical address is (R14)? -/
def Eff.wraps (e : Eff) (pc : DWord) : Bool :=
  match e with
  | .next _ => !canonical (pc + 4)
  | .jump target _ _ => !canonical target
  | _ => false

/-- BRA, lane condition (R71, R322): of several faults of the word the one with the lowest code is taken (R19). -/
def execBraLane (ctl : Ctl) (h : BitVec 2) (o : BitVec 19) (s : State) : Out :=
  issue (bareForm (.braLane ctl h o) true false) ctl.sp s (fun s =>
    let e := braBody (maskOf (s.cur.on ctl)) (branchTarget s.cur.pc o) s
    match s.branchMismatch ctl with
    | some j => if e.before causeShadow || e.wraps s.cur.pc then e else .trap causeShadow 0 (.ofNat 64 (s.laneId j)) s
    | none => e)

/-- BRA, uniform condition (R71). -/
def execBraUniform (ctl : Ctl) (h : BitVec 2) (o : BitVec 19) (s : State) : Out :=
  issue (bareForm (.braUniform ctl h o) true true) ctl.sp s
    (underGuard ctl (fun s => .jump (branchTarget s.cur.pc o) false s))

/-- CALL (R73): s63 stays written when the target traps. -/
def execCall (ctl : Ctl) (h : BitVec 2) (o : BitVec 19) (s : State) : Out :=
  issue (bareForm (.call ctl h o) true false) ctl.sp s (underGuard ctl (fun s =>
    let target := branchTarget s.cur.pc o
    let t := s.setCur (s.cur.sset 63 (s.cur.pc + 4))
    if canonical target then .jump target false t else .trap causePcWrap 0 target t))

/-- CONV (R72). -/
def execConv (sp : Bool) (o : BitVec 19) (s : State) : Out :=
  issue (bareForm (.conv sp o) true false) sp s (fun s =>
    if 32 ≤ s.cur.stack.length then .trap causeIllegal 0 32 s
    else .next (s.setCur { s.cur with
      stack := { pend := false, pc := branchTarget s.cur.pc o, mask := s.cur.act } :: s.cur.stack }))

/-- LOOP (R74). -/
def execLoop (ctl : Ctl) (d : BitVec 6) (i : BitVec 9) (s : State) : Out :=
  issue (takesForm (.loop ctl d i) 0 true true) ctl.sp s (underGuard ctl (uniBody [d.toNat] (fun s =>
    let n := s.cur.sget d.toNat - 1
    let t := s.setCur (s.cur.sset d.toNat n)
    if n = 0 then .next t else .jump (s.cur.pc + .ofInt 64 (4 * s.imm9 i)) false t)))

/-- BRX (R73). -/
def execBrx (ctl : Ctl) (a : BitVec 6) (s : State) : Out :=
  issue (bareForm (.brx ctl a) true false) ctl.sp s
    (underGuard ctl (fun s => .jump (s.cur.sget a.toNat) true s))

/-- RET (R73). -/
def execRet (ctl : Ctl) (a : BitVec 6) (s : State) : Out :=
  issue (bareForm (.ret ctl a) true false) ctl.sp s
    (underGuard ctl (fun s => .jump (s.cur.sget a.toNat) true s))

/-- The active threads exit (R75): E takes them, and the group goes on with the next entry of its stack; with none it has no
thread left. -/
def Group.exitThreads (g : Group) : Group :=
  let g := g.complete g.act false (g.pc + 4)
  Group.popDead g.stack.length { g with exited := g.exited ||| g.act, act := 0 }

/-- EXIT (R75, R202, R206). While threads are left the group goes straight on with them. The last threads' EXIT retires the
group: what is outstanding lands first, a fault among it is taken here (log entry 18), and tagged steps that cannot be
performed yet hold the word; the group releases at .sys. -/
def execExit (ctl : Ctl) (s : State) : Out :=
  issue (bareForm (.exit ctl) true true) false s (underGuard ctl (fun s0 =>
    if s0.cur.exitThreads.act ≠ 0 then .settled (s0.setCur s0.cur.exitThreads) else
    let s := s0.settle
    if !s.cur.live then .settled s else
    if !s.late.isEmpty then .settled (s.holdFor s.late) else
    match s.cur.firstFault with
    | some f => .settled (s.takeFault f s.cur.runFirst)
    | none =>
      let open_ := s.cur.openNums (fun _ => true)
      if !open_.isEmpty then .settled (s.holdFor open_) else
        let s := s.publish 6
        .settled ((s.setCur s.cur.exitThreads).retireGroup)))

end Sys2Proof.Machine
end

