-- ==== Sys2Proof/Machine/Mem.lean ====
section
/-!
DEFINITION. Machine/Mem.lean: the memory, tag, window, atomic and fence instructions (R76 to R80, R181 to R202). Every lane
is checked before any access is made; a fault of a long-latency word waits for its trapping point (R15), one of a store is
precise.
-/

namespace Sys2Proof.Machine

/-! ### Operands -/

/-- Bytes and extension of an access by its wd field and MOD (R76, R183). -/
def widthOf (r : Run) (wd : Nat) : Width :=
  if wd = 3 then { bytes := if r.ns then 2 else 1, signed := r.sx } else { bytes := 4 * 2 ^ wd, signed := false }

/-- The registers that the wd field spans. -/
def spanOf (wd : Nat) : Nat := if wd = 3 then 1 else 2 ^ wd

/-- The IMM displacement (R32). -/
def Run.displacement (r : Run) : DWord := .ofInt 64 (r.immInt.getD 0)

/-- The offset x of a lane, and of a uniform word (R10, R23). -/
def State.laneX (s : State) (o j : Nat) : DWord := (s.src j o).signExtend 64 + s.cur.run.displacement
def State.uniX (s : State) (o : Nat) : DWord := s.cur.sget o + s.cur.run.displacement

/-- The bytes that a store takes from lane j, or from uniform registers (R77, R78). -/
def State.laneData (s : State) (r n j : Nat) : List Byte :=
  if n ≤ 4 then natBytes (s.src j r).toNat n
  else ((List.range (n / 4)).map (fun i => natBytes (s.cur.vget j (r + i)).toNat 4)).flatten

def State.uniData (s : State) (r n : Nat) : List Byte :=
  if n ≤ 8 then natBytes (s.cur.sget r).toNat n
  else natBytes (s.cur.sget r).toNat 8 ++ natBytes (s.cur.sget (r + 1)).toNat 8

/-- The lanes whose access is made: in a protected launch the visible ones (R202). -/
def State.served (s : State) (on : List Nat) : List Nat := on.filter s.visible

/-- R202, R322: the lowest visible lane whose pair differs in acting, or in what f gives for the two lanes. -/
def State.pairMismatch (s : State) (on : List Nat) (f : Nat → List Nat) : Option Nat :=
  if !s.prot then none else
  (List.range (s.cur.width / 2)).find? (fun i =>
    let a := on.contains (2 * i)
    let b := on.contains (2 * i + 1)
    a != b || (a && b && f (2 * i) != f (2 * i + 1)))

/-- What a lane's access compares: its address and its data. -/
def State.pairKey (s : State) (o r n j : Nat) : List Nat :=
  (s.laneX o j).toNat :: (s.laneData r n j).map (·.toNat)

/-! ### Routes of all lanes -/

def State.routes (s : State) (k : Nat) (x : Nat → DWord) (n : Nat) (wr : Bool) (on : List Nat) : List (Nat × Route) :=
  on.map (fun j => (j, s.route k (x j) n wr))

def goodRoutes (rs : List (Nat × Route)) : List (Nat × Nat) :=
  rs.filterMap (fun r => match r.2 with | .to pa => some (r.1, pa) | _ => none)

/-- The misaligned lane whose address TRAPVAL holds: where several are misaligned R12 and R77 name none, and the model takes the
lowest (DESIGN CHOICE, log entry 58). -/
def alignRoute (rs : List (Nat × Route)) : Option (Nat × DWord) :=
  rs.findSome? (fun r => match r.2 with | .align ea => some (r.1, ea) | _ => none)

def leaseRoute (rs : List (Nat × Route)) : Option DWord :=
  rs.findSome? (fun r => match r.2 with | .lease ea => some ea | _ => none)

/-- The offsets of all lanes in the scratchpad: those that are good, and the first of each fault (R168). -/
def State.padRoutes (s : State) (x : Nat → DWord) (n : Nat) (on : List Nat) : List (Nat × Route) :=
  on.map (fun j => (j, match padCheck s.wg.size (x j) n with
    | none => .to (x j).toNat
    | some (c, v) => if c = causeAlign then .align v else .lease v))

/-! ### Outstanding results -/

/-- A new entry of a word of the current group with lookahead la: its own completion counts once (R26). -/
def State.entry (s : State) (lane : Option Nat) (la : Nat) (act : PendAct) : Pend :=
  { lane := lane, rem := la + 1, org := s.cur.runFirst, kept := false, act := act, know := s.issueKnow,
    from_ := { num := s.nextId, owner := s.owner, point := s.core.point, lane := lane.getD 0 } }

/-- Adds entries; they are served later, and before the first instruction beyond their window issues (R26). -/
def State.addPends (s : State) (es : List Pend) : State :=
  { s with cur := { s.cur with pend := s.cur.pend ++ es }, nextId := s.nextId + 1 }

/-- A lane whose source register is poisoned, or that of the other lane of its pair in a protected launch. -/
def State.laneBad (s : State) (srcs : List VReg) (j : Nat) : Bool :=
  (s.poisonReg (if s.prot then [j, j ^^^ 1] else [j]) srcs).isSome

/-- A long-latency lane instruction: a poisoned source is a fault of it, taken beyond its window (R15, R319); the lanes that
hold none go on. -/
def laneLoads (la : Nat) (on : List Nat) (dsts srcs : List VReg) (body : List Nat → State → State → Eff) (s : State) : Eff :=
  laneStart on dsts srcs (fun s t =>
    match s.poisonReg on srcs with
    | none => body on s t
    | some r =>
      let fault := fun (t : State) => t.addPends [t.entry (on.find? (s.laneBad srcs)) la (.fault causePoison (.ofNat 64 r))]
      let good := on.filter (fun j => !s.laneBad srcs j)
      if good.isEmpty then .next (fault t) else
      match body good s t with
      | .next t' => .next (fault t')
      | e => e) s

/-- A long-latency lane or uniform access: LEASE ends the launch; a pair of lanes that differs stops it before any access (R322);
a misaligned lane leaves its fault, and the other lanes go on (R12, R15, R178). Where one lane is misaligned and another
lies outside the lease the rules give an order for each access alone (R10, R76): the launch ends at the issue, before the
trapping point of the ALIGN comes (DESIGN CHOICE, log entry 58). -/
def issueLoads (la : Nat) (rs : List (Nat × Route)) (mism : Option Nat) (lane : Nat → Option Nat) (act : Nat → Nat → PendAct)
    (s t : State) : Eff :=
  match leaseRoute rs with
  | some ea => .lease ea t
  | none =>
    match mism with
    | some i => .trap causeShadow 0 (.ofNat 64 i) s
    | none =>
      let bad := match alignRoute rs with
        | some (j, ea) => [t.entry (lane j) la (.fault causeAlign ea)]
        | none => []
      .next (t.addPends (bad ++ (goodRoutes rs).map (fun r => t.entry (lane r.1) la (act r.1 r.2))))

/-- The entries of the physical group that f selects land, as far as they can (R127). -/
def State.settleOwn (s : State) (f : State → Pend → Bool) : State :=
  (s.partners.tail.filter (fun h => h.pend.any (f s))).foldl (fun s h => s.asGroup h.key (fun s => s.settleTo (f s))) (s.settleTo (f s))

/-- The instructions of the physical group of which an entry that f selects is outstanding. -/
def State.ownNums (s : State) (f : State → Pend → Bool) : List Nat := s.partners.flatMap (fun g => g.openNums (f s))

/-- What an access to a location must come after lands first; where it cannot, the word issues again when it has (R185,
R210). -/
def afterOwn (f : State → Pend → Bool) (s t : State) (k : State → Eff) : Eff :=
  let t := t.settleOwn f
  if !t.cur.live then .settled t else
  if (t.ownNums f).isEmpty then k t else
    let s := s.settleOwn f
    .settled (s.holdFor (s.ownNums f))

/-- The precise checks of a store, in the order of their codes (R19, R77, R183): alignment, rights, then the pairs of a protected
launch (R322). -/
def checkStores (rs : List (Nat × Route)) (mism : Option Nat) (s : State) (k : Eff) : Eff :=
  match alignRoute rs with
  | some (_, ea) => .trap causeAlign 0 ea s
  | none =>
    match leaseRoute rs with
    | some ea => .lease ea s
    | none =>
      match mism with
      | some i => .trap causeShadow 0 (.ofNat 64 i) s
      | none => k

/-- A precise lane or uniform store (R77, R183): the checks, then the writes in lane order. -/
def issueStores (rs : List (Nat × Route)) (mism : Option Nat) (s t : State) (f : State → Pend → Nat → Bool)
    (w : State → Nat × Nat → State) : Eff :=
  checkStores rs mism s
    (afterOwn (fun s e => (goodRoutes rs).any (fun r => f s e r.2)) s t (fun t => .next ((goodRoutes rs).foldl w t)))

/-! ### Global loads and stores (R76 to R80) -/

def globalMods (store : Bool) (wd : Nat) : Nat :=
  mCP + (if wd = 3 then (if store then mNS else mNS + mSX) else 0)

/-- LDG (R76); in slice code a data field from 56 names the queue to fill (R241). -/
def ldgBody (ctl : Ctl) (la r k o wd : Nat) (s : State) : Eff :=
  let push := s.cur.key.shadow && 56 ≤ r && spanOf wd == 1
  let w := widthOf s.cur.run wd
  laneLoads la (s.cur.on ctl) (if push then [] else [(r, spanOf wd)]) [(o, 1)] (fun on s t =>
    issueLoads la (s.routes k (s.laneX o) w.bytes false (s.served on)) none some
      (fun _ pa => if push then .push true pa w (r - 56) else .load pa w r) s t) s

/-- LDG (R76). -/
def execLdg (ctl : Ctl) (l : BitVec 4) (r : BitVec 6) (t : BitVec 3) (o : BitVec 6) (w : BitVec 2) (s : State) : Out :=
  issue (takesForm (.ldg ctl l r t o w) (globalMods false w.toNat) false true) ctl.sp s
    (ldgBody ctl l.toNat r.toNat t.toNat o.toNat w.toNat)

/-- STG (R77, R54). -/
def stgBody (ctl : Ctl) (r k o wd : Nat) (s : State) : Eff :=
  let n := (widthOf s.cur.run wd).bytes
  let on := s.cur.on ctl
  laneBody on [] [(r, spanOf wd), (o, 1)] (fun s t =>
    issueStores (s.routes k (s.laneX o) n true (s.served on)) (s.pairMismatch on (s.pairKey o r n)) s t
      (fun s e pa => s.touchesMem e pa n)
      (fun t x => (t.serveReds x.2 n).gwrite x.2 (s.laneData r n x.1))) s

/-- STG (R77). -/
def execStg (ctl : Ctl) (r : BitVec 6) (t : BitVec 3) (o : BitVec 6) (w : BitVec 2) (s : State) : Out :=
  issue (takesForm (.stg ctl r t o w) (globalMods true w.toNat) false false) ctl.sp s
    (stgBody ctl r.toNat t.toNat o.toNat w.toNat)

/-- LDK (R78). -/
def execLdk (ctl : Ctl) (l : BitVec 4) (r : BitVec 6) (t : BitVec 3) (o : BitVec 6) (w : BitVec 2) (s : State) : Out :=
  issue (takesForm (.ldk ctl l r t o w) (globalMods false w.toNat) false true) ctl.sp s
    (underGuard ctl (uniBody [r.toNat + (if w = 2 then 1 else 0), o.toNat] (fun s =>
      let n := widthOf s.cur.run w.toNat
      issueLoads l.toNat (s.routes t.toNat (fun _ => s.uniX o.toNat) n.bytes false [0]) none (fun _ => none)
        (fun _ pa => .load pa n r.toNat) s s)))

/-- STK (R78). -/
def execStk (ctl : Ctl) (r : BitVec 6) (t : BitVec 3) (o : BitVec 6) (w : BitVec 2) (s : State) : Out :=
  issue (takesForm (.stk ctl r t o w) (globalMods true w.toNat) false false) ctl.sp s
    (underGuard ctl (fun s =>
      let n := (widthOf s.cur.run w.toNat).bytes
      issueStores (s.routes t.toNat (fun _ => s.uniX o.toNat) n true [0]) none s s (fun s e pa => s.touchesMem e pa n)
        (fun t x => (t.serveReds x.2 n).gwrite x.2 (s.uniData r.toNat n))))

/-- XLATE (R79). -/
def execXlate (ctl : Ctl) (l : BitVec 4) (t : BitVec 3) (o : BitVec 6) (s : State) : Out :=
  issue (bareForm (.xlate ctl l t o) false true) ctl.sp s (underGuard ctl (uniBody [o.toNat] (fun s =>
    .next (s.addPends [s.entry none l.toNat (.xlate (s.cur.sget o.toNat) t.toNat)]))))

/-- PREF (R80): the request is accepted at once, and where lines lie changes no result. -/
def execPref (ctl : Ctl) (l : BitVec 4) (t : BitVec 3) (o : BitVec 6) (s : State) : Out :=
  issue { bareForm (.pref ctl l t o) false true with mods := mCP } ctl.sp s
    (underGuard ctl (uniBody [o.toNat] .next))

/-! ### Scratchpad (R183 to R188) -/

def padMods (store : Bool) (wd : Nat) : Nat := if wd = 3 then (if store then mNS else mNS + mSX) else 0

/-- LDS (R183); in slice code a data field from 56 names the queue to fill (R241). -/
def ldsBody (ctl : Ctl) (la r o wd : Nat) (s : State) : Eff :=
  let push := s.cur.key.shadow && 56 ≤ r && spanOf wd == 1
  let w := widthOf s.cur.run wd
  laneLoads la (s.cur.on ctl) (if push then [] else [(r, spanOf wd)]) [(o, 1)] (fun on s t =>
    issueLoads la (s.padRoutes (s.laneX o) w.bytes (s.served on)) none some
      (fun _ off => if push then .push false off w (r - 56) else .pad off w r) s t) s

/-- LDS (R183). -/
def execLds (ctl : Ctl) (l : BitVec 4) (r o : BitVec 6) (w : BitVec 2) (s : State) : Out :=
  issue (takesForm (.lds ctl l r o w) (padMods false w.toNat) false true) ctl.sp s
    (ldsBody ctl l.toNat r.toNat o.toNat w.toNat)

/-- A store into the allocation of the current workgroup. -/
def State.padStore (s : State) (off : Nat) (bs : List Byte) : State := { s with wg := s.wg.padStore (some s.owner) off bs }

/-- STS (R183, R202). -/
def stsBody (ctl : Ctl) (r o wd : Nat) (s : State) : Eff :=
  let n := (widthOf s.cur.run wd).bytes
  let on := s.cur.on ctl
  laneBody on [] [(r, spanOf wd), (o, 1)] (fun s t =>
    issueStores (s.padRoutes (s.laneX o) n (s.served on)) (s.pairMismatch on (s.pairKey o r n)) s t.serveAllReds
      (fun _ e off => e.touchesPad off n)
      (fun t x => t.padStore x.2 (s.laneData r n x.1))) s

/-- STS (R183). -/
def execSts (ctl : Ctl) (r o : BitVec 6) (w : BitVec 2) (s : State) : Out :=
  issue (takesForm (.sts ctl r o w) (padMods true w.toNat) false false) ctl.sp s
    (stsBody ctl r.toNat o.toNat w.toNat)

/-- LDF: take or peek (R184 to R186). -/
def ldfBody (ctl : Ctl) (op : TagOp) (la r o : Nat) (s : State) : Eff :=
  laneLoads la (s.cur.on ctl) [(r, 1)] [(o, 1)] (fun on s t =>
    issueLoads la (s.padRoutes (s.laneX o) 4 (s.served on)) none some (fun _ off => .tag op off 0 r) s t.beforeTag) s

/-- LDF.take (R184). -/
def execLdfTake (ctl : Ctl) (l : BitVec 4) (r o : BitVec 6) (s : State) : Out :=
  issue (takesForm (.ldfTake ctl l r o) 0 false false) ctl.sp s (ldfBody ctl .take l.toNat r.toNat o.toNat)

/-- LDF.peek (R184). -/
def execLdfPeek (ctl : Ctl) (l : BitVec 4) (r o : BitVec 6) (s : State) : Out :=
  issue (takesForm (.ldfPeek ctl l r o) 0 false false) ctl.sp s (ldfBody ctl .peek l.toNat r.toNat o.toNat)

/-- STE (R184): the datum is read at the issue. -/
def execSte (ctl : Ctl) (l : BitVec 4) (r o : BitVec 6) (s : State) : Out :=
  issue (takesForm (.ste ctl l r o) 0 false false) ctl.sp s (fun s =>
    laneLoads l.toNat (s.cur.on ctl) [] [(r.toNat, 1), (o.toNat, 1)] (fun on s t =>
      issueLoads l.toNat (s.padRoutes (s.laneX o.toNat) 4 (s.served on)) (s.pairMismatch on (s.pairKey o.toNat r.toNat 4)) some
        (fun j off => .tag .fill off (s.src j r.toNat) 0) s t.beforeTag) s)

/-- The steps of STF and TAGS (R184, R185, R187): after the precise checks each lane performs its own, in lane order on a word;
what others do may fall between them, and the next instruction waits for all. -/
def issueSteps (rs : List (Nat × Route)) (mism : Option Nat) (act : Nat → Nat → PendAct) (s t : State) : Eff :=
  let t := t.beforeTag
  checkStores rs mism s (.next (t.addPends ((goodRoutes rs).map (fun r => t.entry (some r.1) 0 (act r.1 r.2)))))

/-- STF (R184): it waits for no tag. -/
def execStf (ctl : Ctl) (r o : BitVec 6) (s : State) : Out :=
  issue (takesForm (.stf ctl r o) 0 false false) ctl.sp s (fun s =>
    let on := s.cur.on ctl
    laneBody on [] [(r.toNat, 1), (o.toNat, 1)] (fun s t =>
      issueSteps (s.padRoutes (s.laneX o.toNat) 4 (s.served on)) (s.pairMismatch on (s.pairKey o.toNat r.toNat 4))
        (fun j off => .tag .force off (s.src j r.toNat) 0) s t) s)

/-- TAGQ (R188). -/
def execTagq (ctl : Ctl) (l : BitVec 4) (r o : BitVec 6) (s : State) : Out :=
  issue (takesForm (.tagq ctl l r o) 0 false false) ctl.sp s (fun s =>
    laneLoads l.toNat (s.cur.on ctl) [(r.toNat, 1)] [(o.toNat, 1)] (fun on s t =>
      issueLoads l.toNat (s.padRoutes (s.laneX o.toNat) 128 (s.served on)) none some (fun _ off => .tagq off r.toNat) s t.beforeTag) s)

/-- TAGS (R187). -/
def execTags (ctl : Ctl) (v : BitVec 1) (o : BitVec 6) (w : BitVec 2) (s : State) : Out :=
  issue (takesForm (.tags ctl v o w) 0 false false) ctl.sp s (fun s =>
    let on := s.cur.on ctl
    let n := if w = 3 then 64 else 4 * 2 ^ w.toNat
    laneBody on [] [(o.toNat, 1)] (fun s t =>
      issueSteps (s.padRoutes (s.laneX o.toNat) n (s.served on)) (s.pairMismatch on (fun j => [(s.laneX o.toNat j).toNat]))
        (fun _ off => .tags off n (v == 1)) s t) s)

/-! ### The distributed window (R189) -/

/-- Where the lanes' window accesses go: alignment as in R168. -/
def State.windowRoutes (s : State) (x : Nat → DWord) (n : Nat) (check : Bool) (on : List Nat) : List (Nat × Route) :=
  on.map (fun j =>
    let a := x j
    (j, if n ≠ 0 && a.toNat % n ≠ 0 then .align a
        else if check && (s.windowAt s.launch a n true).isNone then .lease a else .to a.toNat))

/-- LDD (R189): the window is read when the request is served. -/
def execLdd (ctl : Ctl) (l : BitVec 4) (r o : BitVec 6) (w : BitVec 2) (s : State) : Out :=
  issue (takesForm (.ldd ctl l r o w) (padMods false w.toNat) false false) ctl.sp s (fun s =>
    let wd := widthOf s.cur.run w.toNat
    laneLoads l.toNat (s.cur.on ctl) [(r.toNat, spanOf w.toNat)] [(o.toNat, 1)] (fun on s t =>
      issueLoads l.toNat (s.windowRoutes (s.laneX o.toNat) wd.bytes false (s.served on)) none some
        (fun _ a => .window a wd r.toNat) s t) s)

/-- One window store (R189). -/
def State.windowStore (s : State) (a : Nat) (bs : List Byte) : State :=
  match s.windowAt s.launch (.ofNat 64 a) bs.length true with
  | some (u, off) => s.wgPadStore u off bs
  | none => s

/-- STD (R189): the store arrives at once; while a link on its way retrains the word waits (R334). -/
def execStd (ctl : Ctl) (r o : BitVec 6) (w : BitVec 2) (s : State) : Out :=
  issue (takesForm (.std ctl r o w) (padMods true w.toNat) false false) ctl.sp s (fun s =>
    let n := (widthOf s.cur.run w.toNat).bytes
    let on := s.cur.on ctl
    laneBody on [] [(r.toNat, spanOf w.toNat), (o.toNat, 1)] (fun s t =>
      let rs := s.windowRoutes (s.laneX o.toNat) n true (s.served on)
      let late := s.links.any (·.2.retrain) && (goodRoutes rs).any (fun x => s.crosses (.window x.2 { bytes := n, signed := false } 0))
      if late then checkStores rs (s.pairMismatch on (s.pairKey o.toNat r.toNat n)) s (.settled (s.holdFor [])) else
      issueStores rs (s.pairMismatch on (s.pairKey o.toNat r.toNat n)) s
        t.serveAllReds
        (fun s e a => match s.windowAt s.launch (.ofNat 64 a) n true with
          | some (u, off) => (u == s.wg.uid && e.touchesPad off n) ||
              (match e.act with | .window _ _ _ => true | _ => false)
          | none => false)
        (fun t x => t.windowStore x.2 (s.laneData r.toNat n x.1))) s)

/-! ### Atomics (R190 to R196) -/

/-- ORD of the run (R33, R194). -/
def Run.acq (r : Run) : Bool := r.ord % 2 == 1
def Run.rel (r : Run) : Bool := r.ord / 2 == 1

/-- A request to the owner of one lane's location, with what it releases: at its own scope, or, where it is relaxed, for each FENCE
before it at that FENCE's scope (R194, R198, R208). -/
def State.atomRequest (s : State) (op : AtomOp) (wide : Bool) (lane pa : Nat) (x y : DWord) (reg : Option Nat) : AtomReq :=
  { id := s.nextId, from_ := s.cur.key, core := s.wg.core, lane := lane, op := op, wide := wide,
    pa := pa, x := x, y := y, reg := reg, acq := s.cur.run.acq && reg.isSome, rel := s.cur.run.rel,
    scope := scopeOr 5 s.cur.run.sc, know := s.releaseKnow,
    rels := if s.cur.run.ord = 0 then s.cur.fenceRel.map (fun f => { know := f.know, scope := f.scope, party := s.me }) else [] }

/-- Sends one request; an ATOM leaves an entry in its window. -/
def State.sendAtom (s : State) (la : Nat) (r : AtomReq) : State :=
  let s := { s with nextId := s.nextId + 1, atomq := s.atomq ++ [r] }
  if r.reg.isSome then s.addPends [s.entry (some r.lane) la (.atom r.id)] else s

/-- The operand and the second operand of an atomic in lane j (R191). -/
def State.atomX (s : State) (r : Nat) (wide : Bool) (j : Nat) : DWord :=
  if wide then s.src64 j r else (s.src j r).setWidth 64

def State.atomY (s : State) (r : Nat) (wide : Bool) (j : Nat) : DWord :=
  if wide then s.src64 j (r + 2) else (s.src j (r + 1)).setWidth 64

/-- ATOM and RED (R191, R192, R195): requests leave in lane order; a release publishes at its scope first (R206). -/
def atomBody (ctl : Ctl) (op : AtomOp) (wide ret : Bool) (la r k o : Nat) (s : State) : Eff :=
  let on := s.cur.on ctl
  let n := if wide then 8 else 4
  let regs : List VReg := if wide then (if op = .cas then [(r, 4)] else [(r, 2)])
    else (if op = .cas then [(r, 1), (r + 1, 1)] else [(r, 1)])
  let la := if ret then la else 0
  laneLoads la on (if ret then [(r, if wide then 2 else 1)] else []) (regs ++ [(o, 1)]) (fun on s t =>
    let cmp := fun j => [(s.laneX o j).toNat, (s.atomX r wide j).toNat, if op = .cas then (s.atomY r wide j).toNat else 0]
    let rs := s.routes k (s.laneX o) n true (s.served on)
    match leaseRoute rs with
    | some ea => .lease ea s
    | none =>
      match s.pairMismatch on cmp with
      | some i => .trap causeShadow 0 (.ofNat 64 i) s
      | none =>
        let go := fun (t : State) =>
          let t := if t.cur.run.rel then t.publish (scopeOr 5 t.cur.run.sc) else t
          let t := match alignRoute rs with
            | some (j, ea) => t.addPends [t.entry (some j) la (.fault causeAlign ea)]
            | none => t
          (goodRoutes rs).foldl (fun t x => t.sendAtom la (t.atomRequest op wide x.1 x.2 (s.atomX r wide x.1)
            (if op = .cas then s.atomY r wide x.1 else 0) (if ret then some r else none))) t
        afterOwn (fun s e => (goodRoutes rs).any (fun x => s.touchesMem e x.2 n)) s t (fun t => .next (go t))) s

def atomForm (i : Instr) : Form := takesForm i (mORD + mSC) false false

/-- ATOM.add (R191). -/
def execAtomAdd (ctl : Ctl) (l : BitVec 4) (r : BitVec 5) (t : BitVec 3) (o : BitVec 6) (w : BitVec 1) (s : State) : Out :=
  issue (atomForm (.atomAdd ctl l r t o w)) ctl.sp s
    (atomBody ctl .add (w == 1) true l.toNat (2 * r.toNat) t.toNat o.toNat)

/-- ATOM.exch (R191). -/
def execAtomExch (ctl : Ctl) (l : BitVec 4) (r : BitVec 5) (t : BitVec 3) (o : BitVec 6) (w : BitVec 1) (s : State) : Out :=
  issue (atomForm (.atomExch ctl l r t o w)) ctl.sp s
    (atomBody ctl .exch (w == 1) true l.toNat (2 * r.toNat) t.toNat o.toNat)

/-- ATOM.cas (R191). -/
def execAtomCas (ctl : Ctl) (l : BitVec 4) (r : BitVec 5) (t : BitVec 3) (o : BitVec 6) (w : BitVec 1) (s : State) : Out :=
  issue (atomForm (.atomCas ctl l r t o w)) ctl.sp s
    (atomBody ctl .cas (w == 1) true l.toNat (2 * r.toNat) t.toNat o.toNat)

/-- ATOM.and (R191). -/
def execAtomAnd (ctl : Ctl) (l : BitVec 4) (r : BitVec 5) (t : BitVec 3) (o : BitVec 6) (w : BitVec 1) (s : State) : Out :=
  issue (atomForm (.atomAnd ctl l r t o w)) ctl.sp s
    (atomBody ctl .and (w == 1) true l.toNat (2 * r.toNat) t.toNat o.toNat)

/-- ATOM.or (R191). -/
def execAtomOr (ctl : Ctl) (l : BitVec 4) (r : BitVec 5) (t : BitVec 3) (o : BitVec 6) (w : BitVec 1) (s : State) : Out :=
  issue (atomForm (.atomOr ctl l r t o w)) ctl.sp s
    (atomBody ctl .or (w == 1) true l.toNat (2 * r.toNat) t.toNat o.toNat)

/-- ATOM.xor (R191). -/
def execAtomXor (ctl : Ctl) (l : BitVec 4) (r : BitVec 5) (t : BitVec 3) (o : BitVec 6) (w : BitVec 1) (s : State) : Out :=
  issue (atomForm (.atomXor ctl l r t o w)) ctl.sp s
    (atomBody ctl .xor (w == 1) true l.toNat (2 * r.toNat) t.toNat o.toNat)

/-- ATOM.min.s (R191). -/
def execAtomMinS (ctl : Ctl) (l : BitVec 4) (r : BitVec 5) (t : BitVec 3) (o : BitVec 6) (w : BitVec 1) (s : State) : Out :=
  issue (atomForm (.atomMinS ctl l r t o w)) ctl.sp s
    (atomBody ctl .minS (w == 1) true l.toNat (2 * r.toNat) t.toNat o.toNat)

/-- ATOM.max.s (R191). -/
def execAtomMaxS (ctl : Ctl) (l : BitVec 4) (r : BitVec 5) (t : BitVec 3) (o : BitVec 6) (w : BitVec 1) (s : State) : Out :=
  issue (atomForm (.atomMaxS ctl l r t o w)) ctl.sp s
    (atomBody ctl .maxS (w == 1) true l.toNat (2 * r.toNat) t.toNat o.toNat)

/-- ATOM.min.n (R191). -/
def execAtomMinN (ctl : Ctl) (l : BitVec 4) (r : BitVec 5) (t : BitVec 3) (o : BitVec 6) (w : BitVec 1) (s : State) : Out :=
  issue (atomForm (.atomMinN ctl l r t o w)) ctl.sp s
    (atomBody ctl .minN (w == 1) true l.toNat (2 * r.toNat) t.toNat o.toNat)

/-- ATOM.max.n (R191). -/
def execAtomMaxN (ctl : Ctl) (l : BitVec 4) (r : BitVec 5) (t : BitVec 3) (o : BitVec 6) (w : BitVec 1) (s : State) : Out :=
  issue (atomForm (.atomMaxN ctl l r t o w)) ctl.sp s
    (atomBody ctl .maxN (w == 1) true l.toNat (2 * r.toNat) t.toNat o.toNat)

/-- ATOM.fadd (R191, R193). -/
def execAtomFadd (ctl : Ctl) (l : BitVec 4) (r : BitVec 5) (t : BitVec 3) (o : BitVec 6) (w : BitVec 1) (s : State) : Out :=
  issue (atomForm (.atomFadd ctl l r t o w)) ctl.sp s
    (atomBody ctl .fadd (w == 1) true l.toNat (2 * r.toNat) t.toNat o.toNat)

/-- The operation of a RED (R195). -/
def redAtomOp (c : Nat) : AtomOp :=
  if c = 0 then .add else if c = 1 then .and else if c = 2 then .or else if c = 3 then .xor else if c = 4 then .minS
  else if c = 5 then .maxS else if c = 6 then .minN else if c = 7 then .maxN else .fadd

/-- RED accepts ORD with the value 00 or 10, and SC (R181, R195). -/
def redForm (i : Instr) : Form := takesForm i (0x800 + mSC) false false

/-- RED, 32-bit (R195). -/
def execRed32 (ctl : Ctl) (c : BitVec 4) (r : BitVec 6) (t : BitVec 3) (o : BitVec 6) (s : State) : Out :=
  issue (redForm (.red32 ctl c r t o)) ctl.sp s
    (atomBody ctl (redAtomOp c.toNat) false false 0 r.toNat t.toNat o.toNat)

/-- RED, 64-bit (R195). -/
def execRed64 (ctl : Ctl) (c : BitVec 4) (r : BitVec 6) (t : BitVec 3) (o : BitVec 6) (s : State) : Out :=
  issue (redForm (.red64 ctl c r t o)) ctl.sp s
    (atomBody ctl (redAtomOp c.toNat) true false 0 r.toNat t.toNat o.toNat)

/-! ### Phase boundaries and fences (R197 to R200) -/

/-- PHASE (R197). -/
def State.phaseAt (s : State) (scope : Nat) : State := (s.serveAllReds).syncPoint scope scope

/-- FENCE (R198): later relaxed writes carry this release; the releases that earlier relaxed reads met are acquired, where
the scope test passes. -/
def State.fenceAt (s : State) (scope : Nat) : State :=
  let s := s.phaseAt scope
  let g := s.cur
  let keep := g.fenceAcq.filter (fun r => !(reach r.scope r.party s.me && reach scope s.me r.party))
  let g := { g.takeRels g.fenceAcq true false scope s.me with fenceAcq := keep }
  s.setCur { g with fenceRel := { scope := scope, know := g.known } :: g.fenceRel.filter (fun f => f.scope ≠ scope) }

/-- PHASE (R197). -/
def execPhase (ctl : Ctl) (l : BitVec 4) (t : BitVec 3) (s : State) : Out :=
  issue (bareForm (.phase ctl l t) false false) ctl.sp s (underGuard ctl (fun s => .next (s.phaseAt t.toNat)))

/-- FENCE (R198). -/
def execFence (ctl : Ctl) (l : BitVec 4) (t : BitVec 3) (s : State) : Out :=
  issue (bareForm (.fence ctl l t) false false) ctl.sp s (underGuard ctl (fun s => .next (s.fenceAt t.toNat)))

/-- FENCE.e (R199): it completes once the group's earlier tagged stores have been performed; its lookahead lets on only what
touches no memory, tag, window or engine (R200). -/
def execFenceE (ctl : Ctl) (l : BitVec 4) (t : BitVec 3) (s : State) : Out :=
  issue (bareForm (.fenceE ctl l t) false false) ctl.sp s (underGuard ctl (fun s =>
    .next (s.addPends [s.entry none l.toNat (.fence t.toNat)])))

/-! ### Cache ranges (R201) -/

/-- The dirty bytes of the lines that overlap the range, published or not and of every group of the core, reach the L2. -/
def State.cacheRange (s : State) (lo len : Nat) : State :=
  let only := fun (w : Nat) => s.lineInRange lo len (w / 16)
  s.flushDirty s.wg.core only

def cacheBody (t o : Nat) (s : State) : Eff :=
  .next (s.cacheRange ((s.cur.tget t).base + s.cur.sget o).toNat ((s.cur.run.imm.map (·.toNat)).getD 64))

/-- CFLUSH (R201). -/
def execCflush (ctl : Ctl) (l : BitVec 4) (t : BitVec 3) (o : BitVec 6) (s : State) : Out :=
  issue (takesForm (.cflush ctl l t o) 0 false false) ctl.sp s (underGuard ctl (cacheBody t.toNat o.toNat))

/-- CINV (R201): the lines it drops are fetched again from where their bytes were written back. -/
def execCinv (ctl : Ctl) (l : BitVec 4) (t : BitVec 3) (o : BitVec 6) (s : State) : Out :=
  issue (takesForm (.cinv ctl l t o) 0 false false) ctl.sp s (underGuard ctl (cacheBody t.toNat o.toNat))

end Sys2Proof.Machine
end

