-- ==== Sys2Proof/Machine/Copy.lean ====
section
/-!
DEFINITION. Machine/Copy.lean: completion counters (R231, R232), the copy engine (R226 to R233), COPY, WAITGE and the posted
receive buffers of NPOST (R281, R282).
-/

namespace Sys2Proof.Machine

/-! ### Counters (R231) -/

/-- An increment of a completion counter by a party: a release at a scope that carries what it knows. -/
def State.increment (s : State) (pa inc : Nat) (know : Know) (scope : Nat) (party : Party) : State :=
  -- the stores that the issuing core's L1 holds of the counter come before it (R210)
  let s := match party with
    | .group _ core => (s.writeBack core (pa / 4)).writeBack core (pa / 4 + 1)
    | _ => s
  (s.rmw pa true (· + .ofNat 64 inc) party.owner party know [{ know := know, scope := scope, party := party }]).2.2

/-- The value of a counter that a party reads at its owner (R192, R213, R267). -/
def State.counterAt (s : State) (party : Party) (known : Know) (pa : Nat) : DWord :=
  (s.seesAt party.owner party known (pa / 4) true).1

/-- The same for a group. -/
def State.counterSeen (s : State) (g : Group) (pa : Nat) : DWord :=
  s.counterAt (s.partyIs g) (g.known.join g.seen) pa

/-- A satisfied counter wait of the current group: it has read the writes of the counter that it may read, and acquires at its scope
the releases that they carry (R220). -/
def State.acquireCounter (s : State) (pa scope : Nat) : State :=
  let w := pa / 4
  let known := s.cur.known.join s.cur.seen
  let g := s.cur.takeRels (s.seesAt (some s.owner) s.me known w true).2 true false scope s.me
  let note := fun (k : Know) w => let n := s.seesId (some s.owner) s.me known w; if n = 0 then k else k.raise w n
  (s.setCur { g with seen := note (note g.seen w) (w + 1) }).snapshot scope

/-! ### The command of COPY (R226, R227) -/

structure CopyCmd where
  src     : DWord
  dst     : DWord
  sstride : Nat
  rows    : Nat
  rowb    : Nat
  csc     : Nat
  zero    : Bool
  full    : Bool
  dkind   : Nat
  skind   : Nat
  dstride : Nat
  legal   : Bool
  deriving DecidableEq, Repr

/-- The fields of the four command registers, and whether they pass R226 and R227. -/
def copyCmd (a b c d : DWord) : CopyCmd :=
  let w2 := c.toNat
  let w3 := d.toNat
  let zero := fld w3 36 1 == 1
  let full := fld w3 33 1 == 1
  let dkind := fld w3 30 3
  let skind := fld w3 28 2
  { src := a, dst := b, sstride := fld w2 36 28, rows := fld w2 20 16, rowb := fld w2 0 20, csc := fld w3 37 3,
    zero := zero, full := full, dkind := dkind, skind := skind, dstride := fld w3 0 28,
    legal := fld w3 40 24 == 0 && fld w3 34 2 == 0 && fld w3 37 3 != 7 && dkind ≤ 4 &&
      !(zero && (skind != 0 || a != 0)) && !(full && dkind != 1) }

/-- R228: the first value that is not aligned, in the order of the check. -/
def CopyCmd.misaligned (c : CopyCmd) (ctr : DWord) : Option DWord :=
  if c.src.toNat % 4 ≠ 0 then some c.src
  else if c.dst.toNat % 4 ≠ 0 && c.dkind ≠ 4 then some c.dst
  else if c.sstride % 4 ≠ 0 then some (.ofNat 64 c.sstride)
  else if c.dstride % 4 ≠ 0 then some (.ofNat 64 c.dstride)
  else if c.rowb % 4 ≠ 0 then some (.ofNat 64 c.rowb)
  else if ctr.toNat % 8 ≠ 0 then some ctr else none

/-- A send queue that the operating system has opened for the launch and that is not in error (R230, R342). -/
def Launch.sendQueue (l : Launch) (n : Nat) : Option NetQueue :=
  l.queues.find? (fun q => q.spec.number == n && q.spec.send && !q.error)

def Launch.recvQueue (l : Launch) (n : Nat) : Option NetQueue :=
  l.queues.find? (fun q => q.spec.number == n && !q.spec.send)

/-- A send whose queue has timed out: no acknowledgement and no increment of it will come (R342). -/
def State.lapsed (s : State) (c : Copy) : Bool := c.sent.any (fun id => !s.outMsgs.any (fun m => m.id == id))

/-- Copies of a core in flight (R228). -/
def State.copiesOn (s : State) (core : Nat) : Nat := (s.copies.filter (fun c => c.core == core && !s.lapsed c)).length

/-- COPY (R266). -/
def copyBody (word n y : Nat) (s : State) : Eff :=
  let g := s.cur
  if g.sup then .trap causeIllegal 0 (.ofNat 64 word) s else
  let c := copyCmd (g.sget n) (g.sget (n + 1)) (g.sget (n + 2)) (g.sget (n + 3))
  let ctr := g.sget y
  if !c.legal then .trap causeIllegal 0 (.ofNat 64 (n + 3)) s
  else if c.dkind = 4 && c.dstride ≠ 0 then .trap causeIllegal 0 (.ofNat 64 (n + 3)) s
  else if c.dkind = 4 && 2 ^ 30 < c.rows * c.rowb then .trap causeIllegal 0 (.ofNat 64 (n + 2)) s
  else match c.misaligned ctr with
    | some v => .trap causeAlign 0 v s
    | none =>
      match s.viaTlb s.launch ctr.toNat 8 true with
      | none => .lease ctr s
      | some pa =>
        if c.dkind = 4 && (s.launch.sendQueue (c.dst.toNat % 65536)).isNone then .lease c.dst s
        else if 16 ≤ s.copiesOn s.wg.core then .wait .copySlot s
        else
          -- what the group did before comes before the issue (R204): its reductions, and in coherence order its stores
          let s := s.beforeTag
          let known := s.partners.foldl (fun (k : Know) g => k.join g.known) s.cur.known
          let k : Copy :=
            { id := s.nextId, core := s.wg.core, wg := s.wg.uid, launch := s.launch.uid, from_ := g.key, src := c.src,
              dst := c.dst, sstride := c.sstride, dstride := c.dstride, rows := c.rows, rowb := c.rowb, skind := c.skind,
              dkind := c.dkind, zero := c.zero, full := c.full, scope := scopeOr 5 c.csc, counter := pa, counterVa := ctr,
              inc := (g.run.imm.map (·.toNat)).getD 1, moved := [], data := [], known := known,
              fresh := known, sent := none }
          .next ({ s with nextId := s.nextId + 1, copies := s.copies ++ [k] }.traceCore 1 1 s.wg.core s.launch.ctx ctr
            (g.sget (n + 2)))

/-- COPY (R266). -/
def execCopy (ctl : Ctl) (l : BitVec 4) (x y : BitVec 6) (s : State) : Out :=
  issue (takesForm (.copy ctl l x y) 0 false false) ctl.sp s
    (underGuard ctl (copyBody (wordOf (.copy ctl l x y)) x.toNat y.toNat))

/-! ### The engine at work (R229, R230) -/

def Copy.words (c : Copy) : Nat := c.rows * (c.rowb / 4)

/-- The address of word k on each side. -/
def Copy.srcAt (c : Copy) (k : Nat) : DWord := c.src + .ofNat 64 (k / (c.rowb / 4) * c.sstride + 4 * (k % (c.rowb / 4)))
def Copy.dstAt (c : Copy) (k : Nat) : DWord := c.dst + .ofNat 64 (k / (c.rowb / 4) * c.dstride + 4 * (k % (c.rowb / 4)))

/-- The first of some values, or a free choice among them. -/
def State.chooseWord (s : State) (ws : List Word) : Word × State :=
  if ws.eraseDups.length ≤ 1 then (ws.headD 0, s) else (ws.getD (s.freeVal.toNat % ws.length) 0, s.tick)

/-- What the engine may read of a global word (R218): the newest write that is engine-visible to the command, or any later one
in the L2; dirty bytes may have left an L1 by then. -/
def State.engineRead (s : State) (w : Nat) (know : Know) : Word × State :=
  let s := s.evictions w
  let h := s.histOf w
  if h.vers.isEmpty then (s.word w, s) else
  let top := h.inL2.takeWhile (fun v => !know.covers v.syncs)
  s.chooseWord (top.map (·.val) ++ [((h.inL2.drop top.length).head?.map (·.val)).getD h.init])

/-- What the engine may read of a scratchpad word of a workgroup, in its allocation or its save area (R173, R218). -/
def State.engineReadPad (s : State) (u off : Nat) (know : Know) : Word × State :=
  match s.findWg u with
  | none => (0, s)
  | some w => match w.status with
    | .saved _ => (.ofNat 32 (bytesNat (s.wgPadRead u off 4)), s)
    | _ => s.chooseWord (w.padChoices know (off / 4))

/-- The source word of a copy: its value, whether it is poisoned; or none where the access ends the launch (R228). -/
def State.copySource (s : State) (c : Copy) (l : Launch) (k : Nat) : Option (Word × Bool × State) :=
  if c.zero then some (0, false, s) else
  let a := c.srcAt k
  if c.skind = 1 then
    if a.toNat + 4 ≤ ((s.findWg c.wg).getD .absent).size then
      let r := s.engineReadPad c.wg a.toNat c.fresh
      some (r.1, s.wgPadPoison c.wg a.toNat 4, r.2)
    else none
  else if c.skind = 2 then
    (s.windowAt l a 4 false).map (fun p =>
      let r := s.engineReadPad p.1 p.2 c.fresh
      (r.1, s.wgPadPoison p.1 p.2 4, r.2))
  else
    (s.viaTlb l a.toNat 4 false).map (fun pa =>
      let r := s.engineRead (pa / 4) c.fresh
      (r.1, s.memBad.contains (pa / 8), r.2))

/-- Poisons the unit of a scratchpad word. -/
def State.poisonPad (s : State) (u off : Nat) : State :=
  match s.findWg u with
  | none => s
  | some w => match w.status with
    | .saved _ => s.poisonMem ((w.padBase + off) / 4)
    | _ => s.onWg u (fun w => { w with padBad := insRising (off / 8) w.padBad })

def State.onCopy (s : State) (id : Nat) (f : Copy → Copy) : State :=
  { s with copies := s.copies.map (fun d => if d.id == id then f d else d) }

/-- The engine's tagged step on a word of its scratchpad (R208, R229): it acquires what earlier steps on the word released, and
releases in turn. -/
def State.engineTag (s : State) (c : Copy) (off : Nat) : State :=
  let w := (s.findWg c.wg).getD .absent
  let know := Know.join c.known (mapGet [] w.tagKnow (off / 4))
  let s := s.onWg c.wg (fun w => { (w.setTag (off / 4) true) with tagKnow := mapSet [] w.tagKnow (off / 4) know })
  { s.onCopy c.id (fun d => { d with known := d.known.join know }) with
    hist := publishHist s.hist none know { scope := 2, party := s.partyOf c.from_ c.core } [] }

/-- Writes the destination word of a copy; none where the access ends the launch. -/
def State.copyDest (s : State) (c : Copy) (l : Launch) (k : Nat) (x : Word) (bad : Bool) : Option State :=
  let a := c.dstAt k
  if c.dkind = 4 then
    some (s.onCopy c.id (fun d => { d with data := mapSet 0 d.data k x }))
  else if c.dkind = 1 then
    if a.toNat + 4 ≤ ((s.findWg c.wg).getD .absent).size then
      let s := s.wgPadWrite c.wg a.toNat (natBytes x.toNat 4)
      let s := if bad then s.poisonPad c.wg a.toNat else s
      some (if c.full then s.engineTag c a.toNat else s)
    else none
  else if c.dkind = 2 then
    (s.windowAt l a 4 true).map (fun p =>
      let s := s.wgPadWrite p.1 p.2 (natBytes x.toNat 4)
      if bad then s.poisonPad p.1 p.2 else s)
  else
    (s.viaTlb l a.toNat 4 true).map (fun pa =>
      -- the stores that happen before the copy come before its write (R210)
      let before := (s.histOf (pa / 4)).inL1.any (fun v => v.core == c.core && (mapGet [] c.known (pa / 4)).contains v.id)
      let s := (if before then s.writeBack c.core (pa / 4) else s).engineWrite (pa / 4) x
      let s := s.onCopy c.id (fun d => { d with known := d.known.raise (pa / 4) (s.lastWrite (pa / 4)) })
      if bad then s.poisonMem (pa / 4) else s)

/-- A copy that stops at an access outside the lease or the allocation: the launch ends with LEASE, and the command with it
(R178, R228). -/
def State.copyLease (s : State) (c : Copy) (a : DWord) : State :=
  let s := { s with copies := s.copies.filter (fun d => d.id ≠ c.id) }
  (s.endLaunch c.launch causeLease).traceCore 1 4 c.core (((s.findLaunch c.launch).getD .absent).ctx) a 0

/-- Does word k of a copy wait for a link (R334)? -/
def State.copyWaits (s : State) (c : Copy) (l : Launch) (k : Nat) : Bool :=
  let die := dieOf c.core
  let far := fun (kind : Nat) (a : DWord) =>
    if kind = 0 || kind = 3 then (s.translate l.ctx a.toNat).any (s.wayWaits die)
    else if kind = 2 then (s.windowAt l a 4 false).any (fun p => s.linkWaits die (dieOf ((s.findWg p.1).getD .absent).core))
    else false
  s.links.any (·.2.retrain) && ((!c.zero && far c.skind (c.srcAt k)) || far c.dkind (c.dstAt k))

/-- The engine moves word k of a copy (R229). -/
def State.copyWord (s : State) (id k : Nat) : State :=
  match s.copies.find? (fun c => c.id == id) with
  | none => s
  | some c =>
    let l := (s.findLaunch c.launch).getD .absent
    if c.words ≤ k || c.moved.contains k || c.sent.isSome || s.copyWaits c l k then s else
    let s := if c.moved.isEmpty then s.traceCore 1 2 c.core l.ctx c.src c.dst else s
    match s.copySource c l k with
    | none => s.copyLease c (c.srcAt k)
    | some (x, bad, s) =>
      let s := s.onCopy id (fun d => { d with moved := k :: d.moved })
      match s.copyDest c l k x bad with
      | none => s.copyLease c (c.dstAt k)
      | some s => s

/-- The engine moves every word that is left, in order. -/
def State.copyRest (s : State) (id n : Nat) : State := (List.range n).foldl (fun s k => s.copyWord id k) s

/-- The counter increment of a copy, and its end (R229): it publishes what the copy wrote and what happens before (R207,
R217). -/
def State.copyDone (s : State) (c : Copy) : State :=
  let party := s.partyOf c.from_ c.core
  let wide := 3 ≤ c.scope
  let known := if wide then c.known.raise syncKey s.nextId else c.known
  let s := if c.scope ≤ 1 then s else
    { s with hist := publishHist s.hist none c.known { scope := c.scope, party := party } (if wide then [s.nextId] else []),
             nextId := s.nextId + 1 }
  let s := s.increment c.counter c.inc known c.scope party
  let s := { s with copies := s.copies.filter (fun d => d.id ≠ c.id) }
  s.traceCore 1 3 c.core (((s.findLaunch c.launch).getD .absent).ctx) c.counterVa (s.counterAt party known c.counter)

/-- The packets of a message: at most 4,096 bytes each, in byte order (R341). -/
def packetsOf : Nat → List Byte → List (List Byte)
  | 0, _ => []
  | n + 1, bs => bs.take 4096 :: packetsOf n (bs.drop 4096)

/-- The port of a message: the one that its queue names, or any healthy one, as a free value says (R339). -/
def State.portOf (s : State) (p : Option Nat) : Option Nat × State :=
  let up := (List.range 12).filter (fun i => s.cap.ports.getLsbD i)
  match p with
  | some i => (some i, s)
  | none => if up.length ≤ 1 then (up.head?, s) else (up[s.freeVal.toNat % up.length]?, s.tick)

/-- Hands a message to the network, packet by packet (R341). -/
def State.sendMessage (s : State) (c : Copy) : State :=
  let q := c.dst.toNat % 65536
  let bs := ((List.range c.words).map (fun k => natBytes (mapGet 0 c.data k).toNat 4)).flatten
  let l := (s.findLaunch c.launch).getD .absent
  match s.portOf ((l.queues.find? (fun x => x.spec.number == q && x.spec.send)).bind (fun x => x.spec.port)) with
  | (none, s) => s
  | (some port, s) =>
    let m : OutMsg :=
      { id := s.nextId, copy := c.id, launch := c.launch, queue := q, arg := c.dst.toNat / 65536, port := port,
        packets := packetsOf ((bs.length + 4095) / 4096) bs, sentAt := s.time.now, retry := 0, next := none }
    let s := { s with nextId := s.nextId + 1, outMsgs := s.outMsgs ++ [m],
                      copies := (s.onCopy c.id (fun d => { d with sent := some m.id })).copies }
    s.trace 7 1 4 none none l.ctx (.ofNat 64 (q + 65536 * port)) (.ofNat 64 (c.rows * c.rowb))

/-! ### WAITGE (R267) -/

/-- WAITGE; cont is where a wait that stopped goes on. -/
def waitgeBody (word x y : Nat) (cont : State → DWord) (s : State) : Eff :=
  let g := s.cur
  if g.sup then .trap causeIllegal 0 (.ofNat 64 word) s else
  let a := g.sget x
  if a.toNat % 8 ≠ 0 then .trap causeAlign 0 a s else
  match s.viaTlb s.launch a.toNat 8 false with
  | none => .lease a s
  | some pa =>
    let scope := scopeOr 5 g.run.sc
    -- what the group did to the counter before comes first (R210), its reductions too (R204)
    afterOwn (fun s e => s.touchesMem e pa 8) s s (fun s =>
      let s := s.serveAllReds.flushOwn s.owner s.wg.core (pa / 4) 2
      if (g.sget y).toNat ≤ (s.counterSeen s.cur pa).toNat then .next (s.acquireCounter pa scope)
      else .wait (.counter pa (g.sget y) scope (cont s)) s)

/-- WAITGE (R267). -/
def execWaitge (ctl : Ctl) (x y : BitVec 6) (s : State) : Out :=
  issue { bareForm (.waitge ctl x y) false false with mods := mSC } ctl.sp s
    (underGuard ctl (waitgeBody (wordOf (.waitge ctl x y)) x.toNat y.toNat (fun s => s.cur.pc + 4)))

/-- WAITGE with continuation (R232, R267): without IMM the word is illegal. -/
def execWaitgeContinuation (ctl : Ctl) (x y : BitVec 6) (s : State) : Out :=
  issue { takesForm (.waitgeContinuation ctl x y) mSC false false with
      legal := wellFormed (.waitgeContinuation ctl x y) && s.cur.run.imm.isSome } ctl.sp s
    (underGuard ctl (waitgeBody (wordOf (.waitgeContinuation ctl x y)) x.toNat y.toNat
      (fun s => s.cur.pc + .ofInt 64 (4 * s.cur.run.immInt.getD 0))))

/-- Is a group's counter wait satisfied (R232)? -/
def State.counterReady (s : State) (g : Group) : Bool :=
  match g.wait with
  | .counter pa target _ _ => target.toNat ≤ (s.counterSeen g pa).toNat
  | _ => false

/-- The current group's counter wait ends: the acquire, then the next word or the continuation (R232, R267). -/
def State.finishCounter (s : State) : State :=
  match s.cur.wait with
  | .counter pa _ scope cont =>
    let s := s.acquireCounter pa scope
    if canonical cont then s.setCur (s.cur.complete s.cur.act s.cur.waitSp cont)
    else s.raise causePcWrap 0 cont s.cur.runFirst s.cur.runFirst s.cur.runFirst
  | _ => s

/-! ### NPOST (R281, R282) -/

/-- The operation of a descriptor (R281). -/
def netOpOf (n : Nat) : NetOp := if n = 0 then .send else if n = 1 then .tagged else .rma

/-- The index of the first descriptor word that breaks R281. -/
def descriptorBad (w1 w2 w3 : Nat) : Option Nat :=
  if fld w1 42 6 ≠ 0 || fld w1 32 8 ≠ 0 || fld w1 40 2 = 3 || fld w1 0 32 = 0 || fld w1 0 32 % 4 ≠ 0 then some 1
  else if fld w2 48 16 ≠ 0 || (fld w1 40 2 = 0 && fld w2 0 48 ≠ 0) then some 2
  else if fld w3 32 32 ≠ 0 then some 3 else none

/-- NPOST (R281, R282); a buffer that is not a multiple of 64 traps ALIGN (log entry 22). -/
def npostBody (word x y : Nat) (s : State) : Eff :=
  let g := s.cur
  if g.sup then .trap causeIllegal 0 (.ofNat 64 word) s else
  let a := g.sget x
  let ctr := g.sget y
  if a.toNat % 32 ≠ 0 then .trap causeAlign 0 a s
  else if ctr.toNat % 8 ≠ 0 then .trap causeAlign 0 ctr s
  else match s.viaTlb s.launch a.toNat 32 false with
    | none => .lease a s
    | some pa =>
      let (bs, s) := s.serveAllReds.gread pa 32
      let w := fun i => bytesNat ((bs.drop (8 * i)).take 8)
      match descriptorBad (w 1) (w 2) (w 3) with
      | some i => .trap causeIllegal 0 (.ofNat 64 i) s
      | none =>
        let buf : DWord := .ofNat 64 (w 0)
        if w 0 % 64 ≠ 0 then .trap causeAlign 0 buf s
        else if (s.launch.recvQueue (fld (w 1) 48 16)).isNone then .lease buf s
        else if !s.launch.grants (w 0) (fld (w 1) 0 32) true then .lease buf s
        else match s.viaTlb s.launch ctr.toNat 8 true with
          | none => .lease ctr s
          | some cpa =>
            let p : Posted :=
              { queue := fld (w 1) 48 16, op := netOpOf (fld (w 1) 40 2), buf := buf, length := fld (w 1) 0 32,
                tag := fld (w 2) 0 48, inc := fld (w 3) 0 32, counter := cpa }
            if 256 ≤ (s.launch.posted.filter (fun q => q.queue == p.queue)).length then .wait (.posted p.queue) s
            else .next { s with launch := { s.launch with posted := s.launch.posted ++ [p] } }

/-- The word of NPOST (R262). -/
def npostWord (ctl : Ctl) (l : BitVec 4) (x y : BitVec 6) : Nat :=
  0xF0008000 + ctl.bits + l.toNat * 131072 + x.toNat * 256 + y.toNat * 4

/-- NPOST (R281). -/
def execNpost (ctl : Ctl) (l : BitVec 4) (x y : BitVec 6) (s : State) : Out :=
  issue { word := npostWord ctl l x y, legal := true, imm := .none, mods := 0, sxSat := false, heldOk := false,
          sliceOk := false } ctl.sp s
    (underGuard ctl (npostBody (npostWord ctl l x y) x.toNat y.toNat))

end Sys2Proof.Machine
end

