-- ==== Sys2Proof/Machine/Cross.lean ====
section
/-!
DEFINITION. Machine/Cross.lean: cross-lane words (R141 to R146).
-/

namespace Sys2Proof.Machine

/-- The source value of visible lane i for a register (R141): 0 where the lane holds no thread. -/
def State.crossSrc (s : State) (i r : Nat) : Word :=
  if (s.cur.lane (s.physLane i)).thread.isNone then 0 else s.src (s.physLane i) r

/-- LGET's source lane (R142); none where it falls outside the group. -/
def lgetLane (fn W i n : Nat) : Option Nat :=
  if fn = 0 then some (n % W)
  else if fn = 1 then (if n ≤ i then some (i - n) else none)
  else if fn = 2 then (if i + n < W then some (i + n) else none)
  else (if i ^^^ n < W then some (i ^^^ n) else none)

/-- Does a source that a cross-lane word reads in visible lane i lie in an uncorrectable unit (R319)? -/
def State.crossBad (s : State) (i r : Nat) : Bool :=
  (s.cur.lane (s.physLane i)).thread.isSome && !s.isQueue (r, 1) && (s.cur.lane (s.physLane i)).bad.contains r

def lget (c : Ctl) (fn d a b : Nat) (s : State) : Eff :=
  let on := s.cur.on c
  laneStart on [(d, 1)] ((a, 1) :: s.bSrc b 1) (fun s t =>
    let from_ := fun j => lgetLane fn s.visW (s.laneId j) (s.bLane j b).toNat
    -- a lane reads its own b, and a of the lane it names, or its own
    let bad := (s.poisonReg on (s.bSrc b 1)).orElse (fun _ =>
      if on.any (fun j => match from_ j with
        | none => !s.isQueue (a, 1) && (s.cur.lane j).bad.contains a
        | some i => s.crossBad i a) then some a else none)
    poisonFirst s bad (.next (t.setCur (t.cur.putLanes on d (fun j =>
      match from_ j with
      | none => s.src j a
      | some i => s.crossSrc i a))))) s

/-- LGET_AT (R142). -/
def execLgetAt (ctl : Ctl) (d a b : BitVec 6) (s : State) : Out :=
  issue (laneForm (.lgetAt ctl d a b) b.toNat mBU false) ctl.sp s
    (lget ctl 0 d.toNat a.toNat b.toNat)

/-- LGET_LO (R142). -/
def execLgetLo (ctl : Ctl) (d a b : BitVec 6) (s : State) : Out :=
  issue (laneForm (.lgetLo ctl d a b) b.toNat mBU false) ctl.sp s
    (lget ctl 1 d.toNat a.toNat b.toNat)

/-- LGET_HI (R142). -/
def execLgetHi (ctl : Ctl) (d a b : BitVec 6) (s : State) : Out :=
  issue (laneForm (.lgetHi ctl d a b) b.toNat mBU false) ctl.sp s
    (lget ctl 2 d.toNat a.toNat b.toNat)

/-- LGET_XR (R142). -/
def execLgetXr (ctl : Ctl) (d a b : BitVec 6) (s : State) : Out :=
  issue (laneForm (.lgetXr ctl d a b) b.toNat mBU false) ctl.sp s
    (lget ctl 3 d.toNat a.toNat b.toNat)

/-- The visible lanes with Act(t). -/
def State.onVisible (s : State) (c : Ctl) : List Nat := (s.cur.on c).filter s.visible

/-- BALLOT's bits: visible lane i where its thread acts and the predicate is true (R143). -/
def State.ballot (s : State) (c : Ctl) (p : Nat) : Mask :=
  (s.onVisible c).foldl (fun m j => if s.cur.pget j p then setBit m (s.laneId j) true else m) 0

def ballotBody (c : Ctl) (d p : Nat) (s : State) : Eff :=
  if (s.cur.on c).isEmpty then .next s
  else
    let m := s.ballot c p
    if s.visW ≤ 64 then .next (s.setCur (s.cur.sset d (m.setWidth 64)))
    else if d % 2 = 1 then .trap causeIllegal 0 (.ofNat 64 d) s
    else .next (s.setCur ((s.cur.sset d (m.setWidth 64)).sset (d + 1) ((m >>> 64).setWidth 64)))

/-- VOTE over the threads that act (R144); with none the predicate keeps its value (R141). -/
def voteBody (c : Ctl) (q p : Nat) (f : List Bool → Bool) (s : State) : Eff :=
  if (s.cur.on c).isEmpty then .next s
  else .next (s.setCur (s.cur.cset q (f ((s.onVisible c).map (fun j => s.cur.pget j p)))))

/-- BALLOT (R143). -/
def execBallot (ctl : Ctl) (d : BitVec 6) (p : BitVec 3) (s : State) : Out :=
  issue (bareForm (.ballot ctl d p) true false) ctl.sp s
    (ballotBody ctl d.toNat p.toNat)

/-- VOTE_ANY (R144). -/
def execVoteAny (ctl : Ctl) (q p : BitVec 3) (s : State) : Out :=
  issue (bareForm (.voteAny ctl q p) true false) ctl.sp s
    (voteBody ctl q.toNat p.toNat (fun l => l.any id))

/-- VOTE_ALL (R144). -/
def execVoteAll (ctl : Ctl) (q p : BitVec 3) (s : State) : Out :=
  issue (bareForm (.voteAll ctl q p) true false) ctl.sp s
    (voteBody ctl q.toNat p.toNat (fun l => l.all id))

/-- VOTE_SAME (R144). -/
def execVoteSame (ctl : Ctl) (q p : BitVec 3) (s : State) : Out :=
  issue (bareForm (.voteSame ctl q p) true false) ctl.sp s
    (voteBody ctl q.toNat p.toNat (fun l => l.all id || !l.any id))

/-! ### GRED and GSCAN (R107, R146) -/

/-- One operation of the tree with its flags (R107, R37). -/
def redOp (ty op : Nat) (num : Bool) (x y : Word) : Word × DWord :=
  if ty = 2 then
    let z := if op = 0 then fAdd f32 .rne x.toNat y.toNat else fMinMax f32 (op == 2) num x.toNat y.toNat
    (.ofNat 32 z.1, z.2)
  else
    (if op = 0 then x + y
     else if op = 1 then (if ty = 0 then (if y.toInt < x.toInt then y else x) else (if y.toNat < x.toNat then y else x))
     else if op = 2 then (if ty = 0 then (if x.toInt < y.toInt then y else x) else (if x.toNat < y.toNat then y else x))
     else if op = 3 then x &&& y else if op = 4 then x ||| y else x ^^^ y, 0)

/-- The identity of a type and operation (R107). -/
def redIdentity (ty op : Nat) : Word :=
  if ty = 2 then (if op = 0 then 0x80000000 else if op = 1 then 0x7F800000 else 0xFF800000)
  else if ty = 0 then (if op = 0 then 0 else if op = 1 then 0x7FFFFFFF else 0x80000000)
  else if ty = 1 then (if op = 1 then 0xFFFFFFFF else 0)
  else (if op = 3 then 0xFFFFFFFF else 0)

/-- A node with the flags gathered below it. -/
def node (f : Word → Word → Word × DWord) (x y : Word × DWord) : Word × DWord :=
  let z := f x.1 y.1
  (z.1, x.2 ||| y.2 ||| z.2)

/-- One level up: neighbours combine, the lower lanes on the left. -/
def pairUp (f : Word → Word → Word × DWord) : List (Word × DWord) → List (Word × DWord)
  | x :: y :: r => node f x y :: pairUp f r
  | r => r

/-- N(0) to N(n), as lists (R107). -/
def levels (f : Word → Word → Word × DWord) : Nat → List (Word × DWord) → List (List (Word × DWord))
  | 0, l => [l]
  | n + 1, l => l :: levels f n (pairUp f l)

/-- The fold of one lane over the nodes that tile lanes 0 to i, largest block first: from level k down, start lanes
already covered. -/
def scanFold (f : Word → Word → Word × DWord) (ls : List (List (Word × DWord))) (i : Nat) :
    Nat → Nat → Option (Word × DWord) → Option (Word × DWord)
  | 0, _, acc => acc
  | k + 1, start, acc =>
    if start + 2 ^ k ≤ i + 1 then
      let n := (ls.getD k []).getD (start / 2 ^ k) (0, 0)
      scanFold f ls i k (start + 2 ^ k) (some (match acc with | none => n | some a => node f a n))
    else scanFold f ls i k start acc

/-- What GSCAN delivers to a lane: a leaf that no operation has touched is a floating-point result too, so that a NaN becomes the
canonical one (R90). -/
def scanResult (ty : Nat) (x : Word) : Word :=
  if ty = 2 && (f32.decode x.toNat).isNan then .ofNat 32 f32.nanBits else x

/-- GRED and GSCAN: the flags are those of every node of the tree and of the folds of the lanes that act (R107; log entry 12). -/
def redBody (c : Ctl) (isScan : Bool) (d a ty op : Nat) (s : State) : Eff :=
  laneBody (s.cur.on c) [(d, 1)] [(a, 1)] (fun s t =>
    let on := s.cur.on c
    let f := redOp ty op s.cur.run.mn
    let k := log2Upto 7 s.visW
    let ls := levels f k ((List.range s.visW).map (fun i =>
      (if on.contains (s.physLane i) then s.src (s.physLane i) a else redIdentity ty op, 0)))
    let root := (ls.getD k []).headD (0, 0)
    let r := fun j => if isScan then (scanFold f ls (s.laneId j) (k + 1) 0 none).getD root else root
    .next (t.setCur ((t.cur.putLanes on d (fun j => if isScan then scanResult ty (r j).1 else (r j).1)).flag
      (root.2 ||| flagsOf (on.map (fun j => (r j).2)))))) s

/-- R130: MN with an f32 minimum or maximum alone. -/
def redMods (ty op : Nat) : Nat := if ty = 2 && (op = 1 || op = 2) then mMN else 0

/-- GRED (R107, R146). -/
def execGred (ctl : Ctl) (d a : BitVec 6) (t o : BitVec 3) (s : State) : Out :=
  issue (laneNoImm (.gred ctl d a t o) (redMods t.toNat o.toNat) false) ctl.sp s
    (redBody ctl false d.toNat a.toNat t.toNat o.toNat)

/-- GSCAN (R107, R146). -/
def execGscan (ctl : Ctl) (d a : BitVec 6) (t o : BitVec 3) (s : State) : Out :=
  issue (laneNoImm (.gscan ctl d a t o) (redMods t.toNat o.toNat) false) ctl.sp s
    (redBody ctl true d.toNat a.toNat t.toNat o.toNat)

/-- One masked stage of a butterfly (R145). -/
def bxchOp (k i : Nat) (m x y : Word) : Word :=
  if i &&& k = 0 then (x &&& ~~~(m <<< k)) ||| ((y &&& m) <<< k) else (x &&& ~~~m) ||| ((y >>> k) &&& m)

/-- BXCH (R145). -/
def execBxch (ctl : Ctl) (d a m : BitVec 6) (k : BitVec 3) (s : State) : Out :=
  issue (bareForm (.bxch ctl d a m k) true false) ctl.sp s
    (fun s => laneBody (s.cur.on ctl) [(d.toNat, 1)] [(a.toNat, 1)] (fun s t =>
      let st := 2 ^ k.toNat
      let mask : Word := (s.cur.sget m.toNat).setWidth 32
      let bad := if (s.cur.on ctl).any (fun j => s.laneId j ^^^ st < s.visW && s.crossBad (s.laneId j ^^^ st) a.toNat)
        then some a.toNat else none
      poisonFirst s bad (.next (t.setCur (t.cur.putLanes (s.cur.on ctl) d.toNat (fun j =>
        let i := s.laneId j
        let x := s.src j a.toNat
        if s.visW ≤ i ^^^ st then x else bxchOp st i mask x (s.crossSrc (i ^^^ st) a.toNat)))))) s)

end Sys2Proof.Machine
end

