-- ==== Sys2Proof/Machine/Matrix.lean ====
section
/-!
DEFINITION. Machine/Matrix.lean: the matrix engine (R104 to R106, R234 to R237, R269 to R276): joint issue, entry, service, and
the words that reach it.
-/

namespace Sys2Proof.Machine

/-! ### Frames (R236, R270) -/

/-- Marks of poison in a frame: an index below 20,480 is a poisoned element (the accumulator's 4,096, then the planes'); the
same index above that mark is an element that reads 0 (R272, R319). -/
def zeroMark : Nat := 32768

def Frame.accAt (f : Frame) (e : Nat) : Word := if f.bad.contains (zeroMark + e) then 0 else mapGet 0 f.acc e
def Frame.planeAt (f : Frame) (b e : Nat) : Word :=
  if f.bad.contains (zeroMark + 4096 * (b + 1) + e) then 0 else mapGet 0 f.planes (4096 * b + e)

/-- A map from the values of a range of elements. -/
def tabulate (n : Nat) (v : Nat → Word) : SMap Word := ((List.range n).map (fun e => (e, v e))).filter (fun p => p.2 ≠ 0)

/-- A frame that no quad owns and that is not held for a reload. -/
def Core.freeFrames (c : Core) : List Nat :=
  (List.range 64).filter (fun i => (c.frame i).owner.isNone && (c.frame i).held.isNone)

/-- The frame that a quad's tile holds. -/
def Core.frameOf (c : Core) (u quad tile : Nat) : Option Nat :=
  (List.range 64).find? (fun i => match (c.frame i).owner with
    | some o => o.wg == u && o.quad == quad && o.tile == tile
    | none => false)

/-! ### What a command computes (R104 to R106, R270 to R272) -/

/-- A finite exact sum of two values, +0 when it vanishes. -/
def addFin (x y : FVal) : FVal :=
  match x, y with
  | .fin n1 m1 e1, .fin n2 m2 e2 =>
    let (n, m, e) := exactAdd .rne n1 m1 e1 n2 m2 e2
    .fin (n && m != 0) m e
  | _, _ => x

/-- The block sum S of R104, with the non-finite cases of R105. An S of 0 is +0, also where every product is -0: R105 has S exact and
does not give its sign (DESIGN CHOICE, log entry 71). -/
def blockSum (ps : List (FVal × FVal)) : FVal :=
  let prods := ps.map (fun p => mulVal p.1 p.2)
  if ps.any (fun p => p.1.isNan || p.2.isNan) || prods.any (fun p => p.1.isNan || p.2) then .nan false else
  let pos := prods.any (fun p => match p.1 with | .inf n => !n | _ => false)
  let neg := prods.any (fun p => match p.1 with | .inf n => n | _ => false)
  if pos && neg then .nan false
  else if pos then .inf false
  else if neg then .inf true
  else prods.foldl (fun s p => addFin s p.1) (.fin false 0 0)

/-- Acc + S with one rounding (R104, R105). A scale of 0 leaves Acc as it was but for -0 (R106); where Acc is a NaN that is not the
canonical one, the sum delivers the canonical NaN, as R90 has of every result (DESIGN CHOICE, log entry 61). -/
def accAdd (acc : Word) (x : FVal) : Word := .ofNat 32 (fAddVal f32 .rne (f32.decode acc.toNat) x).1

/-- The format of a command's operands: element bytes and the decoder of a code. -/
def MatWord.elemBytes (w : MatWord) : Nat := if w.major = 0x37 then 1 else if w.y = 0x22 then 4 else 2
def MatWord.decodeElem (w : MatWord) (code : Nat) : FVal :=
  if w.major = 0x37 then (b8Of (w.y % 32)).decode ((b8Of (w.y % 32)).subst code)
  else if w.y = 0x20 then f16.decode code else if w.y = 0x21 then bf16.decode code else f32.decode code

/-- K, the blocks, and the tile that a command names. -/
def MatWord.kSize (w : MatWord) : Nat := 64 * 2 ^ w.k
def MatWord.blocks (w : MatWord) : Nat := 2 ^ w.k
def MatWord.isMma (w : MatWord) : Bool := w.major == 0x37 || w.major == 0x38
def MatWord.tile (w : MatWord) : Nat := if w.isMma then w.fn else w.y % 8
def MatWord.offA (w : MatWord) : Nat := w.x.toNat % 2 ^ 32
def MatWord.offB (w : MatWord) : Nat := w.x.toNat / 2 ^ 32

/-- The operand element at a row (or column) and k. -/
def elemAt (pad : Nat → Nat → List Byte) (w : MatWord) (base row k : Nat) : FVal :=
  w.decodeElem (bytesNat (pad (base + (row * w.kSize + k) * w.elemBytes) w.elemBytes))

/-- Does a row's block touch poison? -/
def rowPoison (bad : Nat → Nat → Bool) (w : MatWord) (base row b : Nat) : Bool :=
  bad (base + (row * w.kSize + 64 * b) * w.elemBytes) (64 * w.elemBytes)

/-- The block sum of element e. -/
def mmaSum (pad : Nat → Nat → List Byte) (w : MatWord) (b e : Nat) : FVal :=
  blockSum ((List.range 64).map (fun k =>
    (elemAt pad w w.offA (e / 64) (64 * b + k), elemAt pad w w.offB (e % 64) (64 * b + k))))

/-- The scaled term of MSCL for element e in block b, +0 where it vanishes (R106). -/
def scaleTerm (pad : Nat → Nat → List Byte) (w : MatWord) (f : Frame) (b e : Nat) : FVal :=
  let sa := s16Val (bytesNat (pad (w.offA + 128 * b + 2 * (e / 64)) 2))
  let sb := s16Val (bytesNat (pad (w.offB + 128 * b + 2 * (e % 64)) 2))
  if sa.1 * sb.1 = 0 then .fin false 0 0 else
  match f32.decode (f.planeAt b e).toNat with
  | .fin n m x => .fin (n && m != 0) (sa.1 * sb.1 * m) (sa.2 + sb.2 + x)
  | v => v

/-- What a command makes of the value of accumulator element e (R104, R106, R270 to R272). -/
def elemStep (pad : Nat → Nat → List Byte) (w : MatWord) (f : Frame) (e : Nat) (a : Word) : Word :=
  if w.major = 0x38 then (List.range w.blocks).foldl (fun a b => accAdd a (mmaSum pad w b e)) a
  else if w.major = 0x37 then a
  else if w.fn = 0 then (List.range f.nb).foldl (fun a b => accAdd a (scaleTerm pad w f b e)) a
  else if w.fn = 1 then 0
  else if w.fn = 2 then .ofNat 32 (bytesNat (pad (w.offA + 4 * e) 4)) else a

/-- MMA (R270): the frame after it, and the elements that poisoned operand words make read 0 (R319), those of plane b counted from
4096 × (b + 1). -/
def mmaFrame (pad : Nat → Nat → List Byte) (bad : Nat → Nat → Bool) (w : MatWord) (f : Frame) : Frame × List Nat :=
  let nb := w.blocks
  let hit := fun b e => rowPoison bad w w.offA (e / 64) b || rowPoison bad w w.offB (e % 64) b
  if w.major = 0x38 then
    let marks := (List.range 4096).filter (fun e => (List.range nb).any (fun b => hit b e))
    let acc := tabulate 4096 (fun e => elemStep pad w f e (f.accAt e))
    ({ f with acc := acc, bad := f.bad ++ marks.map (zeroMark + ·) }, marks)
  else
    let marks := ((List.range (4096 * nb)).filter (fun i => hit (i / 4096) (i % 4096))).map (4096 + ·)
    let planes := tabulate (4096 * 4) (fun i =>
      if i < 4096 * nb then
        .ofNat 32 (FFmt.ofVal f32 .rne (mmaSum pad w (i / 4096) (i % 4096)) false).1
      else mapGet 0 f.planes i)
    let fresh := fun (m : Nat) => 4096 ≤ m % zeroMark && m % zeroMark < 4096 * (nb + 1)
    ({ f with planes := planes, nb := nb,
              bad := f.bad.filter (fun m => !fresh m) ++ marks.map (zeroMark + ·) }, marks)

/-- MSCL (R271). -/
def msclFrame (pad : Nat → Nat → List Byte) (bad : Nat → Nat → Bool) (w : MatWord) (f : Frame) : Frame × List Nat :=
  -- a poisoned element of a plane is an operand word too
  let hit := fun b e => bad (w.offA + 128 * b + 2 * (e / 64)) 2 || bad (w.offB + 128 * b + 2 * (e % 64)) 2 ||
    f.bad.contains (4096 * (b + 1) + e)
  let marks := (List.range 4096).filter (fun e => (List.range f.nb).any (fun b => hit b e))
  let acc := tabulate 4096 (fun e => elemStep pad w f e (f.accAt e))
  ({ f with acc := acc, planes := [], nb := 0,
            bad := f.bad.filter (fun m => m % zeroMark < 4096) ++ marks.map (zeroMark + ·) }, marks)

/-- MZERO and ACCLD write every element of the accumulator; an element that reads 0 for its poison goes on so until an ACCLD
without poison (R272). -/
def mzeroFrame (f : Frame) : Frame := { f with acc := [], bad := f.bad.filter (4096 ≤ ·) }
def accldFrame (pad : Nat → Nat → List Byte) (bad : Nat → Nat → Bool) (off : Nat) (f : Frame) : Frame × List Nat :=
  let marks := (List.range 4096).filter (fun e => bad (off + 4 * e) 4)
  ({ f with acc := tabulate 4096 (fun e => .ofNat 32 (bytesNat (pad (off + 4 * e) 4))),
            bad := f.bad.filter (fun m => 4096 ≤ m % zeroMark) ++ marks.map (zeroMark + ·) }, marks)

/-- The element before a command of the past, and whether it was poison. -/
def Past.accAt (p : Past) (e : Nat) : Word × Bool :=
  (if p.bad.contains (zeroMark + e) then 0 else mapGet 0 p.acc e, p.bad.contains e)

/-- What ACCST stores for an element: a value after some number of the commands that no MWAIT of the quad covers (R222). -/
def State.accstPick (s : State) (f : Frame) (floor e : Nat) : (Word × Bool) × State :=
  let now := (f.accAt e, f.bad.contains e)
  let ch := now :: (f.past.filter (fun p => floor ≤ p.serial)).map (·.accAt e)
  if ch.all (· == now) then (now, s) else (ch.getD (s.freeVal.toNat % ch.length) now, s.tick)

/-- ACCST (R272): the image is written element by element; poison moves as poison. -/
def State.accstImage (s : State) (u off floor : Nat) (f : Frame) : State :=
  (List.range 4096).foldl (fun s e =>
    let (x, s) := s.accstPick f floor e
    let s := s.wgPadWrite u (off + 4 * e) (natBytes x.1.toNat 4)
    if x.2 then s.poisonPad u (off + 4 * e) else s) s

/-! ### Entry (R236, R237, R269) -/

/-- The quad of a group, and whether it is complete (R111). -/
def State.quadComplete (s : State) (u quad : Nat) : Bool :=
  [0, 1, 2, 3].all (fun i => (s.groupsOf u).any (fun g => g.key.gid == 4 * quad + i))

/-- Every group of a quad traps. -/
def State.trapQuad (s : State) (u quad cause : Nat) (val : DWord) : State :=
  [0, 1, 2, 3].foldl (fun s i => s.trapGroup { wg := u, gid := 4 * quad + i, shadow := false } cause val) s

/-- NB as it will stand when a command entered now is served (R271); that of a spilled tile stands in its image (R276). -/
def State.nbAt (s : State) (core u quad tile : Nat) : Nat :=
  let c := s.getCore core
  let image := ((s.findWg u).getD .absent).tiles.find? (fun t => t.quad == quad && t.tile == tile && t.spilled)
  let now := match c.frameOf u quad tile with
    | some i => (c.frame i).nb
    | none => (image.map (fun t => s.natAt (t.spillAt + 81920) 1)).getD 0
  (c.mq.filter (fun m => m.wg == u && m.quad == quad && m.tile == tile)).foldl (fun nb m =>
    if m.word.major = 0x37 then m.word.blocks
    else if m.word.major = 0x39 && m.word.fn = 0 then 0 else nb) now

/-- The operands of a command: offset and length of each area, in the order of R269. -/
def MatWord.areas (w : MatWord) (nb : Nat) : List (Nat × Nat) :=
  if w.isMma then [(w.offA, 64 * w.kSize * w.elemBytes), (w.offB, 64 * w.kSize * w.elemBytes)]
  else if w.fn = 0 then [(w.offA, 128 * nb), (w.offB, 128 * nb)]
  else if w.fn = 1 then []
  else [(w.offA, 16384)]

/-- Frames of the core that belong to another context and whose owner is not resident (R316). -/
def State.foreignFrames (s : State) (core : Nat) (ctx : BitVec 16) : List Nat :=
  let c := s.getCore core
  (List.range 64).filter (fun i => match (c.frame i).owner with
    | some o => o.ctx != ctx && !(s.residents core).any (fun w => w.uid == o.wg)
    | none => false)

def traceMat (s : State) (event core : Nat) (ctx : BitVec 16) (quad tile major : Nat) : State :=
  s.traceCore 2 event core ctx (.ofNat 64 (quad * 256 + tile)) (.ofNat 64 major)

/-- The engine starts the command at the head of a core's queue (R237, R348). -/
def State.startHead (s : State) (core : Nat) : State :=
  match (s.getCore core).mq with
  | [] => s
  | m :: _ => traceMat s 2 core ((s.findLaunch ((s.findWg m.wg).getD .absent).launch).getD .absent).ctx m.quad m.tile m.word.major

/-- The command of a quad enters the engine, its tile taking a frame if it holds none; the four groups go on. -/
def State.enterCommand (s : State) (w : Workgroup) (quad : Nat) (m : MatWord) : State :=
  let l := (s.findLaunch w.launch).getD .absent
  let c := s.getCore w.core
  let s := if (c.frameOf w.uid quad m.tile).isSome then s else
    match c.freeFrames.head? with
    | none => s
    | some i =>
      let o : FrameOwner := { ctx := l.ctx, packet := l.packet, l := w.l, wg := w.uid, quad := quad, tile := m.tile }
      (s.onCore w.core (fun c => c.setFrame i { Frame.free with owner := some o })).onWg w.uid (fun w =>
        { w with tiles := w.tiles.filter (fun t => !(t.quad == quad && t.tile == m.tile)) ++
            [{ quad := quad, tile := m.tile, spilled := false, frame := i, spillAt := 0 }] })
  -- the command comes after each of the four issues (R221)
  let known := ((s.groupsOf w.uid).filter (fun g => g.key.gid / 4 == quad)).foldl (fun (k : Know) g => k.join g.known) []
  let n := s.nextId
  let s := ({ s with nextId := n + 1 } : State).onCore w.core (fun c => { c with mq := c.mq ++
    [{ wg := w.uid, quad := quad, tile := m.tile, word := m, known := known, serial := n, taken := none }] })
  let s := s.onWg w.uid (fun w => { w with joint := w.joint.filter (fun x => x.1 / 4 ≠ quad) })
  let s := [0, 1, 2, 3].foldl (fun s i =>
    s.onGroup { wg := w.uid, gid := 4 * quad + i, shadow := false } Group.finishWait) s
  let s := traceMat s 1 w.core l.ctx quad m.tile m.major
  -- an engine that is idle starts it at once
  if c.mq.isEmpty then s.startHead w.core else s

/-- Checks 3 to 7 of R269 for a quad whose four issues have arrived. -/
def State.jointReady (s : State) (u quad : Nat) : State :=
  match s.findWg u with
  | none => s
  | some w =>
    let issues := w.joint.filter (fun x => x.1 / 4 == quad)
    match issues with
    | [] => s
    | (_, m) :: _ =>
      if issues.length < 4 then s
      else if issues.any (fun x => x.2 ≠ m) then s.trapQuad u quad causeIllegal (.ofNat 64 quad)
      else
        let c := s.getCore w.core
        let l := (s.findLaunch w.launch).getD .absent
        let areas := m.areas (s.nbAt w.core u quad m.tile)
        match areas.find? (fun a => a.1 % 64 ≠ 0) with
        | some a => s.trapQuad u quad causeAlign (.ofNat 64 a.1)
        | none =>
          if areas.any (fun a => a.2 ≠ 0 && w.size < a.1 + a.2) then s.endLaunch w.launch causeLease
          else
            let accown := fun (s : State) (v : DWord) (owner : BitVec 16) =>
              (s.trapQuad u quad causeAccOwn v).traceCore 2 4 w.core l.ctx v (owner.setWidth 64)
            match s.foreignFrames w.core l.ctx with
            | i :: rest =>
              accown s (.ofNat 64 (i * 256 + (rest.length + 1)))
                (((c.frame i).owner.map (·.ctx)).getD 0)
            | [] =>
              let spilled := w.tiles.any (fun t => t.quad == quad && t.tile == m.tile && t.spilled)
              if spilled then
                let held := (List.range 64).find? (fun i => (c.frame i).held == some (u, quad, m.tile))
                match held.orElse (fun _ => c.freeFrames.head?) with
                | none => s
                | some i =>
                  accown (s.onCore w.core (fun c => c.setFrame i { c.frame i with held := some (u, quad, m.tile) }))
                    (.ofNat 64 (0x8000 + i * 256 + m.tile)) l.ctx
              else if 8 ≤ (c.mq.filter (fun x => x.wg == u && x.quad == quad)).length then s
              else if (c.frameOf u quad m.tile).isNone && c.freeFrames.isEmpty then s
              else s.enterCommand w quad m

/-- A joint issue by the current group (R234, R269): checks 1 and 2, then it waits; the fourth issue goes on. -/
def jointBody (word : Nat) (sp : Bool) (m : State → MatWord) (hiZero : Bool) (s : State) : Eff :=
  let g := s.cur
  if g.sup then .trap causeIllegal 0 (.ofNat 64 word) s
  else
    let w := m s
    if hiZero && w.x.toNat / 2 ^ 32 ≠ 0 then .trap causeIllegal 0 (.ofNat 64 word) s
    else
      let quad := g.key.gid / 4
      if !s.quadComplete s.wg.uid quad then .trap causeIllegal 0 (.ofNat 64 quad) s
      else
        onward s <|
        let s := s.serveAllReds
        let s := s.setCur { s.cur with wait := .joint quad, waitSp := sp, safe := sp }
        let s := { s with wg := { s.wg with joint := s.wg.joint.filter (fun (x : Nat × MatWord) => x.1 ≠ g.key.gid) ++ [(g.key.gid, w)] } }
        .settled (s.jointReady s.wg.uid quad)

/-- MMA on a binary8 format (R270). -/
def execMmaB8 (ctl : Ctl) (a : BitVec 3) (x : BitVec 6) (c : BitVec 5) (k : BitVec 2) (s : State) : Out :=
  issue (bareForm (.mmaB8 ctl a x c k) false false) ctl.sp s (underGuard ctl
    (jointBody (wordOf (.mmaB8 ctl a x c k)) ctl.sp
      (fun s => { major := 0x37, fn := a.toNat, y := c.toNat, k := k.toNat, x := s.cur.sget x.toNat }) false))

/-- MMA on f16, bf16 or f32 (R270). -/
def execMmaF (ctl : Ctl) (a : BitVec 3) (x : BitVec 6) (c k : BitVec 2) (s : State) : Out :=
  issue (bareForm (.mmaF ctl a x c k) false false) ctl.sp s (underGuard ctl
    (jointBody (wordOf (.mmaF ctl a x c k)) ctl.sp
      (fun s => { major := 0x38, fn := a.toNat, y := 0x20 + c.toNat, k := k.toNat, x := s.cur.sget x.toNat }) false))

/-- MSCL (R271). -/
def execMscl (ctl : Ctl) (x : BitVec 6) (a : BitVec 3) (s : State) : Out :=
  issue (bareForm (.mscl ctl x a) false false) ctl.sp s (underGuard ctl
    (jointBody (wordOf (.mscl ctl x a)) ctl.sp
      (fun s => { major := 0x39, fn := 0, y := a.toNat, k := 0, x := s.cur.sget x.toNat }) false))

/-- MZERO (R272). -/
def execMzero (ctl : Ctl) (a : BitVec 3) (s : State) : Out :=
  issue (bareForm (.mzero ctl a) false false) ctl.sp s (underGuard ctl
    (jointBody (wordOf (.mzero ctl a)) ctl.sp (fun _ => { major := 0x39, fn := 1, y := a.toNat, k := 0, x := 0 }) false))

/-- ACCLD in user mode (R272). -/
def execAccld (ctl : Ctl) (x : BitVec 6) (a : BitVec 3) (s : State) : Out :=
  issue (bareForm (.accld ctl x a) false false) ctl.sp s (underGuard ctl
    (jointBody (wordOf (.accld ctl x a)) ctl.sp
      (fun s => { major := 0x39, fn := 2, y := a.toNat, k := 0, x := s.cur.sget x.toNat }) true))

/-- ACCST in user mode (R272). -/
def execAccst (ctl : Ctl) (x : BitVec 6) (a : BitVec 3) (s : State) : Out :=
  issue (bareForm (.accst ctl x a) false false) ctl.sp s (underGuard ctl
    (jointBody (wordOf (.accst ctl x a)) ctl.sp
      (fun s => { major := 0x39, fn := 3, y := a.toNat, k := 0, x := s.cur.sget x.toNat }) true))

/-! ### Service (R237, R270 to R272) -/

/-- The commands of the tile below this number are covered by an MWAIT that happens before this one: of the quad, or of a group it
synchronised with (R222). -/
def MatCmd.floor (m : MatCmd) : Nat := (mapGet [] m.known (waitKey m.wg m.quad m.tile)).foldl max 0

/-- The scratchpad bytes that a command reads: for each operand word what R218 allows of it, by a free choice where that is more
than one value (R221). -/
def State.operandPad (s : State) (m : MatCmd) (areas : List (Nat × Nat)) : SMap Byte × State :=
  match s.findWg m.wg with
  | none => ([], s)
  | some w => match w.status with
    | .saved _ => (((areas.map (fun a => List.range a.2 |>.map (fun i => (a.1 + i, (s.wgPadRead m.wg (a.1 + i) 1).headD 0)))).flatten), s)
    | _ =>
      (w.padOld.filter (fun e => areas.any (fun a => a.1 ≤ 4 * e.1 && 4 * e.1 < a.1 + a.2))).foldl
        (fun (r : SMap Byte × State) e =>
          let (x, s) := r.2.chooseWord (w.padChoices m.known e.1)
          (mapSetList 0 r.1 (4 * e.1) (natBytes x.toNat 4), s)) (w.pad, s)

/-- The engine has read the operands of every command of a workgroup (R258). -/
def State.takeOperands (s : State) (core u : Nat) : State :=
  (s.getCore core).mq.foldl (fun s m =>
    if m.wg ≠ u || m.taken.isSome then s else
    let (bytes, s) := s.operandPad m (m.word.areas 4)
    let bad := ((s.findWg u).getD .absent).padBad
    s.onCore core (fun c => { c with mq := c.mq.map (fun x => if x == m then { x with taken := some (bytes, bad) } else x) })) s

/-- ACCLD writes each element at one place in the sequence of the commands that no MWAIT covers: those placed after it are applied
to the loaded value (R222). -/
def State.accldPlace (s : State) (f : Frame) (floor : Nat) (g : Frame) : Frame × State :=
  let past := f.past.filter (fun p => floor ≤ p.serial)
  if past.isEmpty then (g, s) else
  (List.range 4096).foldl (fun (r : Frame × State) e =>
    let later := past.take (r.2.freeVal.toNat % (past.length + 1))
    let x := later.foldr (fun p a =>
      elemStep (fun off n => mapGetList 0 p.pad off n) p.word { Frame.free with planes := p.planes, nb := p.nb, bad := p.bad } e a)
      (mapGet 0 g.acc e)
    let zero := later.any (fun p => p.zeroed.contains e)
    ({ r.1 with acc := mapSet 0 r.1.acc e x, bad := if zero then r.1.bad ++ [zeroMark + e] else r.1.bad }, r.2.tick)) (g, s)

/-- The command at the head of a core's queue completes; a quad that has retired gives up its frames with its last one (R236). -/
def State.serveCommand (s : State) (core : Nat) : State :=
  match (s.getCore core).mq with
  | [] => s
  | m :: rest =>
    let s := s.onCore core (fun c => { c with mq := rest })
    match (s.getCore core).frameOf m.wg m.quad m.tile with
    | none => s.startHead core
    | some i =>
      let f := (s.getCore core).frame i
      let (bytes, s) := match m.taken with
        | some t => (t.1, s)
        | none => if m.word.major = 0x39 && m.word.fn = 3 then ([], s) else s.operandPad m (m.word.areas f.nb)
      let pad := fun off n => mapGetList 0 bytes off n
      let bad := fun off n => match m.taken with
        | some t => (List.range ((off % 8 + n + 7) / 8)).any (fun i => t.2.contains (off / 8 + i))
        | none => s.wgPadPoison m.wg off n
      let l := (s.findLaunch ((s.findWg m.wg).getD .absent).launch).getD .absent
      let floor := m.floor
      let s :=
        if m.word.major = 0x39 && m.word.fn = 3 then s.accstImage m.wg m.word.offA floor f
        else
          let (f', hit) :=
            if m.word.isMma then mmaFrame pad bad m.word f
            else if m.word.fn = 0 then msclFrame pad bad m.word f
            else if m.word.fn = 1 then (mzeroFrame f, [])
            else accldFrame pad bad m.word.offA f
          let (f', s) := if m.word.major = 0x39 && m.word.fn = 2 then s.accldPlace f floor f' else (f', s)
          let cmd : Past :=
            { serial := m.serial, acc := f.acc, word := m.word, pad := bytes, planes := f.planes, nb := f.nb, bad := f.bad,
              zeroed := hit.filter (· < 4096) }
          let f' := { f' with serial := m.serial + 1, past := cmd :: f.past.filter (fun p => floor ≤ p.serial) }
          let s := s.onCore core (fun c => c.setFrame i f')
          if !hit.isEmpty then s.onGroups (fun g => if g.live && g.key.wg == m.wg && g.key.gid / 4 == m.quad && !g.key.shadow
            then { g with matBad := insRising m.tile g.matBad } else g) else s
      ((traceMat s 3 core l.ctx m.quad m.tile m.word.major).freeQuad m.wg m.quad).startHead core

/-- MWAIT (R273): the tiles it names, whether a command of the quad is still there, and the poison it takes (R319). What the group has
outstanding lands before that trap; where an earlier fault is found then, MWAIT has no effect and the marks stay (R15). -/
def mwaitBody (word : Nat) (all : Bool) (tile : Nat) (s : State) : Eff :=
  let g := s.cur
  if g.sup then .trap causeIllegal 0 (.ofNat 64 word) s else
  let quad := g.key.gid / 4
  if s.core.mq.any (fun m => m.wg == s.wg.uid && m.quad == quad && (all || m.tile == tile)) then
    .wait (.matrix s.wg.uid quad (if all then none else some tile)) s
  else
    let names := fun t => all || t == tile
    let waited := fun (s : State) =>
      let known := (List.range 8).foldl (fun (k : Know) t =>
        if names t then k.raise (waitKey s.wg.uid quad t) (((s.core.frameOf s.wg.uid quad t).map (fun i => (s.core.frame i).serial)).getD 0)
        else k) s.cur.known
      s.setCur { s.cur with known := known, matBad := s.cur.matBad.filter (fun t => !names t) }
    if !g.matBad.any names then .next (waited s) else
    let t := s.settle
    if !t.cur.live then .settled t else
    if !t.late.isEmpty then .settled (t.holdFor t.late) else
    match t.cur.firstFault with
    | some f => .settled (t.takeFault f g.runFirst)
    | none => .settled ((waited t).takeTrap causePoison 0 (.ofNat 64 tile) g.runFirst g.runFirst)

/-- MWAIT (R273). -/
def execMwait (ctl : Ctl) (w : BitVec 1) (a : BitVec 3) (s : State) : Out :=
  issue (bareForm (.mwait ctl w a) false false) ctl.sp s
    (underGuard ctl (mwaitBody (wordOf (.mwait ctl w a)) (w == 1) a.toNat))

/-! ### Frame images in supervisor mode (R276) -/

/-- Physical memory that the capability block reports present: the near tiers of the dies one after another from address 0,
then the second tier (log entry 23), without the addresses of failed pseudo-channels (R323). -/
def State.installed (s : State) (pa n : Nat) : Bool :=
  pa + n ≤ ((s.cap.near.map (· * 2 ^ 20)).sum + s.cap.second * 2 ^ 20) &&
    s.withdrawn.all (fun r => r.1 + r.2 ≤ pa || pa + n ≤ r.1)

/-- The descriptor of a frame image (R276). -/
def frameDescriptor (f : Frame) : List Byte :=
  match f.owner with
  | none => List.replicate 64 0
  | some o =>
    natBytes f.nb 1 ++ natBytes 0 1 ++ natBytes o.ctx.toNat 2 ++ natBytes o.l 4 ++ natBytes o.quad 2 ++ natBytes o.tile 1 ++
    natBytes 0 5 ++ natBytes o.packet 8 ++ List.replicate 40 0

/-- Writes whole words of physical memory as the device (R213). -/
def State.deviceWrite (s : State) (pa : Nat) (ws : List Word) : State :=
  (ws.mapIdx (fun i x => (i, x))).foldl (fun s p => s.engineWrite (pa / 4 + p.1) p.2) (s.cleanMem pa (4 * ws.length))

/-- The bytes as words. -/
def wordsOfBytes (n : Nat) (bs : List Byte) : List Word :=
  (List.range n).map (fun i => .ofNat 32 (bytesNat ((bs.drop (4 * i)).take 4)))

/-- The image of a frame at a physical address (R276). -/
def State.writeImage (s : State) (pa : Nat) (f : Frame) : State :=
  let s := s.deviceWrite pa ((List.range 4096).map f.accAt)
  let s := s.deviceWrite (pa + 16384) ((List.range 16384).map (fun i => f.planeAt (i / 4096) (i % 4096)))
  let s := s.deviceWrite (pa + 81920) (wordsOfBytes 16 (frameDescriptor f))
  (f.bad.filter (· < 20480)).foldl (fun s e => s.poisonMem (pa / 4 + e)) s

/-- The checks of the operand register of a frame-image form; the body gets the frame and the address. -/
def frameBody (word x : Nat) (k : Nat → Nat → State → Eff) (s : State) : Eff :=
  let v := (s.cur.sget x).toNat
  if fld v 48 10 ≠ 0 then .trap causeIllegal 0 (.ofNat 64 word) s
  else if fld v 0 48 % 128 ≠ 0 then .trap causeAlign 0 (.ofNat 64 (fld v 0 48)) s
  else if !s.installed (fld v 0 48) 81984 then .lease (.ofNat 64 (fld v 0 48)) s
  else k (fld v 58 6) (fld v 0 48) s

/-- ACCST of a frame image (R276, R317). -/
def accstImageBody (i pa : Nat) (s : State) : Eff :=
  let f := s.core.frame i
  match f.owner with
  | none => .next s
  | some o =>
    if s.core.mq.any (fun m => m.wg == o.wg && m.quad == o.quad && m.tile == o.tile) then .wait (.matrix o.wg o.quad (some o.tile)) s
    else
      let s := s.writeImage pa f
      .next { s with core := s.core.setFrame i { Frame.free with held := f.held } }

/-- The owner that a descriptor names, if the image is good (R276). -/
def State.imageOwner (s : State) (pa : Nat) : Option (FrameOwner × Nat) :=
  let d := fun o n => s.natAt (pa + 81920 + o) n
  let ctx : BitVec 16 := .ofNat 16 (d 2 2)
  let zeroes := d 1 1 + d 11 5 + (List.range 40).foldl (fun m i => m + d (24 + i) 1) 0
  if zeroes ≠ 0 || 4 < d 0 1 then none else
  match s.allLaunches.find? (fun l => l.packet == d 16 8 && l.ctx == ctx && l.uid != 0 &&
      (l.state == .queued || l.state == .running)) with
  | none => none
  | some l =>
    match s.allWgs.find? (fun w => w.launch == l.uid && w.l == d 4 4 && w.status != .gone) with
    | none => none
    | some w =>
      if (w.groupsN + 3) / 4 ≤ d 8 2 || 8 ≤ d 10 1 then none
      else some ({ ctx := ctx, packet := d 16 8, l := d 4 4, wg := w.uid, quad := d 8 2, tile := d 10 1 }, d 0 1)

/-- ACCLD of a frame image (R276, R317): it waits until the frame it names is free. -/
def accldImageBody (x i pa : Nat) (s : State) : Eff :=
  match s.imageOwner pa with
  | none => .trap causeIllegal 0 (s.cur.sget x) s
  | some (o, nb) =>
    let f := s.core.frame i
    if f.owner = some o then .next s
    else if f.owner.isSome then .wait (.frame i) s
    else
      let word := fun k : Nat => (BitVec.ofNat 32 (s.natAt (pa + 4 * k) 4) : Word)
      let bad := (List.range 20480).filter (fun k => s.memBad.contains ((pa + 4 * k) / 8))
      let f' : Frame :=
        { Frame.free with owner := some o, acc := tabulate 4096 word, planes := tabulate 16384 (fun k => word (4096 + k)),
                          nb := nb, bad := bad }
      let s := { s with core := s.core.setFrame i f' }
      .next ((s.onWg o.wg (fun w => { w with tiles := w.tiles.map (fun t =>
        if t.quad == o.quad && t.tile == o.tile then { t with spilled := false, frame := i, spillAt := 0 } else t) })).freeArea o.wg)

/-- The word of a frame-image form (R262, R276). -/
def frameWord (fn : Nat) (ctl : Ctl) (x : BitVec 6) : Nat := 0xE4000000 + fn * 0x4000 + ctl.bits + x.toNat * 256

/-- ACCLD, frame image (R276): user mode has the joint form of this word. -/
def execAccldFrameImage (ctl : Ctl) (x : BitVec 6) (s : State) : Out :=
  issue { word := frameWord 2 ctl x, legal := true, imm := .none, mods := 0, sxSat := false, heldOk := false,
          sliceOk := false } ctl.sp s (underGuard ctl (fun s =>
    if s.cur.sup then frameBody (frameWord 2 ctl x) x.toNat (accldImageBody x.toNat) s
    else jointBody (frameWord 2 ctl x) ctl.sp
      (fun s => { major := 0x39, fn := 2, y := 0, k := 0, x := s.cur.sget x.toNat }) true s))

/-- ACCST, frame image (R276): user mode has the joint form of this word. -/
def execAccstFrameImage (ctl : Ctl) (x : BitVec 6) (s : State) : Out :=
  issue { word := frameWord 3 ctl x, legal := true, imm := .none, mods := 0, sxSat := false, heldOk := false,
          sliceOk := false } ctl.sp s (underGuard ctl (fun s =>
    if s.cur.sup then frameBody (frameWord 3 ctl x) x.toNat accstImageBody s
    else jointBody (frameWord 3 ctl x) ctl.sp
      (fun s => { major := 0x39, fn := 3, y := 0, k := 0, x := s.cur.sget x.toNat }) true s))

end Sys2Proof.Machine
end

