-- ==== Sys2Proof/Machine/Engine.lean ====
section
/-!
DEFINITION. Machine/Engine.lean: the channels (R243 to R245, R277), QSTAT (R268), the step words of paced launches (R249 to R256,
R278), RETS (R257 to R259, R279) and LAUNCH (R260, R280).
-/

namespace Sys2Proof.Machine

/-! ### Channels (R243 to R245) -/

/-- Entries of 64 bytes that one send or receive of W lanes moves. -/
def entriesOf (w : Nat) : Nat := (4 * w + 63) / 64

/-- Does the toy box hold entries, so that every later send goes to it? -/
def Chan.room (c : Chan) (m : Nat) : Bool :=
  if c.closed then true
  else if !c.toy.isEmpty then c.toy.length + m ≤ c.toyCap
  else c.transit.length + c.fifo.length + m ≤ 64 || (c.toyOn && m ≤ c.toyCap)

/-- Entries that a receive can take: the FIFO, then the toy box once nothing is in transit before it. -/
def Chan.avail (c : Chan) : Nat := c.fifo.length + (if c.transit.isEmpty then c.toy.length else 0)

/-- The binding of an outbound or inbound channel of a core. -/
def Launch.outChan (l : Launch) (core ch : Nat) : Option Chan :=
  l.chans.find? (fun c => c.bind.sender == core && c.bind.out == ch)

def Launch.inChan (l : Launch) (core ch : Nat) : Option Chan :=
  l.chans.find? (fun c => c.bind.recv == core && c.bind.inp == ch)

def Launch.onChan (l : Launch) (b : Binding) (f : Chan → Chan) : Launch :=
  { l with chans := l.chans.map (fun c => if c.bind == b then f c else c) }

/-- The toy box area of a packet, and the log of a region's size (R245, R283). -/
def Launch.toyLog (l : Launch) : Nat := if l.pword 2 54 5 = 0 then 20 else l.pword 2 54 5
def Launch.toyBase (l : Launch) : Nat := 65536 * l.pword 3 32 32

/-- A byte range is mapped with write permission. -/
def State.writableAt (s : State) (ctx : BitVec 16) (va : Nat) : Option Nat :=
  (s.leafOf ctx va).bind (fun f => if f.wr then some (f.pa + (va - f.va)) else none)

/-- Where the n-th entry ever put into a channel's toy box lies in memory; the system's default area is at no address of the
launch (R245, R283). -/
def Chan.toyVa (c : Chan) (n : Nat) : Nat := c.toyAt + 64 * (n % c.toyCap)

/-- Do n more entries go to the toy box: while it holds entries, and where the FIFO has no room? -/
def Chan.spills (c : Chan) (n : Nat) : Bool := !c.closed && !(c.toy.isEmpty && c.transit.length + c.fifo.length + n ≤ 64)

/-- Puts entries into a channel: into the toy box, or on their way to the FIFO; a send to a workgroup that has retired completes
into nothing (R277). -/
def Chan.put (c : Chan) (es : List Entry) : Chan :=
  if c.closed then c
  else if c.spills es.length then { c with toy := c.toy ++ es, toyNext := c.toyNext + es.length }
  else { c with transit := c.transit ++ es }

/-- The engine writes entries that go to the toy box to memory; none where an access fails (R245). -/
def State.toyWrite (s : State) (l : Launch) (c : Chan) (es : List Entry) : Option State :=
  if !c.spills es.length || l.toyBase = 0 then some s else
  ((List.range es.length).zip es).foldl (fun t p => t.bind (fun s =>
    (s.writableAt l.ctx (c.toyVa (c.toyNext + p.1))).map (fun pa => s.deviceWrite pa p.2.words))) (some s)

/-- The engine reads n entries back from the toy box: their words, and where a word is poisoned its physical address (R245, R318);
none where an access fails. -/
def State.toyRead (s : State) (l : Launch) (c : Chan) (n : Nat) : Option (List (Word × Option Nat)) :=
  let first := c.toyNext - c.toy.length
  if l.toyBase = 0 then some ((c.toy.take n).map (fun e => e.words.map (fun x => (x, none)))).flatten else
  (List.range n).foldl (fun t i => t.bind (fun ws => (s.writableAt l.ctx (c.toyVa (first + i))).map (fun pa =>
    ws ++ (List.range 16).map (fun k => (s.word (pa / 4 + k),
      if s.memBad.contains ((pa + 4 * k) / 8) then some (pa + 4 * k) else none))))) (some [])

/-- Takes m entries, oldest first. -/
def Chan.take (c : Chan) (m : Nat) : List Entry × Chan :=
  let n := min m c.fifo.length
  (c.fifo.take n ++ c.toy.take (m - n),
    { c with fifo := c.fifo.drop n, toy := c.toy.drop (m - n) })

/-- The word of visible lane i of a source register; a lane with no thread gives 0 (R243). -/
def State.sendWord (s : State) (r i : Nat) : Word :=
  let j := s.physLane i
  if (s.cur.lane j).thread.isSome then s.cur.vget j r else 0

/-- The lowest visible lane whose word differs from its shadow's (R264). -/
def State.sendMismatch (s : State) (r : Nat) : Option Nat :=
  if !s.prot then none else
  (List.range s.visW).find? (fun i => (s.cur.lane (2 * i)).thread.isSome && s.cur.vget (2 * i) r != s.cur.vget (2 * i + 1) r)

/-- CHSEND (R277): a release at .pkg when it completes. -/
def chsendBody (word x ch : Nat) (s : State) : Eff :=
  let g := s.cur
  if g.sup then .trap causeIllegal 0 (.ofNat 64 word) s
  else if s.regBad (x, 1) then .trap causeIllegal 0 (.ofNat 64 x) s
  else match s.launch.outChan s.wg.core ch with
    | none => .trap causeIllegal 0 (.ofNat 64 ch) s
    | some c =>
      match s.poisonReg ((List.range g.width).filter (fun j => (g.lane j).thread.isSome)) [(x, 1)] with
      | some r => .trap causePoison 0 (.ofNat 64 r) s
      | none =>
        match s.sendMismatch x with
        | some i => .trap causeShadow 0 (.ofNat 64 i) s
        | none =>
          let m := entriesOf s.visW
          if !c.room m then
            .wait (.send ch (match g.wait with | .send c' t => if c' = ch then t else s.time.now | _ => s.time.now)) s
          else
            let s := s.publish 5
            let es : List Entry := (List.range m).map (fun e =>
              { words := (List.range 16).map (fun i => if 16 * e + i < s.visW then s.sendWord x (16 * e + i) else 0),
                know := s.releaseKnow })
            match s.toyWrite s.launch c es with
            | none => .lease (.ofNat 64 (c.toyVa c.toyNext)) s
            | some s => .next { s with launch := s.launch.onChan c.bind (fun c => c.put es) }

/-- CHSEND (R277). -/
def execChsend (ctl : Ctl) (x : BitVec 6) (c : BitVec 3) (s : State) : Out :=
  issue (bareForm (.chsend ctl x c) false false) ctl.sp s
    (underGuard ctl (chsendBody (wordOf (.chsend ctl x c)) x.toNat c.toNat))

/-- CHRECV (R277): an acquire at .pkg; the lanes that act get their words. The receive that finds the toy box empty ends its extension:
R245 does not say whether it outlasts the draining (DESIGN CHOICE, log entry 79). -/
def chrecvBody (word la x ch : Nat) (s : State) : Eff :=
  let g := s.cur
  if g.sup then .trap causeIllegal 0 (.ofNat 64 word) s
  else if s.regBad (x, 1) then .trap causeIllegal 0 (.ofNat 64 x) s
  else match s.launch.inChan s.wg.core ch with
    | none => .trap causeIllegal 0 (.ofNat 64 ch) s
    | some c =>
      let m := entriesOf s.visW
      if c.avail < m then .wait (.receive ch) s
      else
        match s.toyRead s.launch c (m - min m c.fifo.length) with
        | none => .lease (.ofNat 64 (c.toyVa (c.toyNext - c.toy.length))) s
        | some fromToy =>
        let (es, c') := c.take m
        let dry := c.toyOn && c'.toy.isEmpty
        let c' := if dry then { c' with toyOn := false } else c'
        let s := { s with launch := s.launch.onChan c.bind (fun _ => c') }
        let s := if dry then s.traceCore 4 2 s.wg.core s.launch.ctx (.ofNat 64 ch) 0 else s
        let s := ((es.foldl (fun s e => s.acquire e.know) s.serveAllReds)).snapshot 5
        let ws := (((c.fifo.take m).map (·.words)).flatten.map (fun w => (w, none))) ++ fromToy
        .next (s.addPends ((s.served g.lanesOn).map (fun j =>
          s.entry (some j) la (match ws.getD (s.laneId j) (0, none) with
            | (_, some pa) => .fault causePoison (.ofNat 64 pa)
            | (w, none) => .word x w))))

/-- CHRECV (R277). -/
def execChrecv (ctl : Ctl) (l : BitVec 4) (x : BitVec 6) (c : BitVec 3) (s : State) : Out :=
  issue (bareForm (.chrecv ctl l x c) false false) ctl.sp s
    (underGuard ctl (chrecvBody (wordOf (.chrecv ctl l x c)) l.toNat x.toNat c.toNat))

/-- Would CHRECV, or CHSEND, on a bound channel of the core not wait? -/
def State.hasData (s : State) (c : Chan) : Bool := decide (entriesOf s.visW ≤ c.avail)
def State.hasSpace (s : State) (c : Chan) : Bool := c.room (entriesOf s.visW)

/-- CHPOLL (R277). -/
def chpollBody (word x ch k : Nat) (s : State) : Eff :=
  if s.cur.sup then .trap causeIllegal 0 (.ofNat 64 word) s
  else match (if k = 0 then s.launch.inChan s.wg.core ch else s.launch.outChan s.wg.core ch) with
    | none => .trap causeIllegal 0 (.ofNat 64 ch) s
    | some c => .next (s.setCur (s.cur.cset x (if k = 0 then s.hasData c else s.hasSpace c)))

/-- CHPOLL (R277). -/
def execChpoll (ctl : Ctl) (x c : BitVec 3) (k : BitVec 1) (s : State) : Out :=
  issue (bareForm (.chpoll ctl x c k) false false) ctl.sp s
    (underGuard ctl (chpollBody (wordOf (.chpoll ctl x c k)) x.toNat c.toNat k.toNat))

/-! ### QSTAT (R268) -/

/-- A field of eight bits, bit n by a test. -/
def bits8 (f : Nat → Bool) : Nat := (List.range 8).foldl (fun m n => if f n then m + 2 ^ n else m) 0

/-- The snapshot of the core's engines (R268). -/
def State.qstat (s : State) : Nat :=
  let quad := s.cur.key.gid / 4
  let mine := if s.cur.sup then [] else s.core.mq.filter (fun m => m.wg == s.wg.uid && m.quad == quad)
  bits8 (fun c => (s.launch.inChan s.wg.core c).any s.hasData) * 2 ^ 48 +
  bits8 (fun c => (s.launch.outChan s.wg.core c).any s.hasSpace) * 2 ^ 40 +
  bits8 (fun n => mine.any (fun m => m.tile == n)) * 2 ^ 32 +
  mine.length * 2 ^ 28 + s.core.freeFrames.length * 2 ^ 16 + s.copiesOn s.wg.core

/-- QSTAT (R268). -/
def execQstat (ctl : Ctl) (x : BitVec 6) (s : State) : Out :=
  issue (bareForm (.qstat ctl x) false false) ctl.sp s
    (underGuard ctl (fun s => .next (s.setCur (s.cur.sset x.toNat (.ofNat 64 s.qstat)))))

/-! ### Steps (R250 to R254, R278) -/

/-- Depth and slot bytes of a declared step buffer. -/
def Kernel.stepBuf (k : Kernel) (b : Nat) : Option (Nat × Nat) := (k.bufs[b]?).bind (fun x => if x.1 = 0 then Option.none else some x)

/-- The offset of the slot of step n (R250). -/
def Kernel.slotAt (k : Kernel) (b n : Nat) : Nat :=
  let d := k.bufs.getD b (0, 0)
  k.bufOff b + n % d.1 * d.2

/-- STEPEND (R251): the group is held; the core's step ends with its last group. That TRAPVAL is the instruction word outside a paced
launch is the model's choice (DEDUCED, log entry 8). -/
def stependBody (word : Nat) (sp : Bool) (s : State) : Eff :=
  if s.cur.sup || !s.launch.paced then .trap causeIllegal 0 (.ofNat 64 word) s
  else if !canonical (s.cur.pc + 4) then .next s
  else
    let g := s.cur.complete s.cur.act sp (s.cur.pc + 4)
    .settled ((s.setCur { g with held := true }).stepEnd s.wg.core s.launch.uid)

def stependWord (ctl : Ctl) : Nat := 0xEC000000 + ctl.bits

/-- STEPEND (R278). -/
def execStepend (ctl : Ctl) (s : State) : Out :=
  issue { word := stependWord ctl, legal := true, imm := .none, mods := 0, sxSat := false, heldOk := false,
          sliceOk := false } ctl.sp s (underGuard ctl (stependBody (stependWord ctl) ctl.sp))

/-- SLOT (R250, R278). -/
def slotBody (word x y k : Nat) (s : State) : Eff :=
  if s.cur.sup then .trap causeIllegal 0 (.ofNat 64 word) s
  else if (s.wg.kern.stepBuf k).isNone then .trap causeIllegal 0 (.ofNat 64 k) s
  else .next (s.setCur (s.cur.sset x (.ofNat 64 (s.wg.kern.slotAt k (s.cur.sget y).toNat))))

def slotWord (ctl : Ctl) (x y : BitVec 6) (k : BitVec 2) : Nat :=
  0xEC004000 + ctl.bits + x.toNat * 256 + y.toNat * 4 + k.toNat

/-- SLOT (R278). -/
def execSlot (ctl : Ctl) (x y : BitVec 6) (k : BitVec 2) (s : State) : Out :=
  issue { word := slotWord ctl x y k, legal := true, imm := .none, mods := 0, sxSat := false, heldOk := true,
          sliceOk := false } ctl.sp s (underGuard ctl (slotBody (slotWord ctl x y k) x.toNat y.toNat k.toNat))

/-- The workgroup of the launch on a core: one that runs, is saved, or has retired and whose step buffers are kept (R254,
R255). -/
def State.stepHolder (s : State) (core : Nat) : Option Workgroup :=
  s.allWgs.find? (fun w => w.launch == s.launch.uid && w.core == core && w.uid != 0 &&
    (w.status != .gone || (s.paceOf core s.launch.uid).kept == some w.uid))

/-- The offsets of the lanes in a slot (R254): ALIGN before bounds, lane by lane. -/
def stepRoutes (size : Nat) (x : Nat → Nat) (on : List Nat) : List (Nat × Route) :=
  on.map (fun j => (j, if x j % 4 ≠ 0 then .align (.ofNat 64 (x j)) else if size ≤ x j then .lease (.ofNat 64 (x j)) else .to (x j)))

/-- LDSTEP (R254): y is the even register of the step, the core in the next one. A misaligned offset, like a poisoned source, is a fault
of the word that is taken beyond its window (R15); R254 makes only STEP_STALE precise. Where links to the core retrain the word waits
(R334). That TRAPVAL is the instruction word outside a paced launch is the model's choice (DEDUCED, log entry 8). -/
def ldstepBody (word la x y k : Nat) (s : State) : Eff :=
  let g := s.cur
  if g.sup || !s.launch.paced then .trap causeIllegal 0 (.ofNat 64 word) s
  else if s.regBad (x, 1) then .trap causeIllegal 0 (.ofNat 64 x) s
  else match s.wg.kern.stepBuf k with
    | none => .trap causeIllegal 0 (.ofNat 64 k) s
    | some (depth, size) =>
      let m := (g.sget y).toNat
      let core := (g.sget (y + 1)).toNat
      match s.stepHolder core with
      | none => .lease (g.sget (y + 1)) s
      | some w =>
          -- a poisoned source is a fault of the word, taken beyond its window (R15); the lanes that hold none go on
          let sick := if (s.poisonReg g.lanesOn [(x, 1)]).isSome
            then [s.entry (g.lanesOn.find? (s.laneBad [(x, 1)])) la (.fault causePoison (.ofNat 64 x))] else []
          let rs := stepRoutes size (fun j => (g.vget j x).toNat)
            ((s.served g.lanesOn).filter (fun j => !s.laneBad [(x, 1)] j))
          match rs.find? (fun r => match r.2 with | .to _ => false | _ => true) with
          | some (j, .align v) => .next (s.addPends [s.entry (some j) la (.fault causeAlign v)])
          | some (_, .lease v) => .lease v s
          | _ =>
            let p := s.paceOf core s.launch.uid
            if (!p.finished && p.ended ≤ m) || s.linkWaits (dieOf s.wg.core) (dieOf core) then .wait (.step core m) s
            else if m + depth ≤ p.step then .trap causeStale 0 (.ofNat 64 m) s
            else
              let t := (s.serveAllReds.acquire (s.endOf core s.launch.uid m)).snapshot 5
              .next (t.addPends (sick ++ (goodRoutes rs).map (fun r =>
                let off := w.kern.slotAt k m + r.2
                t.entry (some r.1) la
                  (if s.wgPadPoison w.uid off 4 then .fault causePoison (.ofNat 64 off)
                   else .word x (.ofNat 32 (bytesNat (s.wgPadRead w.uid off 4)))))))

/-- LDSTEP (R254, R278). -/
def execLdstep (ctl : Ctl) (l : BitVec 4) (x : BitVec 6) (y : BitVec 5) (k : BitVec 2) (s : State) : Out :=
  issue (bareForm (.ldstep ctl l x y k) false false) ctl.sp s
    (underGuard ctl (ldstepBody (wordOf (.ldstep ctl l x y k)) l.toNat x.toNat (2 * y.toNat) k.toNat))

/-! ### RETS and LAUNCH (R257 to R260) -/

/-- RETS (R257, R279): the mask is checked, what is outstanding completes, and the group parks. -/
def retsBody (word : Nat) (sp : Bool) (x y : Nat) (s : State) : Eff :=
  let h := s.cur.sget x
  let m := s.cur.sget y
  if s.cur.sup then .trap causeIllegal 0 (.ofNat 64 word) s
  else if m.toNat / 2 ^ 30 ≠ 0 then .trap causeIllegal 0 m s
  else
    let s := s.settle
    if !s.cur.live then .settled s else
    if !s.late.isEmpty then .settled (s.holdFor s.late) else
    match s.cur.firstFault with
    | some f => .settled (s.takeFault f s.cur.runFirst)
    | none =>
      onward s <|
      let open_ := s.cur.openNums (fun _ => true)
      if !open_.isEmpty then .settled (s.holdFor open_) else
        .settled ((s.setCur { s.cur with wait := .rets h m, waitSp := sp, safe := false }).retsArrival s.wg.uid)

/-- RETS (R257). -/
def execRets (ctl : Ctl) (x y : BitVec 6) (s : State) : Out :=
  issue (bareForm (.rets ctl x y) false false) ctl.sp s
    (underGuard ctl (retsBody (wordOf (.rets ctl x y)) ctl.sp x.toNat y.toNat))

/-- The sixteen words of a launch packet from its bytes (R283). -/
def packetWords (bs : List Byte) : List DWord := (List.range 16).map (fun i => .ofNat 64 (bytesNat ((bs.drop (8 * i)).take 8)))

/-- c7 of LAUNCH is written as a result with its window (R26, R280). -/
def State.launchSays (s : State) (la : Nat) (b : Bool) : State := s.addPends [s.entry none la (.pred 7 b)]

/-- LAUNCH (R260, R280). -/
def launchBody (word la x : Nat) (s : State) : Eff :=
  let g := s.cur
  let a := g.sget x
  if g.sup then .trap causeIllegal 0 (.ofNat 64 word) s
  else if a.toNat % 128 ≠ 0 then .trap causeAlign 0 a s
  else match s.viaTlb s.launch a.toNat 128 false with
    | none => .lease a s
    | some pa =>
      let d := dieOf s.wg.core
      -- no share waits in the hub while the pool has room: hubFill lets it in as soon as an entry is free (R290)
      if 1024 ≤ (s.die d).pool then .next ((s.setCur (g.lastRef 0x50)).launchSays la false)
      else if 8 < s.launch.depth + 1 then .next ((s.setCur (g.lastRef 0x51)).launchSays la false)
      else
        let s := s.publish 5
        let (bs, s) := s.gread pa 128
        let l : Launch :=
          { Launch.absent with uid := s.nextId, packet := a.toNat, ctx := s.launch.ctx, words := packetWords bs,
                               depth := s.launch.depth + 1, parent := some s.launch.uid, state := .pooled,
                               queuedAt := s.time.now, know := s.releaseKnow, poolDie := some d,
                               pools := [{ die := d, since := s.time.now, held := true }] }
        let s := { s with nextId := s.nextId + 1, launches := s.launches ++ [l] }.onDie d (fun d => { d with pool := d.pool + 1 })
        .next (s.launchSays la true)

/-- LAUNCH (R260). -/
def execLaunch (ctl : Ctl) (l : BitVec 4) (x : BitVec 6) (s : State) : Out :=
  issue (bareForm (.launch ctl l x) false false) ctl.sp s
    (underGuard ctl (launchBody (wordOf (.launch ctl l x)) l.toNat x.toNat))

end Sys2Proof.Machine
end

