-- ==== Sys2Proof/Machine/Hints.lean ====
section
/-!
DEFINITION. Machine/Hints.lean: the hint words SCHED, IMM, MOD and LIVE (R29 to R34). A hint word takes one issue slot; what it
says of the run's instruction, its faults included, is looked at when that instruction issues (R30).
-/

namespace Sys2Proof.Machine

/-- A hint word of the current group: f extends the run; a word past the address space traps as any other does (R14). -/
def hint (s : State) (f : Group → Group) : Out :=
  let g := s.cur
  if !g.live then .fault .noGroup
  else if canonical (g.pc + 4) then .next (s.setCur { f g with pc := g.pc + 4, safe := false })
  else .next (s.raise causePcWrap 0 (g.pc + 4) g.runFirst g.runFirst g.runFirst)

/-- A word joins the run: the first one names the run's address. -/
def Group.joinRun (g : Group) : Group := { g with run := { g.run with first := some g.runFirst } }

/-- The first hint word of the run that fails check 1 of R30 is the one kept. -/
def Group.badHint (g : Group) (w : DWord) : Group :=
  { g with run := { g.run with bad := some (g.run.bad.getD (w.setWidth 32)) } }

/-- The four GAP and GW fields of a SCHED payload, the run's instruction first (R31). -/
def schedFields (p : Nat) : List (Nat × Bool) :=
  (List.range 4).map (fun j => (fld p (4 * j) 3, fld p (4 * j + 3) 1 == 1))

/-- SCHED (R31): a second SCHED word replaces the first. -/
def execSched (p : BitVec 24) (s : State) : Out :=
  hint s (fun g => { g.joinRun with sched := schedFields p.toNat })

/-- IMM (R30, R32): a second one fails check 1. -/
def execImm (p : BitVec 24) (s : State) : Out :=
  hint s (fun g =>
    let g := g.joinRun
    if g.run.imm.isSome then g.badHint (immWord p) else { g with run := { g.run with imm := some p } })

/-- MOD (R30, R33): a second one, or a reserved value, fails check 1. -/
def execMod (p : BitVec 24) (s : State) : Out :=
  hint s (fun g =>
    let g := g.joinRun
    let again := g.run.mod.isSome
    let g := if again then g else { g with run := { g.run with mod := some p } }
    if again || modPayloadBad p.toNat then g.badHint (modWord p) else g)

/-- LIVE (R28, R30, R34): it is never part of a run and has no effect of its own; a save reads it from memory. -/
def execLive (_ : BitVec 24) (s : State) : Out := hint s id

end Sys2Proof.Machine
end

