-- ==== Sys2Proof/Machine/Span.lean ====
section
/-!
DEFINITION. Machine/Span.lean: SPAN and SPANQ (R115, R116, R147 to R149), GIVE and CLAIM (R150 to R153).
-/

namespace Sys2Proof.Machine

/-- The code base: the address of the object's first instruction word, 256 bytes from its header (R13, R350). -/
def Kernel.codeBase (k : Kernel) : Nat := k.addr + 256

/-- The arrival checks of R115 in order: the code of the first that fails (R148). -/
def State.spanRefusal (s : State) (target : Nat) : Option Nat :=
  let g := s.cur
  let k := s.wg.kern
  let marked := fun (a : DWord) => k.marks.any (fun m => k.codeBase + m == a.toNat)
  if !(marked g.pc || marked g.runFirst) then some 0x01
  else if !k.supported.getLsbD target then some 0x02
  else if !s.launch.allowed.getLsbD target || (s.launch.isProt && k.compat && target == 0) then some 0x03
  else if !s.core.curve.getLsbD target then some 0x04
  else if !g.converged then some 0x05
  else if g.q.any (fun e => !e.2.isEmpty) ||
      s.allGroups.any (fun h => h.key == { g.key with shadow := true } && !h.parked) then some 0x06
  else if s.core.mq.any (fun m => m.wg == s.wg.uid) then some 0x07
  else if s.launch.paced && !g.held then some 0x08
  else none

/-- A group refused on arrival refuses every group parked at the open rendezvous with its code (R116). -/
def State.refuseSpan (s : State) (target code : Nat) : State :=
  let s := if s.core.rdv.any (fun r => r.launch == s.launch.uid) then s.refuseSpans s.wg.core s.launch.uid code
    else s.traceCore 9 3 s.wg.core s.launch.ctx (.ofNat 64 target) (.ofNat 64 code)
  (s.setCur ((s.cur.cset 7 false).lastRef code)).resumeShadow s.cur.key false

/-- A group parks at the rendezvous, and opens it if it is the first (R116). A group of a workgroup that came to the core after the
last arrival of an accepted rendezvous parks at that one too, its target unchecked: the rules do not say how it takes part (DESIGN
CHOICE, log entry 75). -/
def State.parkSpan (s : State) (sp : Bool) (target : Nat) : State :=
  let s := s.setCur { s.cur with wait := .span target, waitSp := sp, safe := false }
  let s := if s.core.rdv.any (fun r => r.launch == s.launch.uid) then s else
    { s with core := { s.core with rdv := { launch := s.launch.uid, phase := .opened, target := 0, since := 0 } :: s.core.rdv } }.traceCore
      9 1 s.wg.core s.launch.ctx (.ofNat 64 target) 0
  s.spanArrival s.wg.core s.launch.uid

/-- SPAN (R115, R147): the group's own LDK and XLATE complete first (R54); a shadow parks without checks. -/
def spanBody (word : Nat) (sp : Bool) (target : Nat) (s : State) : Eff :=
  if s.cur.sup then .trap causeIllegal 0 (.ofNat 64 word) s
  else
    -- a FENCE.e names no lane either, and SPAN may issue in its window (R200)
    let own := fun (e : Pend) => e.lane.isNone && e.act.isOpen && !e.act.isFence
    let s := s.settleTo own
    if !s.cur.live then .settled s
    else if s.cur.pend.any own then .settled (s.holdFor (s.cur.openNums own))
    else if s.cur.key.shadow then
      onward s (.settled (s.setCur { s.cur with wait := .span target, waitSp := sp, parked := true, safe := false }))
    else match s.spanRefusal target with
      | some code => .next (s.refuseSpan target code)
      | none => onward s (.settled (s.parkSpan sp target))

/-- SPAN (R147). -/
def execSpan (ctl : Ctl) (p : BitVec 2) (s : State) : Out :=
  issue (bareForm (.span ctl p) true true) ctl.sp s
    (underGuard ctl (spanBody (wordOf (.span ctl p)) ctl.sp p.toNat))

/-- SPANQ (R149): GRANT is what the puppeteer would grant at the moment, which the spec leaves open (log entry 2). -/
def State.spanq (s : State) : DWord :=
  .ofNat 64 (s.freeVal.toNat % 16 * 65536 + s.core.curve.toNat * 4096 + s.launch.allowed.toNat * 256 +
    s.wg.kern.supported.toNat * 16 + s.core.point)

/-- SPANQ (R149). -/
def execSpanq (ctl : Ctl) (d : BitVec 6) (s : State) : Out :=
  issue (bareForm (.spanq ctl d) true false) ctl.sp s
    (underGuard ctl (fun s => .next (s.tick.setCur (s.cur.sset d.toNat s.spanq))))

/-- GIVE (R151): the registers go back to the balance, their values are lost, and waiting claims are granted. Under 16-lane
compatibility, and in supervisor mode, it traps (R131); that TRAPVAL is the instruction word then is the model's choice (DEDUCED, log
entry 8). -/
def giveBody (word b : Nat) (s : State) : Eff :=
  if s.cur.sup || s.compat then .trap causeIllegal 0 (.ofNat 64 word) s
  else if s.cur.count < 8 * b + 8 then .trap causeIllegal 0 (.ofNat 64 s.cur.count) s
  else .next ((s.setCur { s.cur.clearRegs (s.cur.count - 8 * b) (8 * b) with count := s.cur.count - 8 * b }).poolChanged s.wg.uid)

/-- GIVE (R151). -/
def execGive (ctl : Ctl) (b : BitVec 6) (s : State) : Out :=
  issue (bareForm (.give ctl b) false false) ctl.sp s (underGuard ctl (giveBody (wordOf (.give ctl b)) b.toNat))

/-- The refusal checks of R152 that do not depend on a request. -/
def State.claimRefusal (s : State) (b : Nat) : Option Nat :=
  let g := s.cur
  let others := ((s.groupsOf s.wg.uid).filter (fun h => h.key != g.key)).map (fun h => h.threadsN * 8 * 4)
  if (if s.slice then 56 else 64) < g.count + 8 * b then some 0x21
  else if s.wg.account < g.threadsN * (g.count + 8 * b) * 4 + others.sum then some 0x22
  else none

/-- CLAIM (R152, R153). Where it traps under 16-lane compatibility (R131) TRAPVAL is the instruction word (DEDUCED, log entry 8). -/
def claimBody (word : Nat) (sp : Bool) (b : Nat) (s : State) : Eff :=
  let g := s.cur
  if g.sup || s.compat then .trap causeIllegal 0 (.ofNat 64 word) s else
  match s.claimRefusal b with
  | some code => .next (s.setCur ((g.cset 7 false).lastRef code))
  | none =>
    if s.wg.claimQ.isEmpty && g.threadsN * (8 * b) * 4 ≤ s.balance s.wg.uid then
      .next (s.setCur ({ g.clearRegs g.count (8 * b) with count := g.count + 8 * b }.cset 7 true))
    else if s.wg.asked then .next (s.setCur ((g.cset 7 false).lastRef 0x23))
    else
      let t := s.setCur { g with wait := .claim b, waitSp := sp, safe := false }
      onward s (.settled ({ t with wg := { t.wg with claimQ := t.wg.claimQ ++ [g.key.gid] } }.claimDeadlock t.wg.uid))

/-- CLAIM (R152). -/
def execClaim (ctl : Ctl) (b : BitVec 6) (s : State) : Out :=
  issue (bareForm (.claim ctl b) false false) ctl.sp s
    (underGuard ctl (claimBody (wordOf (.claim ctl b)) ctl.sp b.toNat))

end Sys2Proof.Machine
end

