-- ==== Sys2Proof/Machine/Leases.lean ====
section
/-!
DEFINITION. Machine/Leases.lean: the tiers and page homes (R165, R179, R180), what the operating system maps (R177), lease tables
(R175) and the grant of a lease (R176).
-/

namespace Sys2Proof.Machine

/-! ### Reading what a packet names (R288) -/

/-- n bytes from an address, if every one can be read. -/
def readRange (f : Nat → Option Byte) : Nat → Nat → Option (List Byte)
  | _, 0 => some []
  | a, n + 1 => match f a, readRange f (a + 1) n with
    | some b, some bs => some (b :: bs)
    | _, _ => none

/-- A byte read through the page tables; for a LAUNCH it must lie under the parent's lease. -/
def State.structByte (s : State) (ctx : BitVec 16) (parent : Option Launch) (va : Nat) : Option Byte :=
  if parent.all (fun l => l.covers va) then (s.translate ctx va).map s.byte else none

def State.structBytes (s : State) (ctx : BitVec 16) (parent : Option Launch) (va n : Nat) : Option (List Byte) :=
  readRange (s.structByte ctx parent) va n

/-- A little-endian field of a list of bytes. -/
def natOf (bs : List Byte) (o n : Nat) : Nat := bytesNat ((bs.drop o).take n)

/-! ### Tiers and homes (R165, R179, R180) -/

/-- The name under which a page's home is kept: its address space and the first address of its leaf. -/
def Leaf.page (f : Leaf) : Nat := f.ctx.toNat * 2 ^ 48 + f.va / 4096

/-- A page that has not moved and is not pinned. -/
def Home.fresh (page : Nat) : Home := { page := page, pinned := false, moves := [] }

def State.homeOf (s : State) (f : Leaf) : Home := (s.homes.find? (fun h => h.page == f.page)).getD (.fresh f.page)

def State.setHome (s : State) (h : Home) : State := { s with homes := h :: s.homes.filter (fun x => x.page ≠ h.page) }

/-- Moves of a page in the last second. -/
def State.movesOf (s : State) (h : Home) : Nat := (h.moves.filter (fun t => s.time.now < t + 1000000000)).length

/-- The word that answers a home query (R180); for a page without a mapping it is free. -/
def State.homeWord (s : State) (ctx : BitVec 16) (va : Nat) : DWord :=
  match s.leafOf ctx va with
  | none => s.freeVal
  | some f =>
    let h := s.homeOf f
    let second := !s.nearTier f.pa
    .ofNat 64 (s.movesOf h * 256 + (if h.pinned then 8 else 0) + (if second then 4 else s.homeDie f.pa))

/-- HOME_QUERY. -/
def State.queryHome (s : State) (ctx : BitVec 16) (va : Nat) : State := { s.tick with hubLoad := s.homeWord ctx va }

/-! ### Mappings (R174, R177) -/

/-- A leaf of the page tables: 4 KiB, 64 KiB, 2 MiB or 1 GiB, aligned, wholly in one tier, and in the near tier on one die (R165, R174,
R179), at addresses that have not been withdrawn (R323). -/
def State.leafLegal (s : State) (f : Leaf) : Bool :=
  [4096, 65536, 2097152, 1073741824].contains f.size && f.va % f.size == 0 && f.pa % f.size == 0 &&
  ((List.range 4).any (fun d => (s.dieRange d).1 ≤ f.pa && f.pa + f.size ≤ (s.dieRange d).2) ||
    (s.nearTop ≤ f.pa && f.pa + f.size ≤ s.secondRange.2)) &&
  s.withdrawn.all (fun r => r.1 + r.2 ≤ f.pa || f.pa + f.size ≤ r.1)

/-- Does a lease, or a pin of R285, cover a mapping (R177)? -/
def State.leased (s : State) (f : Leaf) : Bool :=
  s.allLaunches.any (fun l => l.uid ≠ 0 && ((l.ctx == f.ctx &&
    l.leases.any (fun r => r.base.toNat < f.va + f.size && f.va < r.base.toNat + r.len)) ||
    l.statusPa.any (fun a => f.pa ≤ a && a < f.pa + f.size) || l.countPa.any (fun a => f.pa ≤ a && a < f.pa + f.size)))

/-- The operating system maps a leaf in the place of what was mapped there, or, with a size of 0, only unmaps (R177): refused while
a lease or a pin covers an old mapping. A page whose mapping goes loses its home and its pin (R179). -/
def State.mapLeaf (s : State) (leaf : Leaf) : State :=
  let hides := fun (f : Leaf) => f.ctx == leaf.ctx && f.va < leaf.va + max leaf.size 1 && leaf.va < f.va + f.size
  let old := s.tables.filter hides
  if old.any s.leased || !(leaf.size == 0 || s.leafLegal leaf) then s else
  { s with tables := s.tables.filter (fun f => !old.contains f) ++ (if leaf.size = 0 then [] else [leaf]),
           homes := s.homes.filter (fun h => !old.any (fun f => f.page == h.page)),
           paged := s.paged.filter (fun p => !hides p.leaf) }

/-- The operating system takes a page out of memory (R176): refused while a lease or a pin covers its mapping (R177). -/
def State.pageOut (s : State) (f : Leaf) : State :=
  if !s.tables.contains f || s.leased f then s else
  let here := fun (a : Nat) => f.pa ≤ a && a < f.pa + f.size
  { s with tables := s.tables.filter (· ≠ f), homes := s.homes.filter (fun h => h.page ≠ f.page),
           paged := { leaf := f, cells := (s.mem.filter (fun c => here c.1)).map (fun c => (c.1 - f.pa, c.2)),
                      bad := (s.memBad.filter (fun u => here (8 * u))).map (fun u => u - f.pa / 8) : Paged } :: s.paged }

/-! ### Lease tables (R175) -/

/-- One entry: none ends the table, some none refuses. -/
def leaseEntry (bs : List Byte) : Option (Option Lease) :=
  let w := natOf bs 8 8
  let base : DWord := .ofNat 64 (natOf bs 0 8)
  if fld w 48 2 = 0 then none
  else if fld w 52 12 ≠ 0 || fld w 50 2 = 3 || fld w 48 2 = 2 || fld w 0 48 = 0 || !canonical base then some none
  else some (some { base := base, len := fld w 0 48, tier := fld w 50 2, wr := fld w 48 2 == 3 })

/-- Reads up to n entries; none refuses. -/
def State.readLeases (s : State) (ctx : BitVec 16) (parent : Option Launch) (a : Nat) : Nat → Option (List Lease)
  | 0 => some []
  | n + 1 => match s.structBytes ctx parent a 16 with
    | none => none
    | some bs => match leaseEntry bs with
      | none => some []
      | some none => none
      | some (some e) => (s.readLeases ctx parent (a + 16) n).map (e :: ·)

/-- Does a range touch these addresses? -/
def Lease.touches (r : Lease) (va n : Nat) : Bool := r.base.toNat < va + n && va < r.base.toNat + r.len

/-- Two ranges ask for different tiers in one 64 KiB block (R175). -/
def tiersClash (a b : Lease) : Bool :=
  a.tier != 0 && b.tier != 0 && a.tier != b.tier &&
  a.base.toNat / 65536 ≤ (b.base.toNat + b.len - 1) / 65536 && b.base.toNat / 65536 ≤ (a.base.toNat + a.len - 1) / 65536

/-- The tiers that the ranges ask for in a piece of the address space, each once; a TIER of 00 defers to the others. -/
def asked (rs : List Lease) (va n : Nat) : List Nat :=
  ((rs.filter (fun r => r.tier ≠ 0 && r.touches va n)).map (·.tier)).eraseDups

/-! ### The grant (R176) -/

/-- Physical ranges in use: every mapped leaf, what firmware keeps for the device, and what a failed pseudo-channel has taken
away. The size of a save area is bounded by what R314 lays out in it. -/
def State.framesTaken (s : State) : List (Nat × Nat) :=
  s.tables.map (fun f => (f.pa, f.size)) ++ s.withdrawn ++ s.traces.map (fun t => (t.setup.base, t.setup.size)) ++
  ((s.core :: s.cores).map (fun c => [(c.setup.codeBase, c.setup.codeLen), (c.setup.dataBase, c.setup.dataLen)])).flatten ++
  (s.dies.map (fun e => (e.2.savePool ++ e.2.spillPool).map (fun a => (a, 4194304)))).flatten ++
  (s.allWgs.map (fun w => (match w.status with | .saved a => [(a, 4194304)] | _ => []) ++
    (w.areas ++ (w.tiles.filter (·.spilled)).map (·.spillAt)).map (fun a => (a, 4194304)))).flatten

/-- A free frame of a size in one of some ranges of physical addresses: which one is the lease manager's choice. -/
def State.findFrame (s : State) (ranges : List (Nat × Nat)) (size : Nat) : Option Nat :=
  let taken := s.framesTaken
  let fits := fun (range : Nat × Nat) a => range.1 ≤ a && a + size ≤ range.2 && taken.all (fun r => r.1 + r.2 ≤ a || a + size ≤ r.1)
  let found := (ranges.map (fun range =>
    ((range.1 :: taken.map (fun r => r.1 + r.2)).map (fun a => roundUp a size)).filter (fits range))).flatten
  found[s.freeVal.toNat % found.length]?

/-- The ranges of a tier: the near tier of each die, or the second tier. -/
def State.tierRanges (s : State) (near : Bool) : List (Nat × Nat) :=
  if near then (List.range 4).map s.dieRange else [s.secondRange]

/-- Moves the bytes of one block of memory to another, with their poison. -/
def State.moveBytes (s : State) (src dst n : Nat) : State :=
  let cells := s.mem.filter (fun c => src ≤ c.1 && c.1 < src + n)
  let kept := s.mem.filter (fun c => !(dst ≤ c.1 && c.1 < dst + n))
  { s with
    mem := cells.foldl (fun m c => mapSet (0 : Byte) m (c.1 - src + dst) c.2) kept,
    memBad := s.memBad.filter (fun u => !(dst ≤ 8 * u && 8 * u < dst + n)) ++
      ((s.memBad.filter (fun u => src ≤ 8 * u && 8 * u < src + n)).map (fun u => (8 * u - src + dst) / 8)),
    hist := s.hist.filter (fun e => !(dst ≤ 4 * e.1 && 4 * e.1 < dst + n)) }

def State.setLeaf (s : State) (old new : Leaf) : State := { s with tables := s.tables.map (fun f => if f == old then new else f) }

/-- A page that is not resident comes into memory (step 1 of R176), in the tier that the ranges ask for, or in one of the manager's
choice; none where no frame holds it. -/
def State.pageIn (s : State) (rs : List Lease) (p : Paged) : Option State :=
  let f := p.leaf
  let near := match asked rs f.va f.size with
    | t :: _ => t == 1
    | [] => s.freeVal.getLsbD 63
  match s.findFrame (s.tierRanges near) f.size with
  | none => none
  | some pa =>
    let here := fun (a : Nat) => pa ≤ a && a < pa + f.size
    some { s.tick with
      tables := s.tables ++ [{ f with pa := pa }], paged := s.paged.filter (· ≠ p),
      mem := p.cells.foldl (fun m c => mapSet (0 : Byte) m (pa + c.1) c.2) (s.mem.filter (fun c => !here c.1)),
      memBad := s.memBad.filter (fun u => !here (8 * u)) ++ p.bad.map (pa / 8 + ·),
      hist := s.hist.filter (fun e => !here (4 * e.1)) }

/-- The die on which the near-tier leaves of a block can come together: that of the first, or another, to which those that lie elsewhere
may still move (R179); first says which dies this grant may move them to. -/
def State.meetDie (s : State) (small : List Leaf) (fresh : Leaf → Bool) (first : Nat) : Option Nat :=
  (first :: List.range 4).find? (fun d => small.all (fun f => s.homeDie f.pa == d ||
    (fresh f && !(s.homeOf f).pinned && s.movesOf (s.homeOf f) < 8)))

/-- Replaces the 4 KiB leaves of a 64 KiB block by one leaf (steps 2 and 3 of R176): all sixteen must be there and under no other lease.
Where a range asks for write rights in the block the leaf is writable, and the new frame is the own copy of what was copy-on-write;
otherwise the sixteen have the same rights already. The frame lies in the tier that the ranges ask for, or else in that of the first
leaf; of near-tier leaves the home changes only within the limits of R179, and the leaf carries the pin and the moves of the page that
has moved most (DESIGN CHOICE, log entry 82). The second component says whether a home has moved. -/
def State.promote (s : State) (rs : List Lease) (ctx : BitVec 16) (va : Nat) (done : List Nat) : Option (State × Bool) :=
  let block := va / 65536 * 65536
  let small := s.tables.filter (fun f => f.ctx == ctx && block ≤ f.va && f.va + f.size ≤ block + 65536)
  let wr := rs.any (fun r => r.wr && r.touches block 65536)
  match s.leafOf ctx block with
  | none => none
  | some f0 =>
    if small.length ≠ 16 || small.any s.leased ||
        (if wr then small.any (fun f => !f.wr && !f.cow) else small.any (fun f => f.wr != f0.wr || f.cow != f0.cow)) then none else
    let near := match asked rs block 65536 with
      | t :: _ => t == 1
      | [] => s.nearTier f0.pa
    let homed := small.filter (fun f => s.nearTier f.pa)
    let die := if near && !homed.isEmpty then s.meetDie homed (fun f => !done.contains f.page) (s.homeDie f0.pa) else some 4
    let stuck := !near && homed.any (fun f => (s.homeOf f).pinned)
    match (if stuck then none else die).bind (fun d => s.findFrame (if d < 4 then [s.dieRange d] else s.tierRanges near) 65536) with
    | none => none
    | some pa =>
      let hs := small.map s.homeOf
      let most := hs.foldl (fun m h => if m.length < h.moves.length then h.moves else m) []
      let moved := near && homed.any (fun f => s.homeDie f.pa != s.homeDie pa)
      let leaf := { f0 with va := block, size := 65536, pa := pa, wr := f0.wr || wr, cow := f0.cow && !wr }
      let home : Home :=
        { page := leaf.page, pinned := hs.any (·.pinned), moves := if moved then s.time.now :: most else most }
      let s := small.foldl (fun s f => s.moveBytes f.pa (pa + (f.va - block)) 4096) s.tick
      let s := { s with tables := s.tables.filter (fun f => !small.contains f) ++ [leaf],
                        homes := s.homes.filter (fun h => !small.any (fun f => f.page == h.page)) }
      some (if home.pinned || !home.moves.isEmpty then s.setHome home else s, moved)

/-- Cuts a leaf over blocks whose ranges ask for different tiers into leaves of 64 KiB (R175), each with the leaf's pin and moves
(R179, R180). -/
def State.splitLeaf (s : State) (f : Leaf) : State :=
  let parts := (List.range (f.size / 65536)).map (fun i => { f with va := f.va + 65536 * i, size := 65536, pa := f.pa + 65536 * i })
  let t := { s with tables := s.tables.filter (· ≠ f) ++ parts }
  if s.homes.any (fun h => h.page == f.page) then parts.foldl (fun t p => t.setHome { s.homeOf f with page := p.page }) t else t

/-- Gives one leaf what the lease asks of it (R176): its tier, its own copy of a copy-on-write page, the accessed and dirty bits;
and, once for each grant and at most eight times a second, the home that the lease manager wants for it, or else the pin (R179). A
pinned page keeps its home, so that a range that asks for the second tier cannot have it. Under another lease nothing moves (R165,
R177). With TIER 00, where the manager chooses, the page stays in the tier in which it lies (DESIGN CHOICE, log entry 77). A
read-and-write range over a page that is read-only and not copy-on-write fails the grant: R176 does not say what becomes of it (DESIGN
CHOICE, log entry 78). -/
def State.grantLeaf (s : State) (f : Leaf) (tier : Nat) (wr once : Bool) : Option State :=
  let copy := wr && f.cow
  let wrongTier := tier != 0 && (tier == 1) != s.nearTier f.pa
  let held := s.leased f
  if (wr && !f.wr && !f.cow) || (held && (copy || wrongTier)) || (wrongTier && (s.homeOf f).pinned) then none else
  let f' := { f with wr := f.wr || copy, cow := f.cow && !copy, used := true, dirtied := true }
  -- whether a near page is to move to another die, and to which, is the lease manager's choice
  let want := s.freeVal.toNat / 256
  let move := !held && once && s.nearTier f.pa && !wrongTier && want % 2 == 1 && want / 2 % 4 != s.homeDie f.pa
  let h := s.homeOf f
  let mayMove := move && !h.pinned && s.movesOf h < 8
  let ranges := if wrongTier then s.tierRanges (tier == 1)
    else if mayMove then [s.dieRange (want / 2 % 4)]
    else if s.nearTier f.pa then [s.dieRange (s.homeDie f.pa)] else [s.secondRange]
  let s := if move && !mayMove then s.setHome { h with pinned := true } else s
  if copy || wrongTier || mayMove then
    match s.findFrame ranges f.size with
    | none => if copy || wrongTier then none else some (s.tick.setLeaf f f')
    | some pa =>
      let s := (s.moveBytes f.pa pa f.size).setLeaf f { f' with pa := pa }
      let s := if mayMove then s.setHome { h with moves := s.time.now :: h.moves } else s
      some s.tick
  else some (s.tick.setLeaf f f')

/-- Grants a range from an address on, leaf by leaf; n bounds the leaves, done lists the pages this grant has seen. -/
def State.grantRange (s : State) (rs : List Lease) (ctx : BitVec 16) (r : Lease) (done : List Nat) :
    Nat → Nat → Option (State × List Nat)
  | 0, lo => if r.base.toNat + r.len ≤ lo then some (s, done) else none
  | n + 1, lo =>
    if r.base.toNat + r.len ≤ lo then some (s, done) else
    match s.leafOf ctx lo with
    | none =>
      match s.paged.find? (fun p => p.leaf.ctx == ctx && p.leaf.va ≤ lo && lo < p.leaf.va + p.leaf.size) with
      | none => none
      | some p => (s.pageIn rs p).bind (fun s => s.grantRange rs ctx r done n lo)
    | some f =>
      if f.size < 65536 then
        let block := lo / 65536 * 65536
        -- the block's pages become resident, then they are replaced by one leaf
        match s.paged.find? (fun p => p.leaf.ctx == ctx && block ≤ p.leaf.va && p.leaf.va < block + 65536) with
        | some p => (s.pageIn rs p).bind (fun s => s.grantRange rs ctx r done n lo)
        | none => (s.promote rs ctx lo done).bind (fun t =>
            t.1.grantRange rs ctx r (if t.2 then (ctx.toNat * 2 ^ 48 + block / 4096) :: done else done) n lo)
      else if 1 < (asked rs f.va f.size).length then
        (if s.leased f then none else (s.splitLeaf f).grantRange rs ctx r done n lo)
      else
        (s.grantLeaf f ((asked rs f.va f.size).headD 0) r.wr (!done.contains f.page)).bind (fun s =>
          s.grantRange rs ctx r (f.page :: done) n (f.va + f.size))

/-- Grants every range of a table, one after another. -/
def State.grantAll (s : State) (ctx : BitVec 16) (ranges : List Lease) : Option State :=
  (ranges.foldl (fun (t : Option (State × List Nat)) r => t.bind (fun t =>
    t.1.grantRange ranges ctx r t.2 (2 * t.1.tables.length + 2 * t.1.paged.length + r.len / 32768 + 4) r.base.toNat)) (some (s, []))).map (·.1)

end Sys2Proof.Machine
end

