-- ==== Sys2Proof/Machine/Launches.lean ====
section
/-!
DEFINITION. Machine/Launches.lean: from a launch packet to its groups and back (R283 to R297, R299, R300): the packet and its
checks, the lease (R175, R176), admission and placement (R112, R113, R295 to R297), a group's start (R21), retirement, and the

end of a launch.
-/

namespace Sys2Proof.Machine

/-- Writes bytes as an agent that is no group: each word whole, readable once performed (R213). -/
def State.putBytes (s : State) (pa : Nat) (bs : List Byte) : State :=
  if bs.isEmpty then s else
  (List.range ((pa % 4 + bs.length + 3) / 4)).foldl (fun s i =>
    let w := pa / 4 + i
    let byte := fun (b : Nat) => if pa ≤ b && b < pa + bs.length then bs.getD (b - pa) 0 else s.byte b
    s.engineWrite w (.ofNat 32 (bytesNat [byte (4 * w), byte (4 * w + 1), byte (4 * w + 2), byte (4 * w + 3)])))
    (s.cleanMem pa bs.length)

/-- A case of R283 that refuses with FIELD. -/
def Launch.fieldBad (l : Launch) : Bool :=
  l.pword 0 6 2 != 0 || l.pword 1 0 32 == 0 || l.pword 1 32 16 == 0 || l.pword 1 48 16 == 0 ||
  l.pword 2 59 5 != 0 || l.toyLog < 12 || 30 < l.toyLog || !l.allowed.getLsbD l.start ||
  l.wgX == 0 || l.wgY == 0 || l.wgZ == 0 || 2048 < l.wgX || 2048 < l.wgY || 2048 < l.wgZ || 2048 < l.threads ||
  l.pword 4 0 3 != 0 || l.pword 5 48 16 != 0 || l.mapAt % 64 != 0 || l.pword 6 48 16 != 0 || l.partAt % 16 != 0 ||
  l.pword 7 48 16 != 0 || l.leaseAt % 16 != 0 || (l.paced && l.mapAt == 0)

/-! ### Shares (R290 to R292, R336) -/

/-- The default of R292, over the healthy dies. -/
def State.defaultShares (s : State) (n : Nat) : List Share :=
  let up := (List.range 4).filter s.dieUp
  let k := up.length
  ((up.mapIdx (fun j d => ({ die := d, next := (j * n + (k - 1)) / k, stop := ((j + 1) * n + (k - 1)) / k } : Share)))).filter
    (fun x => x.next < x.stop)

def increasing : List Nat → Bool
  | a :: b :: r => a < b && increasing (b :: r)
  | _ => true

/-- The shares of a partition vector, if it is legal (R291, R292). -/
def State.partShares (s : State) (n : Nat) (bs : List Byte) : Option (List Share) :=
  let firsts := ((List.range 4).map (fun d => (d, natOf bs (4 * d) 4))).filter (fun x => x.2 ≠ 0xFFFFFFFF)
  if firsts.isEmpty || 2 ^ 32 ≤ n || (firsts.headD (0, 0)).2 ≠ 0 || !increasing (firsts.map (·.2)) ||
      firsts.any (fun x => n ≤ x.2 || !s.dieUp x.1) then none
  else
    some (firsts.mapIdx (fun i x => { die := x.1, next := x.2, stop := ((firsts[i + 1]?).map (·.2)).getD n }))

/-! ### Placement maps (R249, R293, R294) -/

/-- A string record at an offset of the map, if its bytes are laid out as R293 says. -/
def stringRecord (bs : List Byte) (o : Nat) : Option Strings :=
  let up := natOf bs (o + 1) 1
  let dn := natOf bs (o + 2) 1
  let tail := fun (b n : Nat) => (List.range (8 - n)).all (fun i => natOf bs (b + n + i) 1 == 0)
  if 8 < up || 8 < dn || natOf bs (o + 3) 1 ≠ 0 || !tail (o + 4) up || !tail (o + 12) dn then none
  else some { core := natOf bs o 1, up := (List.range up).map (fun i => natOf bs (o + 4 + i) 1),
              down := (List.range dn).map (fun i => natOf bs (o + 12 + i) 1) }

def allSome {α : Type} : List (Option α) → Option (List α)
  | [] => some []
  | some x :: r => (allSome r).map (x :: ·)
  | none :: _ => none

/-- The map's head, cores and strings: none where it breaks R293. -/
def State.readMap (s : State) (l : Launch) (parent : Option Launch) : Option (PlaceMap × Nat × Nat) :=
  match s.structBytes l.ctx parent l.mapAt 16 with
  | none => none
  | some h =>
    let n := natOf h 0 4
    let nstr := natOf h 4 2
    let at0 := roundUp (16 + n) 4
    if natOf h 8 8 ≠ 0 || n ≠ l.gridN then none else
    match s.structBytes l.ctx parent l.mapAt (at0 + 20 * nstr) with
    | none => none
    | some bs =>
      match allSome ((List.range nstr).map (fun i => stringRecord bs (at0 + 20 * i))) with
      | none => none
      | some strs =>
        let cores := (List.range n).map (fun i => natOf bs (16 + i) 1)
        if cores.any (fun c => !s.couldHold l c l.start || (l.allowed &&& ~~~(s.getCore c).curve) ≠ 0) then none
        else if l.paced && cores.eraseDups.length ≠ cores.length then none
        else some ({ cores := cores, strings := strs, bindings := [] }, at0 + 20 * nstr, natOf h 6 2)

/-- The strings of a paced launch break R249. -/
def PlaceMap.stringsBad (m : PlaceMap) : Bool :=
  let names := fun (x : Strings) => x.up ++ x.down
  let rec_ := fun (c : Nat) => m.strings.find? (fun x => x.core == c)
  m.strings.any (fun x =>
    (names x).any (fun c => c == x.core || !m.cores.contains c) ||
    x.up.eraseDups.length ≠ x.up.length || x.down.eraseDups.length ≠ x.down.length ||
    !m.cores.contains x.core ||
    x.up.any (fun u => !((rec_ u).any (fun y => y.down.contains x.core))) ||
    x.down.any (fun d => !((rec_ d).any (fun y => y.up.contains x.core)))) ||
  (m.strings.map (·.core)).eraseDups.length ≠ m.strings.length

/-- The channel list of a map: none where it breaks R294, or binds a failed endpoint (R323). -/
def State.readBindings (s : State) (l : Launch) (parent : Option Launch) (m : PlaceMap) (o n : Nat) : Option (List Binding) :=
  match s.structBytes l.ctx parent (l.mapAt + o) (4 * n) with
  | none => none
  | some bs =>
    let b := (List.range n).map (fun i => ({
      sender := natOf bs (4 * i) 1, out := natOf bs (4 * i + 1) 1,
      recv := natOf bs (4 * i + 2) 1, inp := natOf bs (4 * i + 3) 1 } : Binding))
    if b.any (fun x => !m.cores.contains x.sender || !m.cores.contains x.recv || 8 ≤ x.out || 8 ≤ x.inp ||
          s.endpoints.contains (x.sender, x.out, true) || s.endpoints.contains (x.recv, x.inp, false)) ||
        (b.map (fun x => (x.sender, x.out))).eraseDups.length ≠ b.length ||
        (b.map (fun x => (x.recv, x.inp))).eraseDups.length ≠ b.length then none
    else some b

/-! ### Check 7: the lease (R175, R176, R285) -/

/-- The toy box area of a launch that binds channels, granted like a range with write rights (R286). -/
def Launch.toyRange (l : Launch) (nch : Nat) : List Lease :=
  if nch = 0 || l.toyBase = 0 then []
  else [{ base := .ofNat 64 l.toyBase, len := nch * 2 ^ l.toyLog, tier := 0, wr := true }]

/-- The lease and what its grant leaves (R175, R176), with the toy box area and the completion counter (R285): none refuses. -/
def State.grantLease (s : State) (l : Launch) (parent : Option Launch) (nch : Nat) : Option (List Lease × State) :=
  match (if l.leaseAt = 0 then some [] else s.readLeases l.ctx parent l.leaseAt 16) with
  | none => none
  | some rs =>
    if rs.any (fun a => rs.any (tiersClash a)) then none else
    match s.grantAll l.ctx (rs ++ l.toyRange nch) with
    | none => none
    | some t => if l.counterAt ≠ 0 && (t.writableAt l.ctx l.counterAt).isNone then none else some (rs, t)

/-! ### The checks of R286 -/

/-- The launch and the machine as the checks leave them, or the code of the first check that fails. -/
def State.checkPacket (s : State) (l : Launch) (parent : Option Launch) : Except Nat (Launch × State) :=
  if l.fieldBad || (s.writableAt l.ctx (l.packet + 38)).isNone then .error 0x80 else
  match s.objects.find? (fun k => k.addr == l.codeAt && k.ctx == l.ctx) with
  | none => .error 0x81
  | some k =>
    if (k.isProt && !l.isProt) || (l.paced && k.dmin == 0) then .error 0x81
    else if (l.allowed &&& ~~~k.supported) ≠ 0 || (l.isProt && k.compat && l.start == 0) then .error 0x82
    else
      let l := { l with kern := k }
      let shares := if l.partAt = 0 then (if l.mapAt = 0 then some (s.defaultShares l.gridN) else some [])
        else if l.mapAt ≠ 0 then none
        else (s.structBytes l.ctx parent l.partAt 16).bind (s.partShares l.gridN)
      match shares with
      | none => .error 0x83
      | some shares =>
        let mapped := if l.mapAt = 0 then some none else (s.readMap l parent).map some
        match mapped with
        | none => .error 0x84
        | some m =>
          let bound := match m with
            | none => some ([] : List Binding)
            | some (m, o, n) => if l.paced && m.stringsBad then none else s.readBindings l parent m o n
          match bound with
          | none => .error 0x85
          | some bs =>
            match s.grantLease l parent bs.length with
            | none => .error 0x86
            | some (rs, t) =>
              let map := m.map (fun x => { x.1 with bindings := bs })
              let cores := (List.range 256).filter (fun c =>
                if l.mapAt = 0 then shares.any (fun x => x.die == dieOf c) else (map.map (·.cores)).getD [] |>.contains c)
              if !cores.any (fun c => s.couldHold l c l.start) then .error 0x87
              else .ok ({ l with
                leases := rs, map := map, shares := shares,
                chans := bs.mapIdx (fun i b => {
                  bind := b, transit := [], fifo := [], toy := [], toyOn := false, toyAt := l.toyBase + i * 2 ^ l.toyLog,
                  toyCap := 2 ^ l.toyLog / 64, toyNext := 0, closed := false }) }, t)

/-! ### STATUS and the end of a launch (R284, R285, R299) -/

def State.writeStatus (s : State) (u st : Nat) : State :=
  match (s.findLaunch u).bind (·.statusPa) with
  | some pa => s.putBytes pa (natBytes st 2)
  | none => s

def traceDisp (s : State) (event : Nat) (l : Launch) (unit : Nat) (core : Option Nat) (a1 : Nat) : State :=
  s.trace 6 event unit core none l.ctx (.ofNat 64 l.packet) (.ofNat 64 a1)

/-- The unit whose dispatcher handles a launch: the hub for a port submission, the issuing die for a LAUNCH. -/
def Launch.unit (l : Launch) : Nat := l.poolDie.getD 4

/-- Step 3 of R299: the increment at .sys, a release of what the launch's groups knew; then both pins go. -/
def State.signalDone (s : State) (u : Nat) : State :=
  match s.findLaunch u with
  | none => s
  | some l =>
    let s := match l.countPa with
      | some pa => s.increment pa l.inc l.know 6 .device
      | none => s
    s.onLaunch u (fun l => { l with statusPa := none, countPa := none })

/-- The pinned translations of the STATUS word and of the completion counter (R285). -/
def State.pins (s : State) (l : Launch) : Launch :=
  { l with statusPa := s.writableAt l.ctx (l.packet + 38),
           countPa := if l.counterAt = 0 then none else s.writableAt l.ctx l.counterAt }

/-- A launch's share of a die is queued there (R290, R336): in the entry that a LAUNCH has taken, in a free one, or else it waits in
the hub. A die without a share gives its entry back. -/
def State.queueShare (s : State) (u die : Nat) : State :=
  let l := (s.findLaunch u).getD .absent
  if (l.pendingOn die).isEmpty then s.leavePool u die
  else if l.inPool die then
    s.onLaunch u (fun l => { l with pools := l.pools.map (fun e => if e.die == die then { e with since := s.time.now } else e) })
  else if 1024 ≤ (s.die die).pool then s
  else s.enterPool u die

/-- The packet of launch u is checked (R286): queued, or refused with its code. -/
def State.admitPacket (s : State) (u : Nat) (parent : Option Launch) : State :=
  match s.findLaunch u with
  | none => s
  | some l =>
    match s.checkPacket l parent with
    | .ok (l', s) =>
      let s := s.onLaunch u (fun _ => { s.pins l' with state := .queued, queuedAt := s.time.now })
      let s := s.writeStatus u 0x1000
      traceDisp ((List.range 4).foldl (fun s d => s.queueShare u d) s) 1 l' l'.unit none 0x1000
    | .error code =>
      let s := s.onLaunch u (fun _ => { s.pins l with state := .refused, code := code })
      let s := s.writeStatus u (0x4000 + code)
      let s := traceDisp s 2 l l.unit none (0x4000 + code)
      (s.signalDone u).leavePools u

def State.onCores (s : State) (f : Core → Core) : State := { s with core := f s.core, cores := s.cores.map f }

/-- The lease of a launch ends: no TLB entry of it stays, unless another launch's lease of the context holds it (R174, R177). -/
def State.endLeaseOf (s : State) (l : Launch) : State :=
  let held := fun (f : Leaf) => s.allLaunches.any (fun m => m.uid != l.uid && m.ctx == f.ctx &&
    m.leases.any (fun r => r.base.toNat < f.va + f.size && f.va < r.base.toNat + r.len))
  (s.onCores (fun c => { c with tlb := c.tlb.filter (fun f => f.ctx != l.ctx || held f) })).onLaunch l.uid
    (fun l => { l with leases := [] })

/-- Save areas go back to their pool: those that a restored workgroup still holds, and the one that it is saved in. -/
def State.returnArea (s : State) (w : Workgroup) : State :=
  let as := w.areas ++ (match w.status with | .saved a => [a] | _ => [])
  if as.isEmpty then s else s.onDie (dieOf w.home) (fun d => { d with savePool := d.savePool ++ as })

/-- A workgroup leaves the machine: its frames, groups, commands and scratchpad bytes. -/
def State.dropWg (s : State) (u : Nat) : State :=
  match s.findWg u with
  | none => s
  | some w =>
    let s := s.returnArea w
    let clear := fun (c : Core) =>
      { c with frames := c.frames.filter (fun e => !((e.2.owner.any (fun o => o.wg == u)) || (e.2.held.any (fun h => h.1 == u)))),
               mq := c.mq.filter (fun m => m.wg ≠ u) }
    let s := s.onCores clear
    let s := { s with cur := if s.cur.key.wg == u then { s.cur with live := false } else s.cur,
                      groups := s.groups.filter (fun g => g.key.wg ≠ u) }
    s.onWg u (fun w => { w with status := .gone, pad := [], tags := [], tagKnow := [], padBad := [], padOld := [], tiles := [],
                                areas := [] })

/-- Points that were withdrawn leave the curve of a core that holds no workgroup (R324); one with none left is mapped out. -/
def State.settleCurve (s : State) (core : Nat) : State :=
  if (s.residents core).isEmpty then
    s.onCore core (fun c => { c with curveCap := c.curve, present := c.present && c.curve != 0 }) else s

/-- Steps 1 to 3 of R299. -/
def State.closeLaunch (s : State) (u : Nat) (st : LaunchState) (status : Nat) : State :=
  match s.findLaunch u with
  | none => s
  | some l =>
    let mine := s.allWgs.filter (fun w => w.launch == u && w.uid != 0)
    let s := mine.foldl (fun s w => s.dropWg w.uid) s
    let s := (mine.map (·.core)).eraseDups.foldl (fun s c => s.settleCurve c) s
    let s := s.onCores (fun c => { c with paces := c.paces.filter (fun p => p.launch ≠ u) })
    let s := s.endLeaseOf l
    let s := s.writeStatus u status
    let s := (s.signalDone u).leavePools u
    let s := { s with copies := s.copies.filter (fun c => c.launch ≠ u), inbound := s.inbound.filter (fun i => i.msg.launch ≠ u) }
    let s := s.onLaunch u (fun l => { l with state := st, windows := [], chans := [], queues := [], posted := [] })
    let s := traceDisp s 8 l l.unit none status
    if l.trapInfo = (0, 0) then s else s.trace 6 8 l.unit none none l.ctx l.trapInfo.1 l.trapInfo.2

/-- Engine commands and reductions that a launch has issued and that have not ended; a send whose queue has timed out is over
(R342). -/
def State.busy (s : State) (u : Nat) : Bool :=
  s.copies.any (fun c => c.launch == u && !s.lapsed c) || s.outMsgs.any (fun m => m.launch == u) ||
  s.atomq.any (fun r => ((s.findWg r.from_.wg).getD .absent).launch == u) ||
  (s.core :: s.cores).any (fun c => c.mq.any (fun m => ((s.findWg m.wg).getD .absent).launch == u))

/-- LAUNCH_COMPLETION (R299): every copy and send has made its increment; a send whose queue has timed out never will (R342). -/
def State.launchDone (s : State) (u : Nat) : State :=
  match s.findLaunch u with
  | none => s
  | some l =>
    if l.state ≠ .running || l.retired < l.gridN || s.busy u || s.copies.any (fun c => c.launch == u) then s
    else s.closeLaunch u .done 0x3000

/-- LAUNCH_END_COMPLETION (R299): STATE 5 with the code. -/
def State.launchEnded (s : State) (u : Nat) : State :=
  match s.findLaunch u with
  | none => s
  | some l => if l.state ≠ .ending || s.busy u then s else s.closeLaunch u .ended (0x5000 + l.code)

/-! ### Ports (R287, R289) -/

/-- What happens before an application core's next access (R366). -/
def State.appKnows (s : State) (core : Nat) : Know := mapGet [] s.appKnow core

def State.setAppKnow (s : State) (core : Nat) (k : Know) : State := { s with appKnow := mapSet [] s.appKnow core k }

/-- A release of an application core at .sys (R366): a sync point that publishes what happens before it, so that the engines read it too
where the release happens before their command (R207, R218). -/
def State.appRelease (s : State) (core : Nat) : State :=
  ({ s with hist := publishHist s.hist none (s.appKnows core) { scope := 6, party := .outside } [s.nextId],
            nextId := s.nextId + 1 } : State).setAppKnow core ((s.appKnows core).raise syncKey s.nextId)

/-- The application cores (R1). -/
def appCores : Nat := 16

/-- A store of an application core to offset 0x00 of a launch-port page: a release of that core at .sys, which the starts of the launch's
groups acquire (R206, R366). -/
def State.portSubmit (s : State) (core : Nat) (ctx : BitVec 16) (value : DWord) : State :=
  if s.phase < 9 || appCores ≤ core || value.toNat % 128 ≠ 0 then s else
  let s := s.appRelease core
  match s.structBytes ctx none value.toNat 128 with
  | none => s.trace 6 2 4 none none ctx value 0x4080
  | some bs =>
    let l : Launch :=
      { Launch.absent with uid := s.nextId, packet := value.toNat, ctx := ctx, words := packetWords bs, state := .pooled,
                           queuedAt := s.time.now, know := s.appKnows core }
    let s := { s with nextId := s.nextId + 1, launches := s.launches ++ [l],
                      accepted := mapSet 0 s.accepted ctx.toNat ((mapGet 0 s.accepted ctx.toNat + 1) % 2 ^ 64) }
    s.admitPacket l.uid none

/-- A store to offset 0x10. -/
def State.portKill (s : State) (ctx : BitVec 16) (value : DWord) (supervisor : Bool) : State :=
  if s.phase < 9 then s
  else if !supervisor then s.trace 6 2 4 none none ctx value 0x4080
  else match s.allLaunches.find? (fun l => l.packet == value.toNat && l.ctx == ctx && l.uid != 0 &&
      (l.state == .queued || l.state == .running)) with
    | some l => s.endLaunch l.uid codeKilled
    | none => s

/-! ### A group's start (R21, R110, R126, R127) -/

def groupWidth (l : Launch) (k : Kernel) (p : Nat) : Nat := if k.compat then 16 * l.lanesPer else widthAt p

/-- Threads of a group. -/
def groupThreads (l : Launch) (k : Kernel) (p : Nat) : Nat := groupWidth l k p / l.lanesPer

/-- The thread of a lane. -/
def threadOf (l : Launch) (k : Kernel) (p gid j : Nat) : Option Nat :=
  let i := gid * groupThreads l k p + j / l.lanesPer
  if i < l.threads then some i else none

/-- s1 to s8 from the argument block. -/
def Launch.args (l : Launch) : SMap DWord := (List.range 8).foldl (fun m i => mapSet 0 m (i + 1) (l.words.getD (8 + i) 0)) []

/-- A group at its first instruction. -/
def Group.fresh (l : Launch) (k : Kernel) (p u gid slot : Nat) (shadow : Bool) (know : Know) (energy : Nat) : Group :=
  let w := groupWidth l k p
  let has := fun j => (threadOf l k p gid j).isSome
  { Group.absent with
    key := { wg := u, gid := gid, shadow := shadow }, live := true, width := w,
    lanes := ((List.range w).filter has).map (fun j => (j, { Lane.empty with thread := threadOf l k p gid j })),
    s := l.args, pc := .ofNat 64 (k.codeBase + (if shadow then k.slice.getD 0 else k.entry)),
    act := maskOf ((List.range w).filter has), exited := maskOf ((List.range w).filter (fun j => !has j)),
    count := if shadow then 16 else k.regs, slot := slot, known := know, energy0 := energy }

/-- The slot of a group that comes to a core: that of its physical group, of which under 16-lane compatibility it is a part
(R127), or else the lowest free one (R112). -/
def State.slotFor (s : State) (core : Nat) (k : GKey) : Nat :=
  let here := s.allGroups.filter (fun g => ((s.findWg g.key.wg).getD .absent).core == core)
  match here.find? (fun g => s.physOf g.key core == s.physOf k core) with
  | some g => g.slot
  | none => ((List.range 128).find? (fun i => !here.any (fun g => g.slot == i))).getD 0

/-- Adds a group; its start is an acquire that takes a snapshot at .sys (R206). -/
def State.addGroup (s : State) (g : Group) : State :=
  State.asGroup { s with groups := s.groups ++ [g] } g.key (fun s => s.snapshot 6)

/-- Starts every group of a workgroup, with its shadow where the kernel has a slice (R239). -/
def State.startGroups (s : State) (w : Workgroup) (l : Launch) (know : Know) : State :=
  let p := (s.getCore w.core).point
  let n := (l.threads + (groupThreads l w.kern p - 1)) / groupThreads l w.kern p
  let s := s.onWg w.uid (fun w => { w with groupsN := n })
  (List.range n).foldl (fun s gid =>
    let slot := fun (s : State) shadow => s.slotFor w.core { wg := w.uid, gid := gid, shadow := shadow }
    let s := s.addGroup (Group.fresh l w.kern p w.uid gid (slot s false) false know w.energy)
    if w.kern.slice.isNone then s else
    let g := Group.fresh l w.kern p w.uid gid (slot s true) true know w.energy
    (s.addGroup g).traceCore 3 1 w.core l.ctx g.pc 0) s

/-! ### Placement (R295 to R297) -/

/-- The floor of a core at a point, in tenths of a millivolt (R325). -/
def Core.floorAt (c : Core) (p : Nat) : Nat := 10 * (railAt p - 40) + c.floorUp

/-- The rail of a core after a move to a point: the nominal one, or the floor where that lies higher; while adaptation is frozen the
margin to the nominal rail stays (R325). -/
def Core.railFor (c : Core) (p : Nat) : Nat :=
  if c.frozen then railAt p + c.rail - railAt c.point else max (railAt p) ((c.floorAt p + 9) / 10)

/-- A core's rail moves, with its record (R348); the puppeteer notes when (R360). -/
def State.moveRail (s : State) (core rail : Nat) : State :=
  if (s.getCore core).rail = rail then s else
  (s.onCore core (fun c => { c with rail := rail, slewed := some s.time.now })).traceCore 8 1 core 0
    (.ofNat 64 (s.getCore core).point) (.ofNat 64 rail)

/-- A core goes to a point, and its rail with it. -/
def State.goPoint (s : State) (core p : Nat) : State :=
  if (s.getCore core).point = p then s else
  (s.onCore core (fun c => { c with point := p })).moveRail core ((s.getCore core).railFor p)

/-- Sets the point of an idle core, without a rendezvous. -/
def State.setPoint (s : State) (core p : Nat) : State := s.goPoint core p

/-- Places workgroup i of a launch on a core and starts its groups. -/
def State.place (s : State) (l : Launch) (i core : Nat) : State :=
  let p := s.startPoint l core
  let s := s.setPoint core p
  let base := if l.kern.pad = 0 then 0 else (padSlot (s.padTaken core) (roundPad l.kern.pad)).getD 0
  let win := ((l.windows.filter (fun w => w.core == core)).map (·.len)).sum
  let w : Workgroup :=
    { Workgroup.absent with
        uid := s.nextId, launch := l.uid, l := i, core := core, home := core,
        status := .running, kern := l.kern, size := l.kern.pad, padBase := base, account := l.regBytes l.kern,
        charged := l.estimate, started := s.time.now }
  let s := s.onDie (dieOf core) (fun d => { d with reservoir := d.reservoir - 1000 * l.estimate })
  let s := { s with nextId := s.nextId + 1, wgs := s.wgs ++ [w] }
  let s := s.onLaunch l.uid (fun l => { l with
    placed := if l.map.isSome then i :: l.placed else l.placed,
    shares := l.shares.map (fun x => if x.die == dieOf core && x.next == i then { x with next := i + 1 } else x),
    windows := if l.kern.pad = 0 then l.windows
      else l.windows ++ [{ core := core, base := win, len := l.kern.pad, wg := w.uid, fin := false }] })
  let s := if l.state = .queued then
      (s.onLaunch l.uid (fun l => { l with state := .running })).writeStatus l.uid 0x2000 else s
  let s := if l.paced then s.onCore core (fun c => { c with
      paces := c.paces.filter (fun p => p.launch ≠ l.uid) ++ [.fresh l.uid
        (((l.map.map (·.strings)).bind (fun xs => xs.find? (fun x => x.core == core))).getD { core := core, up := [], down := [] })] }) else s
  let s := traceDisp s 3 l (dieOf core) (some core) i
  let s := (s.startGroups w l l.know).foundRoom (dieOf core) l.uid
  if (((s.findLaunch l.uid).getD .absent).pendingOn (dieOf core)).isEmpty then s.leavePool l.uid (dieOf core) else s

/-- Another launch of the die comes before this one in order, and the dispatcher can serve it now: a restore takes no energy. -/
def State.overtaken (s : State) (l : Launch) (die : Nat) : Bool :=
  (s.order die).any (fun h => h.uid != l.uid && s.before die h l && ((s.nextRestore h die).isSome ||
    ((s.nextPlace h die (s.barredBy die h)).isSome && (s.die die).covers h.estimate)))

/-- May the workgroup be restored on the core now? -/
def State.restoreCore (s : State) (w : Workgroup) (l : Launch) (area core : Nat) : Bool :=
  s.restoreOn w l area == some core && !s.overtaken l (dieOf core)

/-- WORKGROUP_PLACEMENT (R295): the packet of the next launch of the die's pool is checked, or else the next workgroup in order
is placed, if there is room and energy for it; a saved workgroup comes before those of its launch that were never placed. -/
def State.placement (s : State) (die : Nat) : State :=
  match s.launches.find? (fun l => l.state == .pooled && l.poolDie == some die) with
  | some l => s.admitPacket l.uid (l.parent.bind s.findLaunch)
  | none =>
    match (s.order die).findSome? (fun l => if (s.nextRestore l die).isSome then some none
        else (s.nextPlace l die (s.barredBy die l)).map (fun x => some (l, x))) with
    | some (some (l, i, core)) => if (s.die die).covers l.estimate then s.place l i core else s
    | _ => s

/-! ### Retirement (R167, R255, R275, R277, R296) -/

/-- Does a core that names this one upstream still run (R255)? -/
def State.stepsRead (s : State) (l : Launch) (core : Nat) : Bool :=
  match l.map with
  | none => false
  | some m => m.strings.any (fun x => x.up.contains core && !(s.paceOf x.core l.uid).finished)

/-- Scrubs kept step buffers that no core reads any more. -/
def State.scrubKept (s : State) (l : Launch) : State :=
  match l.map with
  | none => s
  | some m => m.cores.foldl (fun s c =>
      match (s.paceOf c l.uid).kept with
      | some u => if !s.stepsRead l c then
          (s.onPace c l.uid (fun p => { p with kept := none })).onWg u (fun w => { w with pad := [], padBad := [] }) else s
      | none => s) s

/-- WORKGROUP_RETIREMENT. -/
def State.retireWg (s : State) (u : Nat) : State :=
  match s.findWg u with
  | none => s
  | some w =>
    let l := (s.findLaunch w.launch).getD .absent
    if w.status ≠ .draining || l.state ≠ .running || s.copies.any (fun c => c.wg == u && c.dkind == 1) ||
        (s.getCore w.core).mq.any (fun m => m.wg == u) then s else
    let s := s.reconcile w
    let keep := w.kern.stepBytes ≠ 0 && l.paced && s.stepsRead l w.core
    let pad := w.pad.filter (fun e => keep && e.1 < w.kern.stepBytes)
    let bad := w.padBad.filter (fun i => keep && 8 * i < w.kern.stepBytes)
    let s := (s.dropWg u).onWg u (fun w => { w with pad := pad, padBad := bad, energy := 0, charged := 0 })
    let s := s.onLaunch l.uid (fun l => { l with
      retired := l.retired + 1, know := Know.join l.know w.retsKnow,
      windows := l.windows.map (fun x => if x.wg == u then { x with fin := true } else x) })
    let s := if l.paced then s.onPace w.core l.uid (fun p => { p with finished := true, kept := if keep then some u else none }) else s
    let s := s.scrubKept l
    -- nobody on the core can receive any more
    let more := (s.wgsOf l.uid).any (fun x => x.core == w.core) ||
      (match l.map with
       | none => false
       | some m => (List.range m.cores.length).any (fun i => m.cores.getD i 0 == w.core && !l.placed.contains i))
    let s := if more then s else s.onLaunch l.uid (fun l => { l with chans := l.chans.map (fun c =>
      if c.bind.recv == w.core then { c with closed := true, transit := [], fifo := [], toy := [] } else c) })
    (traceDisp s 7 l (dieOf w.core) (some w.core) w.l).settleCurve w.core

/-! ### The loader (R352, R353) -/

/-- A word that the lifetime scan refuses on a stepping: SACC on any stepping but B1 (R35, R36). -/
def lifetimeBad (stepping : Byte) (w : Nat) : Bool := stepping ≠ 0xB1 && fld w 26 6 == 0x26 && fld w 6 3 == 3

/-- The kernel of an object whose 256 header bytes are given, and its extent, if the header passes the checks of R352. -/
def headerKernel (stepping : Byte) (ctx : BitVec 16) (addr : Nat) (h : List Byte) : Option Kernel :=
  let w := fun i => natOf h (8 * i) 8
  let ext := fld (w 0) 0 32
  let slice := fld (w 1) 32 32
  let nmark := fld (w 2) 40 5
  let mark := fun i => fld (w (8 + i / 2)) (32 * (i % 2)) 32
  let bufs := (List.range 4).map (fun b => (fld (w (4 + b)) 32 8, fld (w (4 + b)) 0 32))
  let k : Kernel :=
    { ctx := ctx, addr := addr, stepReq := fld (w 0) 48 8, eclass := fld (w 0) 40 4, isProt := fld (w 0) 33 1 == 1,
      compat := fld (w 0) 32 1 == 1, extent := ext, slice := if slice = 0xFFFFFFFF then none else some slice,
      entry := fld (w 1) 0 32, supported := .ofNat 4 (fld (w 2) 36 4), regs := fld (w 2) 24 8, pad := fld (w 2) 0 20,
      inherit := .ofNat 64 (w 3), bufs := bufs, marks := (List.range nmark).map mark }
  let entryOk := fun a => a % 4 == 0 && a < ext
  if fld (w 0) 56 8 == 3 && fld (w 0) 44 4 == 0 && fld (w 0) 34 6 == 0 && fld (w 2) 45 19 == 0 && fld (w 2) 32 4 == 0 &&
      fld (w 2) 20 4 == 0 && (List.range 4).all (fun b => fld (w (4 + b)) 40 24 == 0) &&
      (h.drop 128).all (· == 0) && ext % 4 == 0 && 4 ≤ ext && ext ≤ 2 ^ 24 &&
      entryOk k.entry && k.slice.all entryOk &&
      k.regs % 8 == 0 && 8 ≤ k.regs && k.regs ≤ (if k.slice.isSome then 56 else 64) &&
      k.pad % 64 == 0 && k.pad ≤ 524288 && k.stepBytes ≤ k.pad && k.supported != 0 &&
      nmark ≤ 16 && k.marks.all entryOk && increasing k.marks &&
      (List.range 16).all (fun i => i < nmark || mark i == 0) &&
      bufs.all (fun b => (b.1 == 0 && b.2 == 0) || (2 ≤ b.1 && b.1 ≤ 8 && b.2 != 0 && b.2 % 4 == 0)) &&
      w 3 / 2 ^ 30 == 0 && (k.stepReq == 0 || k.stepReq == stepping.toNat)
  then some k else none

/-- CODE_OBJECT_LOAD, once the application cores run (R364): an accepted object replaces the one the address space had there. One that is
refused leaves none there, since a packet or RETS that names it is refused (R352). -/
def State.loadObject (s : State) (ctx : BitVec 16) (addr : Nat) : State :=
  if s.phase < 9 || addr % 256 ≠ 0 then s else
  let s := { s with objects := s.objects.filter (fun o => !(o.addr == addr && o.ctx == ctx)) }
  match s.structBytes ctx none addr 256 with
  | none => s
  | some h => match headerKernel s.cap.stepping ctx addr h with
    | none => s
    | some k => match s.structBytes ctx none (addr + 256) k.extent with
      | none => s
      | some code =>
        if (List.range (k.extent / 4)).any (fun i => lifetimeBad s.cap.stepping (natOf code (4 * i) 4)) then s
        else { s with objects := s.objects ++ [k] }

/-! ### The handover of RETS (R258, R259) -/

/-- The successor's group gid, from the group of the predecessor that executed RETS, or from the lowest such group where that
one had retired. -/
def Group.succeed (fresh : Group) (own : Option Group) (donor : Group) (mask : DWord) : Group :=
  let u := own.getD donor
  -- registers past the predecessor's count are lost, a GIVE's among them (R151)
  let vb := fun r => r < 64 && mask.getLsbD (r / 8) && r < fresh.count && r < u.count
  let sb := fun r => mask.getLsbD (8 + r / 8)
  let pred := mask.getLsbD 28
  let lane := fun (j : Nat) (f : Lane) => match own with
    | some o => { f with v := (o.lane j).v.filter (fun e => vb e.1), bad := (o.lane j).bad.filter vb,
                         p := if pred then (o.lane j).p else 1 }
    | none => f
  { fresh with
    lanes := fresh.lanes.map (fun e => (e.1, lane e.1 e.2)),
    s := (List.range 64).foldl (fun m r => mapSet 0 m r (if sb r then mapGet 0 u.s r else mapGet 0 fresh.s r)) [],
    c := if pred then u.c else 1,
    q := if mask.getLsbD 29 then (match own with | some o => o.q | none => []) else [] }

/-- Does a copy in flight write, through the offset or the window, into a quarter of a workgroup's allocation that is not inherited? -/
def State.hitsQuarter (s : State) (w : Workgroup) (mask : DWord) (c : Copy) : Bool :=
  (List.range c.words).any (fun k =>
    let off := if c.dkind = 1 && c.wg = w.uid then some (c.dstAt k).toNat
      else if c.dkind = 2 then
        (s.windowAt ((s.findLaunch c.launch).getD .absent) (c.dstAt k) 4 true).bind (fun p => if p.1 = w.uid then some p.2 else none)
      else none
    off.any (fun o => w.size ≠ 0 && !mask.getLsbD (24 + o * 4 / w.size)))

/-- RETS_HANDOVER. -/
def State.handover (s : State) (u : Nat) : State :=
  match s.findWg u with
  | none => s
  | some w => match w.status with
    | .handing h mask =>
      let l := (s.findLaunch w.launch).getD .absent
      match s.objects.find? (fun k => k.addr == h.toNat && k.ctx == l.ctx) with
      | none => s
      | some k =>
        let tile := fun n => mask.getLsbD (16 + n)
        if (s.getCore w.core).mq.any (fun m => m.wg == u && !tile m.tile) || s.copies.any (s.hitsQuarter w mask) then s else
        let s := s.takeOperands w.core u
        let s := s.onCores (fun c => { c with frames := c.frames.filter (fun e =>
            e.2.owner.all (fun o => o.wg ≠ u || tile o.tile)) })
        let stays := fun off => (l.paced && off < k.stepBytes) || (w.size ≠ 0 && mask.getLsbD (24 + off * 4 / w.size))
        let old := s.groupsOf u
        let s := (s.shadowsOf u).foldl (fun s g => s.endShadow g.key) s
        let donor := (old.foldl (fun m g => if g.key.gid < m.key.gid then g else m) (old.headD .absent))
        let s := { s with cur := if s.cur.key.wg == u then { s.cur with live := false } else s.cur,
                          groups := s.groups.filter (fun g => g.key.wg ≠ u) }
        let w' := { w with status := .running, kern := k, joint := [], claimQ := [], tiles := w.tiles.filter (fun t => tile t.tile),
                           pad := w.pad.filter (fun e => stays e.1), tags := w.tags.filter (fun i => stays (4 * i)),
                           tagKnow := w.tagKnow.filter (fun e => stays (4 * e.1)),
                           padBad := w.padBad.filter (fun i => stays (8 * i)), padOld := w.padOld.filter (fun e => stays (4 * e.1)) }
        let s := (s.onWg u (fun _ => w')).freeArea u
        -- what the successor does with an inherited tile follows every command of the predecessor into it (R222)
        let know := w'.tiles.foldl (fun (k : Know) t => k.raise (waitKey u t.quad t.tile) s.nextId) w.retsKnow
        let s := ({ s with nextId := s.nextId + 1 } : State).startGroups w' l know
        s.onGroups (fun g =>
          if g.live && g.key.wg == u && !g.key.shadow then
            g.succeed (old.find? (fun o => o.key.gid == g.key.gid)) donor mask
          else g)
    | _ => s

end Sys2Proof.Machine
end

