-- ==== Sys2Proof/Machine/Waits.lean ====
section
/-!
DEFINITION. Machine/Waits.lean: whom a waiting group waits on and the wait-for checker (R246, R247), the span move from its energy
grant to its resumption (R116 to R122), a channel's entries on their way and its toy box (R244, R245), the news of a step
(R252, R338), and the other events that end a wait.
-/

namespace Sys2Proof.Machine

/-! ### Whom a group waits on (R246) -/

/-- The parties of a wait: its KIND of R247, whether an engine or an agent outside the launch is among them, and the groups. -/
structure Parties where
  kind    : Nat
  outside : Bool
  groups  : List GKey
  deriving DecidableEq, Repr

/-- A tagged step whose tag is in the wrong state. -/
def Workgroup.stuck (w : Workgroup) (e : Pend) : Bool :=
  match e.act with
  | .tag .take off _ _ => !w.full (off / 4)
  | .tag .peek off _ _ => !w.full (off / 4)
  | .tag .fill off _ _ => w.full (off / 4)
  | _ => false

/-- What the groups of a workgroup have outstanding, each with its group. -/
def State.openOf (s : State) (u : Nat) (shadow : Bool) : List (GKey × Pend) :=
  (s.allGroups.filter (fun g => g.key.wg == u && g.key.shadow == shadow)).flatMap (fun g =>
    (g.pend.filter (·.act.isOpen)).map (fun e => (g.key, e)))

/-- Adds to some outstanding entries those that must land after one of them, in n rounds (R185, R210). -/
def State.stuckBehind (s : State) (all : List (GKey × Pend)) : Nat → List (GKey × Pend) → List (GKey × Pend)
  | 0, xs => xs
  | n + 1, xs => State.stuckBehind s all n (all.filter (fun e => xs.contains e ||
      xs.any (fun f => e.2.after f.2 (f.1 == e.1) && s.behind e.2 f.2)))

/-- Does one of these instructions of a group wait for a tagged step, its own or one that comes before it (R185, R186)? -/
def State.tagWait (s : State) (w : Workgroup) (g : Group) (nums : List Nat) : Bool :=
  let all := s.openOf w.uid g.key.shadow
  let stuck := all.filter (fun e => w.stuck e.2)
  !stuck.isEmpty && (State.stuckBehind (s.focus g.key) all all.length stuck).any (fun e => nums.contains e.2.from_.num)

/-- Does a load of the shadow's, of one of these instructions, wait for room in its queue (R241)? -/
def State.pushWait (s : State) (g : Group) (nums : List Nat) : Bool :=
  let mine := (s.findGroup { g.key with shadow := false }).getD .absent
  g.pend.any (fun e => nums.contains e.from_.num && (match e.act with
    | .push _ _ _ q => 8 ≤ (mine.queue (e.lane.getD 0) q).length
    | _ => false))

/-- The instructions that a group's next word waits for: those whose window has run out, and those that the word comes after. -/
def Group.waitsFor (g : Group) : List Nat :=
  match g.wait with
  | .again nums => nums
  | _ => (g.pend.filter g.spent).map (·.from_.num)

/-- A load of a shadow on its way into queue q of one of these lanes (R241). -/
def Group.pushing (h : Group) (q : Nat) (on : Mask) : Bool :=
  h.pend.any (fun e => match e.act with | .push _ _ _ q' => q' == q && on.getLsbD (e.lane.getD 0) | _ => false)

/-- The entries of a channel that a send or a receive of the group moves (R243). -/
def Group.entriesFor (g : Group) (l : Launch) : Nat := entriesOf (g.width / l.lanesPer)

/-- The groups of a launch, and whether something that is no waiting group can still act for it: a workgroup that is saved, handed
over, retiring or not yet placed. -/
def State.groupsOfLaunch (s : State) (l : Launch) : Bool × List GKey :=
  let ws := s.wgsOf l.uid
  (ws.any (fun w => w.status != .running) || (List.range 4).any (fun d => !(l.pendingOn d).isEmpty),
    (ws.map (fun w => (s.groupsOf w.uid).map (·.key))).flatten)

/-- The groups of a launch on a core, and whether something that is no waiting group can still act there: a workgroup that is
saved, handed over, retiring or not yet placed. -/
def State.groupsOnCore (s : State) (l : Launch) (core : Nat) : Bool × List GKey :=
  let ws := (s.wgsOf l.uid).filter (fun w => w.core == core)
  let later := match l.map with
    | none => false
    | some m => (List.range m.cores.length).any (fun i => m.cores.getD i 0 == core && !l.placed.contains i)
  (later || ws.any (fun w => w.status != .running), (ws.map (fun w => (s.groupsOf w.uid).map (·.key))).flatten)

/-- The groups of a launch that an open rendezvous on a core still waits for (R116). -/
def State.notArrived (s : State) (core u : Nat) : List GKey :=
  if (s.getCore core).rdv.any (fun r => r.launch == u) then ((s.launchGroups core u).filter (fun h => !h.atSpan)).map (·.key) else []

/-- The cores whose end of a step a held group needs, and whether something else than these and than the groups of an open
rendezvous (R121) still holds the step: news of an end on its way, a move under way, or a step about to begin (R252). -/
def State.neededCores (s : State) (w : Workgroup) : Bool × List Nat :=
  let c := s.getCore w.core
  let p := c.pace w.launch
  let need := (p.strings.up.map (fun u => (u, p.step + 1))) ++ (p.strings.down.map (fun d => (d, p.step + 2 - w.kern.dmin)))
  let miss := need.filter (fun x => !p.has x.1 x.2)
  let ended := fun (x : Nat × Nat) => x.2 ≤ (s.paceOf x.1 w.launch).ended || (s.paceOf x.1 w.launch).finished
  let own := if p.ended ≤ p.step then [w.core] else []
  (miss.any ended || c.rdv.any (fun r => r.phase != .opened) || (c.rdv.isEmpty && miss.isEmpty && own.isEmpty), own ++ (miss.filter (fun x => !ended x)).map (·.1))

/-- The quads that hold frames on a core: their groups, and whether a saved workgroup holds one. -/
def State.frameHolders (s : State) (core : Nat) : Bool × List GKey :=
  let os := ((List.range 64).filterMap (fun i => ((s.getCore core).frame i).owner))
  let away := fun (o : FrameOwner) => !(s.residents core).any (fun w => w.uid == o.wg)
  (os.any away, (os.map (fun o => ((s.groupsOf o.wg).filter (fun g => g.key.gid / 4 == o.quad)).map (·.key))).flatten)

/-- The wait of a group as the checker sees it; none when it does not wait, when what it waited for has come, or when it is not
seen to wait (R246). A receive, and a send with the toy box full, wait on the groups of the launch. -/
def State.partiesOf (s : State) (g : Group) : Option Parties :=
  match s.findWg g.key.wg with
  | none => none
  | some w =>
    let l := (s.findLaunch w.launch).getD .absent
    let mates := (s.groupsOf w.uid).filter (fun h => h.key != g.key)
    let onCores := fun (kind : Nat) (x : Bool × List Nat) =>
      let gs := x.2.map (s.groupsOnCore l)
      some { kind := kind, outside := x.1 || gs.any (·.1), groups := (gs.map (·.2)).flatten : Parties }
    let results := fun (_ : Unit) =>
      if g.key.shadow then
        if s.pushWait g g.waitsFor then some { kind := 9, outside := false, groups := [{ g.key with shadow := false }] : Parties } else none
      else if s.tagWait w g g.waitsFor then
        some { kind := 1, outside := s.copies.any (fun c => c.full && c.wg == w.uid), groups := mates.map (·.key) }
      else none
    match g.wait with
    | .none => results ()
    | .again _ => results ()
    | .doze _ => none
    | .counter _ _ _ _ => some { kind := 2, outside := true, groups := [] }
    | .claim _ => some { kind := 5, outside := false, groups := (mates.filter (fun h => !w.claimQ.contains h.key.gid)).map (·.key) }
    | .span _ =>
      if g.key.shadow then some { kind := 7, outside := false, groups := [{ g.key with shadow := false }] } else
      some { kind := 7, outside := !(s.getCore w.core).rdv.any (fun r => r.launch == l.uid && r.phase == .opened),
             groups := s.notArrived w.core l.uid }
    | .rets _ _ =>
      some { kind := 7, outside := w.status != .running, groups := (mates.filter (fun h => h.wait.retsArgs.isNone)).map (·.key) }
    | .joint quad =>
      let issued := w.joint.map (·.1)
      let lacking := (s.groupsOf w.uid).filter (fun h => h.key.gid / 4 == quad && !issued.contains h.key.gid)
      let tile := ((w.joint.find? (fun x => x.1 == g.key.gid)).map (·.2.tile)).getD 0
      let c := s.getCore w.core
      if !lacking.isEmpty then some { kind := 8, outside := false, groups := lacking.map (·.key) }
      else if (c.frameOf w.uid quad tile).isNone && c.freeFrames.isEmpty then
        some { kind := 8, outside := (s.frameHolders w.core).1, groups := (s.frameHolders w.core).2 }
      else some { kind := 8, outside := true, groups := [] }
    | .step core m =>
      if g.held then (onCores 6 (s.neededCores w)).map (fun p => { p with groups := p.groups ++ s.notArrived w.core l.uid })
      else if (s.paceOf core l.uid).finished || m < (s.paceOf core l.uid).ended then none
      else onCores 6 (false, [core])
    | .receive ch => match l.inChan w.core ch with
      | none => none
      | some c => if g.entriesFor l ≤ c.avail then none else
        let x := s.groupsOfLaunch l
        some { kind := 3, outside := x.1 || !c.transit.isEmpty, groups := x.2 }
    | .send ch _ => match l.outChan w.core ch with
      | none => none
      | some c => if c.room (g.entriesFor l) then none else
        let x := s.groupsOfLaunch l
        some { kind := 4, outside := x.1 || !c.toyOn, groups := x.2 }
    | .queue q on =>
      -- the queue is the group's; the shadow alone fills it, and its fault is the group's next issue (R241, R242)
      let mine := (s.findGroup { g.key with shadow := false }).getD .absent
      let fills := s.findGroup { g.key with shadow := true }
      if (List.range g.width).all (fun j => !on.getLsbD j || !(mine.queue j q).isEmpty) || (!g.key.shadow && fills.any (·.fault.isSome))
      then none else
      some { kind := 9, outside := fills.any (·.pushing q on), groups := [{ g.key with shadow := !g.key.shadow }] }
    | .copySlot => some { kind := 0, outside := true, groups := [] }
    | .frame _ => some { kind := 0, outside := true, groups := [] }
    | .posted _ => some { kind := 0, outside := true, groups := [] }
    | .matrix _ _ _ => some { kind := 0, outside := true, groups := [] }

/-! ### The checker (R247) -/

/-- The waiting groups that can be members: not in their handler, not parked for a save or a test; a shadow that has parked at its
SPAN is one (R115). -/
def State.waiters (s : State) : List (GKey × Parties) :=
  s.allGroups.filterMap (fun g => if g.sup || (g.parked && !(g.key.shadow && g.atSpan)) then none else (s.partiesOf g).map (fun p => (g.key, p)))

/-- Drops members that wait on a party outside the set, until none is left; n bounds the rounds. -/
def State.closedSet (s : State) : Nat → List (GKey × Parties) → List (GKey × Parties)
  | 0, m => m
  | n + 1, m =>
    let inside := fun (k : GKey) => m.any (fun x => x.1 == k) || (s.findGroup k).isNone
    State.closedSet s n (m.filter (fun x => !x.2.outside && x.2.groups.all inside))

/-- The members that one is linked to by who waits on whom. -/
def component (m : List (GKey × Parties)) : Nat → List (GKey × Parties) → List (GKey × Parties)
  | 0, c => c
  | n + 1, c =>
    let linked := fun (x : GKey × Parties) => c.any (fun y => y.1 == x.1 || y.2.groups.contains x.1 || x.2.groups.contains y.1)
    component m n (m.filter linked)

/-- One report: every member of a set is recorded and traps. A shadow that is a member stops with its fault, which R242 hands to its
group; the group is a member too, since the shadow waits on it, and traps for its own wait: it takes that one trap, and its shadow ends
(DESIGN CHOICE, log entry 70). -/
def State.reportSet (s : State) (set : List (GKey × Parties)) : State :=
  let id := s.cycleId
  let s := { s with cycleId := s.cycleId + 1 }
  let s := set.foldl (fun s x =>
    match s.findGroup x.1, s.findWg x.1.wg with
    | some g, some w =>
      let val : DWord := .ofNat 64 (id % 2 ^ 32 * 2 ^ 32 + set.length * 256 + x.2.kind)
      let tv : DWord := if x.2.kind = 5 then .ofNat 64 g.wait.claimed else val
      let s := s.trace 5 1 (dieOf w.core) (some w.core) (some g.slot) (((s.findLaunch w.launch).getD .absent).ctx) (.ofNat 64 (id % 2 ^ 32)) tv
      s.trapGroup x.1 (if x.2.kind = 5 then causeClaim else causeWaitCycle) tv
    | _, _ => s) s
  (set.filter (fun x => x.1.shadow && set.any (fun y => y.1 == { x.1 with shadow := false }))).foldl (fun s x => s.endShadow x.1) s

/-- Reports the sets one after another; n bounds their number. -/
def State.reportSets : Nat → List (GKey × Parties) → State → State
  | 0, _, s => s
  | n + 1, m, s => match m with
    | [] => s
    | x :: _ =>
      let c := component m m.length [x]
      State.reportSets n (m.filter (fun y => !c.any (fun z => z.1 == y.1))) (s.reportSet c)

/-- A rendezvous that no group is parked at any more is gone. -/
def State.dropEmptyRdv (s : State) : State :=
  let parked := fun (c : Core) (r : Rendezvous) => (s.launchGroups c.id r.launch).any (·.atSpan)
  s.onCores (fun c => { c with rdv := c.rdv.filter (fun r => r.phase != .opened || parked c r) })

/-- WAIT_FOR_CHECKER_REPORT. -/
def State.checker (s : State) : State :=
  let m := s.waiters
  let set := s.closedSet m.length m
  if set.isEmpty then s else (State.reportSets set.length set s).dropEmptyRdv

/-! ### The span move (R116 to R122) -/

/-- SPAN_ENERGY_GRANT: within 50 µs of the last arrival the move is accepted. -/
def State.spanGrant (s : State) (core : Nat) : State :=
  match (s.getCore core).rdv.find? (fun r => r.phase == .energy) with
  | none => s
  | some r =>
    if r.since + 50000 < s.time.now then s else
    let s := s.onCore core (fun c => { c with rdv := c.rdv.map (fun x =>
      if x.launch == r.launch then { x with phase := .moving, since := s.time.now } else x) })
    s.traceCore 9 2 core (((s.findLaunch r.launch).getD .absent).ctx) (.ofNat 64 r.target) 0

/-- SPAN_ENERGY_TIMEOUT. -/
def State.spanTimeout (s : State) (core : Nat) : State :=
  match (s.getCore core).rdv.find? (fun r => r.phase == .energy) with
  | none => s
  | some r => if s.time.now < r.since + 50000 then s else s.refuseSpans core r.launch 0x0D

/-- Lanes per thread, and the place of a thread's lane in an old group. -/
def laneOfThread (lp v i j : Nat) : Nat := i % v * lp + j % lp

/-- The order of issue, and within one instruction that of its lanes. -/
def Pend.issuedBefore (e f : Pend) : Bool :=
  e.from_.num < f.from_.num || (e.from_.num == f.from_.num && e.from_.lane < f.from_.lane)

/-- Moves a mask of old groups to a new group, by thread (R118, R119). -/
def moveMask (l : Launch) (v : Nat) (olds : List Group) (lanes : List (Nat × Nat)) (f : Group → Mask) : Mask :=
  maskOf ((lanes.filter (fun x => olds.any (fun o =>
    o.key.gid == x.2 / v && (f o).getLsbD (laneOfThread l.lanesPer v x.2 x.1)))).map (·.1))

/-- Group h of a workgroup at its new width from the old groups that share threads with it (R118, R119): none where all of
them had retired. lanes lists the lanes of the new group with their threads. The faults that old groups' uniform words have recorded
stay recorded (R122). Of the old groups' words the lowest-numbered one's gives the PC and the SP bit at which the new group goes
on (DESIGN CHOICE, log entry 62), and a lane whose old group had retired holds zeros (DESIGN CHOICE, log entry 63). The queues of the new
group are empty (R119): an entry that a shadow's load has pushed after its group had parked is lost (DESIGN CHOICE, log entry 73). What
the old groups have outstanding stands in issue order. -/
def regroup (l : Launch) (w v w' v' h : Nat) (gs : List Group) (slot : Nat) : Option Group :=
  let olds := gs.filter (fun g => g.key.gid * v < (h + 1) * v' && h * v' < (g.key.gid + 1) * v)
  match olds with
  | [] => none
  | o :: os =>
    let base := os.foldl (fun m g => if g.key.gid < m.key.gid then g else m) o
    let lanes := ((List.range w').map (fun j => (j, h * v' + j / l.lanesPer))).filter (fun x => x.2 < l.threads)
    let from_ := fun (x : Nat × Nat) => olds.find? (fun g => g.key.gid == x.2 / v)
    let exited := fun (x : Nat × Nat) => match from_ x with
      | none => true
      | some g => g.exited.getLsbD (laneOfThread l.lanesPer v x.2 x.1)
    let newLane := fun (g : Group) (j : Nat) => (lanes.find? (fun x => g.key.gid == x.2 / v && laneOfThread l.lanesPer v x.2 x.1 == j)).map (·.1)
    let flags := olds.foldl (fun m g => m ||| (g.gstat &&& 0xDF#64)) 0
    some { base with
      key := { base.key with gid := h }, width := if w = w' then base.width else w', slot := slot,
      lanes := lanes.map (fun x => (x.1, match from_ x with
        | some g => g.lane (laneOfThread l.lanesPer v x.2 x.1)
        | none => { Lane.empty with thread := some x.2 })),
      act := maskOf ((lanes.filter (fun x => !exited x)).map (·.1)),
      exited := maskOf ((List.range w').filter (fun j => (lanes.find? (fun x => x.1 == j)).all exited)),
      stack := [], q := [], gstat := base.gstat &&& ~~~0xDF#64 ||| flags,
      nopre := olds.foldl (fun m g => match m, g.nopre with
        | some a, some b => some (max a b)
        | none, x => x
        | x, none => x) none,
      ra := moveMask l v olds lanes (·.ra),
      pend := (olds.flatMap (fun g => g.pend.filterMap (fun e => match e.lane with
        | none => some e
        | some j => (newLane g j).map (fun k => { e with lane := some k })))).foldl (fun es e => insertBy Pend.issuedBefore e es) [],
      matBad := (gs.filter (fun g => g.key.gid / 4 == h / 4)).foldl (fun m g => g.matBad.foldl (fun m t => insRising t m) m) [],
      known := olds.foldl (fun k g => Know.join k g.known) [], seen := olds.foldl (fun k g => Know.join k g.seen) [],
      fenceRel := (olds.map (·.fenceRel)).flatten, fenceAcq := (olds.map (·.fenceAcq)).flatten, dirtyBad := [], dirty := [], whole := [] }

/-- The groups that a move resumes: those of the launch on the core, and the shadows that have parked with them (R115). -/
def State.spanGroups (s : State) (core u : Nat) : List Group :=
  let us := ((s.residents core).filter (fun w => w.launch == u)).map (·.uid)
  s.launchGroups core u ++ s.allGroups.filter (fun g => us.contains g.key.wg && g.key.shadow && g.parked && g.atSpan)

/-- Every group that a move resumes publishes at .pkg and then knows what all of them knew (R120, R206, R208). -/
def State.spanBoundary (s : State) (core u : Nat) : State :=
  let s := (s.spanGroups core u).foldl (fun s g => s.asGroup g.key (fun s => s.serveAllReds.publish 5)) s
  let know := (s.spanGroups core u).foldl (fun (k : Know) g => Know.join k g.known) []
  (s.spanGroups core u).foldl (fun s g => s.asGroup g.key (fun s => (s.acquire know).snapshot 5)) s

/-- Regroups one workgroup at a target point. Under compatibility the parts stay as they are (R128). The frames of a quad of which no group
is created are freed (R275). -/
def State.regroupWg (s : State) (l : Launch) (w : Workgroup) (p p' : Nat) : State :=
  if w.kern.compat || p = p' then s else
  let v := groupThreads l w.kern p
  let v' := groupThreads l w.kern p'
  let n := (l.threads + (v' - 1)) / v'
  let olds := s.groupsOf w.uid
  let shadows := s.shadowsOf w.uid
  let make := fun (gs : List Group) (s : State) (h : Nat) =>
    let k := { wg := w.uid, gid := h, shadow := gs.any (·.key.shadow) : GKey }
    { s with groups := s.groups ++ (regroup l (groupWidth l w.kern p) v (groupWidth l w.kern p') v' h gs (s.slotFor w.core k)).toList }
  let s := { s with cur := if s.cur.key.wg == w.uid then { s.cur with live := false } else s.cur,
                    groups := s.groups.filter (fun g => g.key.wg ≠ w.uid) }
  let s := (List.range n).foldl (make shadows) ((List.range n).foldl (make olds) s)
  let formed := fun (quad : Nat) => (s.groupsOf w.uid).any (fun g => g.key.gid / 4 == quad)
  let s := s.onCore w.core (fun c => { c with frames := c.frames.filter (fun e =>
    e.2.owner.all (fun o => o.wg ≠ w.uid || formed o.quad)) })
  s.onWg w.uid (fun w => { w with groupsN := n, tiles := w.tiles.filter (fun t => formed t.quad), joint := [] })

/-- Under compatibility the parts of a physical group share its slot (R127): after a move they are counted anew. -/
def State.reslot (s : State) (w : Workgroup) : State :=
  let gs := s.groupsOf w.uid ++ s.shadowsOf w.uid
  let s := { s with cur := if s.cur.key.wg == w.uid then { s.cur with live := false } else s.cur,
                    groups := s.groups.filter (fun g => g.key.wg ≠ w.uid) }
  gs.foldl (fun s g => { s with groups := s.groups ++ [{ g with slot := s.slotFor w.core g.key }] }) s

/-- SPAN_MOVE_RESUME: every group of the launch on the core goes on after its SPAN with c7 = 1. -/
def State.spanResume (s : State) (core : Nat) : State :=
  match (s.getCore core).rdv.find? (fun r => r.phase == .moving) with
  | none => s
  | some r =>
    let l := (s.findLaunch r.launch).getD .absent
    let p := (s.getCore core).point
    let s := s.spanBoundary core l.uid
    let ws := (s.residents core).filter (fun w => w.launch == l.uid)
    let s := ws.foldl (fun s w => s.regroupWg l w p r.target) s
    let s := (s.onCore core (fun c => { c with rdv := c.rdv.filter (fun x => x.launch ≠ l.uid) })).goPoint core r.target
    let s := ws.foldl (fun s w => if w.kern.compat && p ≠ r.target then s.reslot w else s) s
    let s := (s.launchGroups core l.uid).foldl (fun s g =>
      (s.onGroup g.key (fun g => if g.atSpan then (g.cset 7 true).finishWait else g)).resumeShadow g.key true) s

    let s := s.traceCore 9 4 core l.ctx (.ofNat 64 r.target) 0
    if l.paced then s.stepBegin core l.uid else s

/-! ### Channels (R244, R245) -/

/-- CHANNEL_ENTRY_ARRIVAL: the oldest entry in transit on channel k of a launch reaches the FIFO. -/
def State.chanArrive (s : State) (u k : Nat) : State :=
  s.onLaunch u (fun l => { l with chans := l.chans.mapIdx (fun i c =>
    if i == k && !s.linkWaits (dieOf c.bind.sender) (dieOf c.bind.recv) then (match c.transit with
      | e :: r => { c with transit := r, fifo := c.fifo ++ [e] }
      | [] => c) else c) })

/-- TOY_BOX_EXTENSION: a send has waited 4,096 cycles on the channel, which is still full. The record counts the entries that stand
in the channel (log entry 26). -/
def State.toyExtend (s : State) (u k : Nat) : State :=
  match s.findLaunch u with
  | none => s
  | some l => match l.chans[k]? with
    | none => s
    | some c =>
      let cycles := fun (t : Nat) => (s.time.now - t) * clockAt (s.getCore c.bind.sender).point / 1000
      let waited := s.allGroups.any (fun g => ((s.findWg g.key.wg).getD .absent).core == c.bind.sender &&
        ((s.findWg g.key.wg).getD .absent).launch == u &&
        (match g.wait with | .send ch t => ch == c.bind.out && 4096 ≤ cycles t && !c.room (g.entriesFor l) | _ => false))
      if c.toyOn || c.closed || !waited then s
      else
        (s.onLaunch u (fun l => { l with chans := l.chans.mapIdx (fun i c => if i == k then { c with toyOn := true } else c) })).traceCore
          4 1 c.bind.sender l.ctx (.ofNat 64 c.bind.out) (.ofNat 64 (c.transit.length + c.fifo.length))

/-! ### Steps (R252, R338) -/

/-- STEP_END_ARRIVAL: core dst hears which steps of launch u core src has ended. -/
def State.stepNews (s : State) (u src dst : Nat) : State :=
  let p := s.paceOf src u
  if s.linkWaits (dieOf src) (dieOf dst) then s else
  s.onPace dst u (fun d => { d with
    heard := mapSet 0 d.heard src (max (mapGet 0 d.heard src) p.ended),
    heardOver := if p.finished then insRising src d.heardOver else d.heardOver })

/-! ### The ends of other waits -/

/-- LOAD_RESULT_LANDING: entry k of a group is served (R15, R26). -/
def State.landResult (s : State) (g : GKey) (k : Nat) : State := s.asGroup g (fun s => (s.landAt false k).tidy)

/-- TAG_STEP_PERFORMED: entry k of a group, if it is a tagged step (R184 to R186). -/
def State.performStep (s : State) (g : GKey) (k : Nat) : State :=
  s.asGroup g (fun s => match s.cur.pend[k]? with
    | some e => (match e.act with | .tag _ _ _ _ => (s.landAt true k).tidy | .tags _ _ _ => (s.landAt true k).tidy | _ => s)
    | none => s)

/-- PAGE_TABLE_WALK: the walker fills a leaf that lies under the lease of a launch on the core (R174). A TLB of 512 entries that is full
loses the last in the list, the one filled longest ago: R174 does not say which (DESIGN CHOICE, log entry 83). -/
def State.walk (s : State) (core : Nat) (va : DWord) : State :=
  match (s.residents core).findSome? (fun w => (s.findLaunch w.launch).bind (fun l =>
      if l.covers va.toNat then s.leafOf l.ctx va.toNat else none)) with
  | none => s
  | some leaf => s.onCore core (fun c =>
      if c.tlb.contains leaf then c else { c with tlb := leaf :: c.tlb.take 511 })

/-- NOPRE_WINDOW_EXPIRY: 65,536 cycles have passed (R83). -/
def State.nopreEnd (s : State) (g : GKey) : State :=
  s.onGroup g (fun g => if g.nopre = some 0 then { g with nopre := none } else g)

/-- DOZE_WAKE (R20, R86). -/
def State.dozeEnd (s : State) (g : GKey) : State :=
  s.onGroup g (fun x => match x.wait with
    | .doze till => if till.toNat ≤ s.time.now then { x with wait := .none } else x
    | _ => x)

/-- ATOMIC_SERVICE_REQUEST: request k reaches the service group that serves its address and is performed (R190, R192, R323, R326); it
waits for a link on its way (R334). -/
def State.serviceAtom (s : State) (k : Nat) : State :=
  match s.atomq.find? (fun r => r.id == k) with
  | none => s
  | some r =>
    if s.atomWaits r then s
    else if (s.findGroup r.from_).isSome then s.asGroup r.from_ (fun s => s.serveAtom k) else s.serveAtom k

/-- The service group of a cluster drains its queues (R323, R326). -/
def State.drainService (s : State) (cl : Nat) : State :=
  (s.atomq.filter (fun r => s.serverOf r.pa == cl)).foldl (fun s r => s.serviceAtom r.id) s

/-- COPY_COMPLETION: the words that are left are moved; a copy to memory increments its counter, one to the network hands its
message over (R229, R230). A word or an increment whose link retrains waits (R334). -/
def State.copyEnd (s : State) (id : Nat) : State :=
  match s.copies.find? (fun c => c.id == id) with
  | none => s
  | some c =>
    if c.sent.isSome then s else
    let s := s.copyRest id c.words
    match s.copies.find? (fun c => c.id == id) with
    | none => s
    | some c =>
      if c.moved.length < c.words then s
      else if c.dkind = 4 then (if s.retraining (hubPath (dieOf c.core)) then s else s.sendMessage c)
      else if s.wayWaits (dieOf c.core) c.counter then s else s.copyDone c

/-- COUNTER_WAIT_SATISFIED (R220, R232). -/
def State.counterEnd (s : State) (g : GKey) : State :=
  s.asGroup g (fun s => if s.counterReady s.cur then s.finishCounter else s)

end Sys2Proof.Machine
end

