-- ==== Sys2Proof/Machine/Saves.lean ====
section
/-!
DEFINITION. Machine/Saves.lean: pre-emption (R298), parking (R312, R313), the save area and the save (R314), the restore (R315),
and the parking of in-field tests (R326).
-/

namespace Sys2Proof.Machine

/-! ### Parking (R28, R83, R265, R312) -/

/-- The group is at a safe point outside a NOPRE window. -/
def Group.canPark (g : Group) : Bool := g.live && !g.key.shadow && g.safe && !g.sup && !g.parked && g.nopre.all (· == 0)

/-- The current group parks: what is outstanding lands, a fault found then is taken in place of the save (R15), and a waiting
word is left to be executed again from the first word of its run (R265). -/
def State.parkCur (s : State) : State :=
  let s := s.settle
  if !s.cur.live then s else
  match s.cur.firstFault with
  | some f => s.takeFault f s.cur.runFirst
  | none =>
    let g := s.cur
    let s := { s with wg := s.wg.withdraw g.key.gid }
    if g.wait.isSafePoint && g.waitSp then
      s.setCur { g with parked := true, pc := g.runFirst, liveAt := g.pc + 4, run := .none, wait := .none }
    else s.setCur { g with parked := true, wait := .none }

def Group.unpark (g : Group) : Group := if g.parked && !g.key.shadow then { g with parked := false, safe := false } else g

/-- A doze ends early (R20, R86). -/
def Group.wakeDoze (g : Group) : Group := match g.wait with | .doze _ => { g with wait := .none } | _ => g

/-- A request for a workgroup: it ends the dozes under way (R20), refuses a parked rendezvous, RETS and CLAIM (R116, R152, R257),
and the groups that are at a safe point park. R159 has the refusal of SPAN last until the workgroup resumes; R116 and R148 have a
request close a rendezvous. The model takes the request to refuse what stands when it is made: a rendezvous that opens later, while it
still stands, is not refused for it (DESIGN CHOICE, log entry 76). -/
def State.requestSave (s : State) (u : Nat) : State :=
  match s.findWg u with
  | none => s
  | some w =>
    let s := s.onGroups (fun g => if g.live && g.key.wg == u then g.wakeDoze else g)
    let open_ := (s.getCore w.core).rdv.any (fun r => r.launch == w.launch && r.phase != .moving)
    let s := if open_ then s.refuseSpans w.core w.launch 0x09 else s
    let s := if w.status = .running then
        s.onGroups (fun g => if g.live && g.key.wg == u && g.wait.retsArgs.isSome then g.refuse 0x4A else g) else s
    let s := s.onGroups (fun g => if g.live && g.key.wg == u && g.wait.claimed ≠ 0 then g.refuse 0x23 else g)
    let s := s.onWg u (fun w => { w with claimQ := [] })
    (s.groupsOf u).foldl (fun s g => if g.canPark then s.asGroup g.key State.parkCur else s) s

/-! ### Requests (R295, R298) -/

/-- A core could take the next workgroup of a launch: a saved one (R295), or one that its map or share puts there. -/
def State.fitsNext (s : State) (l : Launch) (core : Nat) : Bool :=
  let p := s.startPoint l core
  l.waiting.any (fun u => (s.findWg u).any (fun w => match w.status with
    | .saved area => s.canRestore w l area core
    | _ => false)) ||
  (s.couldHold l core l.start && (match l.map with
    | none => !(l.pendingOn (dieOf core)).isEmpty
    | some m => (l.pendingOn (dieOf core)).any (fun i => m.cores.getD i 0 == core)) &&
    s.eligible l core (if s.idle core then [p] else [l.start]) && s.hasRoom l l.kern (l.regBytes l.kern) l.kern.pad core p)

/-- The order in which victims are taken: lower PRIO first, then the most recently started. -/
def State.prioOf (s : State) (w : Workgroup) : Nat := ((s.findLaunch w.launch).getD .absent).prio
def State.victimBefore (s : State) (a b : Workgroup) : Bool :=
  s.prioOf a < s.prioOf b || (s.prioOf a == s.prioOf b && b.started < a.started)

/-- The choices of n members of a list, those with earlier members first. -/
def choices {α : Type} : Nat → List α → List (List α)
  | 0, _ => [[]]
  | _ + 1, [] => []
  | n + 1, x :: xs => (choices n xs).map (x :: ·) ++ choices (n + 1) xs

/-- The fewest victims on a core whose saving would free it for a launch; of several such sets the first in the order above. -/
def State.victims (s : State) (l : Launch) (core : Nat) : Option (List Workgroup) :=
  let ws := ((s.residents core).filter (fun w => s.prioOf w < l.prio && w.status == .running)).foldl
    (fun acc w => insertBy s.victimBefore w acc) []
  let without := fun (vs : List Workgroup) => vs.foldl (fun s w => s.onWg w.uid (fun w => { w with status := .gone })) s
  (List.range (ws.length + 1)).findSome? (fun n => (choices n ws).find? (fun vs => (without vs).fitsNext l core))

/-- Is one choice of victims better than another: fewer, or the first that differs is taken before its counterpart? -/
def State.betterVictims (s : State) : List Workgroup → List Workgroup → Bool
  | [], bs => !bs.isEmpty
  | _ :: _, [] => false
  | a :: as, b :: bs =>
    as.length < bs.length || (as.length == bs.length && (s.victimBefore a b || (!s.victimBefore b a && State.betterVictims s as bs)))

/-- PREEMPTION_REQUEST: the head of a die's order has waited 10 ms for room (R295). -/
def State.preempt (s : State) (die : Nat) : State :=
  match s.order die with
  | [] => s
  | l :: _ =>
    if !s.starved die l || (s.nextRestore l die).isSome then s else
    let sets := (coresOf die).filterMap (s.victims l)
    match sets.foldl (fun (m : Option (List Workgroup)) v => match m with
        | none => some v
        | some b => if s.betterVictims v b then some v else some b) none with
    | none => s
    | some vs => (vs.filter (fun w => w.request.isNone)).foldl (fun s w =>
        let s := s.onWg w.uid (fun w => { w with request := some (s.time.now, l.evicts, l.grace) })
        let s := traceDisp s 4 ((s.findLaunch w.launch).getD .absent) die (some w.core) w.l
        s.requestSave w.uid) s

/-- PREEMPT_OVERDUE: the grace time has passed with a group unsaved. -/
def State.overdue (s : State) (u : Nat) : State :=
  match s.findWg u with
  | none => s
  | some w => match w.request with
    | none => s
    | some (t, evict, grace) =>
      if s.time.now < t + grace || !w.resident || (s.groupsOf u).isEmpty then s else
      let s := traceDisp s 6 ((s.findLaunch w.launch).getD .absent) (dieOf w.core) (some w.core) w.l
      if evict then s.endLaunch w.launch causeOverdue
      else s.onWg u (fun w => { w with request := some (t, evict, grace + 2 ^ 64) })

/-! ### The save area (R314) -/

def pad256 (bs : List Byte) : List Byte := bs ++ List.replicate (roundUp bs.length 256 - bs.length) 0

/-- The LIVE payload of a safe point: the word at the next address in memory, read as data wherever it lies (R28). -/
def State.livePayload (s : State) (w : Workgroup) (g : Group) : Option Nat :=
  match s.translate w.kern.ctx g.liveAt.toNat with
  | none => none
  | some pa => let x := s.natAt pa 4; if x / 2 ^ 24 = 0xF7 then some (x % 2 ^ 24) else none

/-- Block i of the vector, scalar or queue registers is live. -/
def liveV (p : Option Nat) (i : Nat) : Bool := match p with | none => true | some m => fld m (16 + i) 1 == 1
def liveS (p : Option Nat) (i : Nat) : Bool := match p with | none => true | some m => fld m (8 + i) 1 == 1
def liveQ (p : Option Nat) (i : Nat) : Bool := match p with | none => true | some m => fld m i 1 == 1

def mask16 (m : Mask) : List Byte := natBytes m.toNat 16

/-- The fixed part of a group record; free values stand for scalar blocks that are not live. -/
def Group.record (g : Group) (live : Option Nat) (free : Nat → DWord) : List Byte :=
  let t := fun (k : Nat) =>
    let x := mapGet .zero g.t k
    natBytes x.base.toNat 8 ++ natBytes x.frame 8 ++
      natBytes (x.limit % 2 ^ 48 + (if x.rd then 2 ^ 48 else 0) + (if x.wr then 2 ^ 49 else 0)) 8
  let entry := fun (e : StackEntry) => natBytes e.pc.toNat 8 ++ mask16 e.mask ++ natBytes (if e.pend then 1 else 0) 8
  natBytes g.pc.toNat 8 ++ natBytes g.gstat.toNat 8 ++ natBytes g.trapCause.toNat 8 ++ natBytes g.trapPc.toNat 8 ++
  natBytes g.trapVal.toNat 8 ++ natBytes g.rpc.toNat 8 ++ natBytes (live.getD (2 ^ 31)) 4 ++ natBytes g.count 1 ++
  natBytes g.restart.toNat 1 ++ natBytes g.c.toNat 1 ++ natBytes g.stack.length 1 ++ natBytes g.rdepth 1 ++ natBytes 0 7 ++
  mask16 g.act ++ mask16 g.exited ++ mask16 g.ra ++ natBytes g.trapOrg.toNat 8 ++ natBytes 0 8 ++
  (List.range 128).map (fun j => (g.lane j).p &&& 0xFE) ++ ((List.range 8).map t).flatten ++
  ((List.range 64).map (fun r => natBytes (if liveS live (r / 8) then (mapGet 0 g.s r).toNat else (free r).toNat) 8)).flatten ++
  (g.stack.reverse.map entry).flatten ++ List.replicate (32 * (32 - g.stack.length)) 0 ++ List.replicate 64 0

/-- Rows of one word per lane. -/
def rowBytes (w : Nat) (f : Nat → Word) : List Byte := ((List.range w).map (fun j => natBytes (f j).toNat 4)).flatten

def Group.vectorBlocks (g : Group) (live : Option Nat) : List Byte :=
  (((List.range 8).filter (fun i => liveV live i && 8 * i < g.count)).map (fun i =>
    ((List.range 8).map (fun r => rowBytes g.width (fun j => g.vget j (8 * i + r)))).flatten)).flatten

def Group.queueBlocks (g : Group) (live : Option Nat) : List Byte :=
  (((List.range 8).filter (liveQ live)).map (fun q =>
    ((List.range 8).map (fun e => rowBytes g.width (fun j => (g.queue j q).getD e 0))).flatten)).flatten

/-- The t field of a tagged step (R182). -/
def PendAct.tagField (a : PendAct) : Option (Nat × Nat × Word) :=
  match a with
  | .tag .take o _ _ => some (2, o, 0)
  | .tag .peek o _ _ => some (3, o, 0)
  | .tag .fill o x _ => some (4, o, x)
  | .tag .force o x _ => some (5, o, x)
  | .tagq o _ => some (6, o, 0)
  | _ => none

def Group.tagRecords (g : Group) : List Byte :=
  ((g.pend.filterMap (fun e => e.act.tagField.map (fun t =>
    natBytes (e.lane.getD 0) 1 ++ natBytes t.1 1 ++ natBytes g.key.gid 2 ++ natBytes t.2.1 4 ++ natBytes t.2.2.toNat 4 ++
      natBytes 0 4)))).flatten

/-- A group that has retired has a record with no active thread (log entry 27). -/
def recordGroup (s : State) (w : Workgroup) (l : Launch) (gid : Nat) : Group :=
  (s.findGroup { wg := w.uid, gid := gid, shadow := false }).getD
    { Group.absent with key := { wg := w.uid, gid := gid, shadow := false }, exited := ~~~0#128,
                        width := groupWidth l w.kern (s.getCore w.core).point }

/-- The tiles of a workgroup, as its frame list names them: the frames it holds in the engine, and its spilled tiles. -/
def State.frameList (s : State) (w : Workgroup) : List TileRef :=
  w.tiles.map (fun t => match (s.getCore w.core).frameOf w.uid t.quad t.tile with
    | some i => { t with spilled := false, frame := i, spillAt := 0 }
    | none => t)

def tileBytes (t : TileRef) : List Byte :=
  natBytes t.quad 2 ++ natBytes t.tile 1 ++ natBytes (if t.spilled then 1 else 0) 1 ++ natBytes t.frame 1 ++ natBytes 0 3 ++
    natBytes (if t.spilled then t.spillAt else 0) 8

/-- The bytes of the tags, rounded up to 64. -/
def Workgroup.tagBytes (w : Workgroup) : List Byte :=
  (List.range (roundUp (w.size / 32) 64)).map (fun k =>
    (List.range 8).foldl (fun (m : Byte) i => setBit m i (w.full (8 * k + i))) 0)

/-- The image of a save area, and where its scratchpad section begins. -/
def State.saveImage (s : State) (w : Workgroup) (l : Launch) : List Byte × Nat :=
  let gs := (List.range w.groupsN).map (recordGroup s w l)
  let live := fun (g : Group) => if g.live then s.livePayload w g else some 0
  let free := fun (i r : Nat) => Config.free (s.free + 64 * i + r)
  let steps := gs.map Group.tagRecords
  let fl := s.frameList w
  let c := s.getCore w.core
  let flags := (if l.paced then 1 else 0) + (if l.movable then 2 else 0) + (if l.isProt then 4 else 0) +
    (if w.kern.compat then 8 else 0)
  let header := natBytes l.packet 8 ++ natBytes w.l 4 ++ natBytes l.ctx.toNat 2 ++ natBytes w.core 1 ++ natBytes c.point 1 ++
    natBytes gs.length 2 ++ natBytes (steps.flatten.length / 16) 2 ++ natBytes fl.length 2 ++ natBytes flags 2 ++
    natBytes (if l.paced then (c.pace l.uid).step else 0) 8 ++ natBytes w.energy 8 ++ natBytes (s.balance w.uid) 8
  let fixed := pad256 header ++ (gs.mapIdx (fun i g => g.record (live g) (free i))).flatten
  let front := fixed ++ pad256 ((gs.map (fun g => g.vectorBlocks (live g))).flatten) ++
    pad256 ((gs.map (fun g => if g.live then g.queueBlocks (live g) else [])).flatten) ++
    pad256 steps.flatten ++ pad256 ((fl.map tileBytes).flatten)
  (front ++ pad256 ((List.range w.size).map (fun i => mapGet 0 w.pad i)) ++ w.tagBytes, front.length)

/-! ### The save (R312) and unparking (R313) -/

/-- Every live group of a workgroup is parked. -/
def State.allParked (s : State) (u : Nat) : Bool := (s.groupsOf u).all (·.parked)
def State.onCluster' (s : State) (cl : Nat) : List Workgroup := s.allWgs.filter (fun w => clusterOf w.core == cl && w.resident)

/-- R326, steps 1 and 2: every group of the cluster has parked, and no workgroup of a paced or movable launch is there. A workgroup
whose groups have all retired has none to park. -/
def State.clusterParked (s : State) (cl : Nat) : Bool :=
  (s.onCluster' cl).all (fun w => s.allParked w.uid &&
    !((s.findLaunch w.launch).getD .absent).paced && !((s.findLaunch w.launch).getD .absent).movable)

/-- A test begins once its cluster holds no workgroup: the atomic service drains its queues and passes (R326, step 5). -/
def State.beginTest (s : State) (cl : Nat) : State :=
  if (s.cluster cl).testing.isNone || (s.cluster cl).inTest || !(s.onCluster' cl).isEmpty then s else
  let s := s.drainService cl
  if s.atomq.any (fun r => s.serverOf r.pa == cl) then s else
  s.onCluster cl (fun c => { c with inTest := true, service := s.nextCluster cl, misses := 0, retryAt := none })

/-- The test of a cluster that has become empty begins. -/
def State.beginTests (s : State) : State := (s.clusters.map (·.1)).foldl (fun s cl => s.beginTest cl) s

/-- Every step of a parked workgroup that can be performed is performed (R186): one may let another go on, in n rounds. -/
def State.performAll (s : State) (u : Nat) : Nat → State
  | 0 => s
  | n + 1 => ((s.groupsOf u).foldl (fun s g => s.asGroup g.key State.settle) s).performAll u n

/-- WORKGROUP_SAVE. A fault that a step raises is taken in place of the save (R15). -/
def State.saveWg (s : State) (u : Nat) : State :=
  match s.findWg u with
  | none => s
  | some w =>
    let l := (s.findLaunch w.launch).getD .absent
    let pool := (s.die (dieOf w.core)).savePool
    if !w.asked || w.status ≠ .running || (s.groupsOf u).isEmpty || !s.allParked u || pool.isEmpty ||
        (s.getCore w.core).mq.any (fun m => m.wg == u) || s.copies.any (fun c => c.wg == u && c.dkind == 1) ||
        w.tested.any (fun cl => !s.clusterParked cl) then s else
    let area := pool.headD 0
    let s := s.performAll u (1 + ((s.groupsOf u).map (fun g => g.pend.length)).sum)
    match (s.groupsOf u).findSome? (fun g => g.firstFault.map (fun f => (g.key, f))) with
    | some (k, f) => s.asGroup k (fun s => (s.setCur { s.cur with parked := false }).takeFault f s.cur.runFirst)
    | none =>
    -- stores and reductions are performed before the save; the L1 of the core keeps nothing of them (R210, R218)
    let s := (s.groupsOf u).foldl (fun s g => s.asGroup g.key (fun s =>
      s.serveAll.flushGroup s.cur.key s.owner s.wg.core [] [] true (fun _ => true))) s
    let s := s.writeBackCore w.core (fun _ => true)
    let w := (s.findWg u).getD w
    let (img, off) := s.saveImage w l
    let s := { s with free := s.free + 64 * w.groupsN }
    let s := s.putBytes area img
    let s := w.padBad.foldl (fun s i => s.poisonMem ((area + off + 8 * i) / 4)) s
    let s := s.onDie (dieOf w.core) (fun d => { d with savePool := d.savePool.tail })
    -- of the workgroup's groups only those that live, shadows among them, come back with it
    let off' := fun (g : Group) => if g.key.wg == u then { g with live := false } else g
    let s := { s with groups := (if s.cur.live && s.cur.key.wg == u then [off' s.cur] else []) ++
                        (s.groups.filter (fun (g : Group) => g.live || g.key.wg != u)).map off',
                      cur := off' s.cur }
    let s := s.onWg u (fun w => { w with
      status := .saved area, padBase := area + off, pad := [], tags := [], padBad := [], padOld := [], request := none, tested := none,
      joint := [], tiles := s.frameList w })
    let s := s.onLaunch l.uid (fun l => { l with waiting := l.waiting ++ [u] })
    let s := (traceDisp s 5 l (dieOf w.core) (some w.core) w.l).settleCurve w.core
    -- the groups that wait at a rendezvous of the launch on the core may now be all that are resident (R116)
    (s.spanArrival w.core w.launch).beginTest (clusterOf w.core)

/-- PARKED_GROUPS_UNPARK (R313): every group that has not parked waits, and only on parked groups or on one another. -/
def State.unparkWg (s : State) (u : Nat) : State :=
  match s.findWg u with
  | none => s
  | some w =>
    let rest := (s.groupsOf u).filter (fun g => !g.parked)
    let ps := rest.map s.partiesOf
    let fine := fun (k : GKey) => rest.any (fun g => g.key == k) || (s.findGroup k).all (·.parked)
    if !w.asked || rest.isEmpty || ps.any (fun p => p.all (fun p => p.outside || !p.groups.all fine)) then s
    else s.onGroups (fun g => if g.key.wg == u then g.unpark else g)

/-! ### The restore (R315) -/

/-- A group from its record; hidden holds what a save does not write. -/
def Group.fromRecord (hidden : Group) (b : Nat → Nat → Nat) : Group :=
  let dw := fun o => (BitVec.ofNat 64 (b o 8) : DWord)
  let treg := fun (k : Nat) =>
    let o := 0x100 + 24 * k
    ({ base := dw o, frame := b (o + 8) 8, limit := fld (b (o + 16) 8) 0 48, rd := fld (b (o + 16) 8) 48 1 == 1,
       wr := fld (b (o + 16) 8) 49 1 == 1 } : TReg)
  let entry := fun (i : Nat) =>
    let o := 0x3C0 + 32 * i
    ({ pend := b (o + 24) 1 == 1, pc := dw o, mask := .ofNat 128 (b (o + 8) 16) } : StackEntry)
  { hidden with
    live := true, pc := dw 0, gstat := dw 8, trapCause := dw 0x10, trapPc := dw 0x18, trapVal := dw 0x20, rpc := dw 0x28,
    count := b 0x34 1, restart := .ofNat 8 (b 0x35 1), c := .ofNat 8 (b 0x36 1) ||| 1, rdepth := b 0x38 1,
    stack := ((List.range (min 32 (b 0x37 1))).map entry).reverse, act := .ofNat 128 (b 0x40 16), exited := .ofNat 128 (b 0x50 16),
    ra := .ofNat 128 (b 0x60 16), trapOrg := dw 0x70,
    lanes := hidden.lanes.map (fun e => (e.1, { e.2 with p := .ofNat 8 (b (0x80 + e.1) 1) ||| 1 })),
    t := (List.range 8).foldl (fun m k => mapSet .zero m k (treg k)) [],
    s := (List.range 63).foldl (fun m r => mapSet 0 m (r + 1) (dw (0x1C0 + 8 * (r + 1)))) [],
    parked := false, safe := false, wait := .none, run := .none, sched := [], gaveWay := false, fbuf := [], nopre := none }

/-- Live vector blocks come back from the area, the others hold free values (R34). A register whose word lies in a poisoned unit of the
area, which bad says, is uncorrectable (R318). -/
def Group.loadVectors (g : Group) (live : Option Nat) (word : Nat → Word) (bad : Nat → Bool) (free : Nat → Word) : Group :=
  let blocks := (List.range 8).filter (fun i => liveV live i && 8 * i < g.count)
  let at_ := fun (j r : Nat) => 8 * blocks.findIdx (· == r / 8) * g.width + r % 8 * g.width + j
  { g with lanes := g.lanes.map (fun e => (e.1, { e.2 with
      v := (List.range g.count).foldl (fun m r =>
        mapSet 0 m r (if blocks.contains (r / 8) then word (at_ e.1 r) else free (64 * e.1 + r))) [],
      bad := (List.range g.count).filter (fun r => blocks.contains (r / 8) && (e.2.bad.contains r || bad (at_ e.1 r))) })) }

/-- Live queues come back from the area, the others hold free values in as many entries. -/
def Group.loadQueues (g : Group) (live : Option Nat) (word : Nat → Word) (free : Nat → Word) : Group :=
  let qs := (List.range 8).filter (liveQ live)
  { g with q := g.q.map (fun e =>
      let j := e.1 / 8
      let q := e.1 % 8
      (e.1, e.2.mapIdx (fun i _ => if qs.contains q then word (8 * qs.findIdx (· == q) * g.width + i * g.width + j)
        else free (64 * q + 8 * j + i)))) }

/-- The pending tagged steps as the area records them, one record after another in the places of those the group had; what waits
behind a step on its word stays as it was (log entry 64). -/
def loadSteps : List Pend → List (Nat × Nat × Nat × Nat × Word) → List Pend
  | [], _ => []
  | e :: es, recs =>
    let op := fun (n : Nat) => if n = 2 then TagOp.take else if n = 3 then .peek else if n = 4 then .fill else .force
    match e.act, recs with
    | .tag _ _ _ d, r :: rs => { e with lane := some r.1, act := .tag (op r.2.1) r.2.2.2.1 r.2.2.2.2 d } :: loadSteps es rs
    | .tagq _ d, r :: rs => { e with lane := some r.1, act := .tagq r.2.2.2.1 d } :: loadSteps es rs
    | _, _ => e :: loadSteps es recs

def Group.loadSteps (g : Group) (recs : List (Nat × Nat × Nat × Nat × Word)) : Group :=
  { g with pend := Machine.loadSteps g.pend (recs.filter (fun r => r.2.2.1 == g.key.gid)) }

/-- Sizes of the sections that stand before the vector blocks, and of each group's part. -/
def savedLive (x : Nat) : Option Nat := if x / 2 ^ 31 = 1 then none else some (x % 2 ^ 24)

/-- The first poisoned unit in a range of physical memory. -/
def State.poisonIn (s : State) (pa n : Nat) : Option Nat :=
  ((List.range ((pa % 8 + n + 7) / 8)).find? (fun i => s.memBad.contains (pa / 8 + i))).map (fun i => 8 * (pa / 8 + i))

/-- A group that comes back from a poisoned unit: it consumes the poison at its first instruction (DESIGN CHOICE, log entry 80). -/
def Group.withPoison (g : Group) (pa : Option Nat) : Group :=
  match pa with
  | none => g
  | some a => { g with pend := { lane := none, rem := 0, org := g.pc, kept := false, act := .fault causePoison (.ofNat 64 a), know := [],
                                 from_ := { num := 0, owner := g.key, point := 0, lane := 0 } } :: g.pend }

/-- Rebuilds the groups of a workgroup from its area; all of it is a poisoned unit of what is not one group's. -/
def State.rebuildGroups (s : State) (w : Workgroup) (area : Nat) (steps : List (Nat × Nat × Nat × Nat × Word)) (vec que : Nat)
    (all : Option Nat) : List Group :=
  let recAt := fun (gid : Nat) => area + 256 + 2048 * gid
  let hidden := fun (gid : Nat) => s.groups.find? (fun g => g.key == { wg := w.uid, gid := gid, shadow := false })
  let one := fun (acc : List Group × Nat × Nat) (gid : Nat) =>
    match hidden gid with
    | none => acc
    | some h =>
      let live := savedLive (s.natAt (recAt gid + 0x30) 4)
      let g := h.fromRecord (fun o n => s.natAt (recAt gid + o) n)
      let nv := ((List.range 8).filter (fun i => liveV live i && 8 * i < g.count)).length
      let nq := ((List.range 8).filter (liveQ live)).length
      let word := fun (base i : Nat) => (BitVec.ofNat 32 (s.natAt (base + 4 * i) 4) : Word)
      let free := fun (i : Nat) => ((Config.free (s.free + 8192 * gid + i)).setWidth 32 : Word)
      let bad := fun (i : Nat) => s.memBad.contains ((acc.2.1 + 4 * i) / 8)
      let g := ((g.loadVectors live (word acc.2.1) bad free).loadQueues live (word acc.2.2) free).loadSteps steps
      let g := g.withPoison (((s.poisonIn (recAt gid) 2048).orElse (fun _ => s.poisonIn acc.2.2 (32 * g.width * nq))).orElse (fun _ => all))
      (acc.1 ++ [g], acc.2.1 + 32 * g.width * nv, acc.2.2 + 32 * g.width * nq)
  ((List.range w.groupsN).foldl one ([], vec, que)).1

/-- Bytes of the vector and queue sections of an area. -/
def State.areaSizes (s : State) (w : Workgroup) (area : Nat) : Nat × Nat :=
  (List.range w.groupsN).foldl (fun acc gid =>
    match s.groups.find? (fun g => g.key == { wg := w.uid, gid := gid, shadow := false }) with
    | none => acc
    | some h =>
      let r := area + 256 + 2048 * gid
      let live := savedLive (s.natAt (r + 0x30) 4)
      let count := s.natAt (r + 0x34) 1
      (acc.1 + 32 * h.width * ((List.range 8).filter (fun i => liveV live i && 8 * i < count)).length,
       acc.2 + 32 * h.width * ((List.range 8).filter (liveQ live)).length)) (0, 0)

/-- Spills the frames that a saved workgroup still has in the engine of its old core (R315). -/
def State.spillFrames (s : State) (w : Workgroup) (fl n : Nat) : State :=
  (List.range n).foldl (fun s i =>
    let a := fl + 16 * i
    let quad := s.natAt a 2
    let tile := s.natAt (a + 2) 1
    match (s.getCore w.core).frameOf w.uid quad tile, (s.die (dieOf w.core)).spillPool with
    | some f, addr :: rest =>
      let s := s.writeImage addr ((s.getCore w.core).frame f)
      let s := s.onCore w.core (fun c => c.setFrame f .free)
      let s := s.onDie (dieOf w.core) (fun d => { d with spillPool := rest })
      s.putBytes a (tileBytes { quad := quad, tile := tile, spilled := true, frame := f, spillAt := addr })
    | _, _ => s) s

/-- The core on which a workgroup would be restored now. -/
def State.restoreChoice (s : State) (u : Nat) : Option Nat :=
  match s.findWg u with
  | none => none
  | some w => match w.status with
    | .saved area =>
      let l := (s.findLaunch w.launch).getD .absent
      (s.restoreOn w l area).filter (fun _ => !s.overtaken l (dieOf w.core))
    | _ => none

/-- WORKGROUP_RESTORE. -/
def State.restoreWg (s : State) (u core : Nat) : State :=
  match s.findWg u with
  | none => s
  | some w => match w.status with
    | .saved area =>
      let l := (s.findLaunch w.launch).getD .absent
      if l.state ≠ .running || !s.restoreCore w l area core then s else
      let s := s.setPoint core (s.natAt (area + 15) 1)
      let nstep := s.natAt (area + 18) 2
      let nframe := s.natAt (area + 20) 2
      let (nv, nq) := s.areaSizes w area
      let vec := area + 256 + 2048 * w.groupsN
      let que := vec + roundUp nv 256
      let stp := que + roundUp nq 256
      let fl := stp + roundUp (16 * nstep) 256
      let pad := fl + roundUp (16 * nframe) 256
      let tag := pad + roundUp w.size 256
      let s := if core = w.core then s else s.spillFrames w fl nframe
      let tiles := (List.range nframe).map (fun i =>
        let a := fl + 16 * i
        ({ quad := s.natAt a 2, tile := s.natAt (a + 2) 1, spilled := s.natAt (a + 3) 1 == 1, frame := s.natAt (a + 4) 1,
           spillAt := s.natAt (a + 8) 8 } : TileRef))
      let steps := (List.range nstep).map (fun i =>
        let a := stp + 16 * i
        (s.natAt a 1, s.natAt (a + 1) 1, s.natAt (a + 2) 2, s.natAt (a + 4) 4, (BitVec.ofNat 32 (s.natAt (a + 8) 4) : Word)))
      let all := ((s.poisonIn area 256).orElse (fun _ => s.poisonIn stp (pad - stp))).orElse (fun _ => s.poisonIn tag (w.size / 32))
      let gs := s.rebuildGroups w area steps vec que all
      let shadows := (s.groups.filter (fun g => g.key.wg == u && g.key.shadow)).map (fun g => { g with live := true })
      let s := { s with groups := (s.groups.filter (fun (g : Group) => g.key.wg ≠ u)) ++ gs ++ shadows, free := s.free + 8192 * w.groupsN }
      let base := if w.size = 0 then 0 else (padSlot (s.padTaken core) (roundPad w.size)).getD 0
      let w' := { w with
        core := core, status := .running, padBase := base, tiles := tiles, energy := s.natAt (area + 32) 8,
        pad := mapSetList 0 [] 0 (s.bytes pad w.size),
        tags := (List.range (w.size / 4)).filter (fun i => (s.byte (tag + i / 8)).getLsbD (i % 8)),
        padBad := (List.range (w.size / 8)).filter (fun i => s.memBad.contains (pad / 8 + i)),
        areas := w.areas ++ [area] }
      let s := (s.onWg u (fun _ => w')).freeArea u
      let s := if l.paced then s.onPace core l.uid (fun p => { p with step := s.natAt (area + 24) 8 }) else s
      let s := s.reslot w'
      let s := s.foundRoom (dieOf core) l.uid
      let move := fun (c : Nat) => if c = w.core then core else c
      s.onLaunch l.uid (fun l => { l with
        waiting := l.waiting.filter (· ≠ u),
        chans := l.chans.map (fun (c : Chan) => { c with bind := { c.bind with sender := move c.bind.sender, recv := move c.bind.recv } }) })
    | _ => s

/-! ### In-field tests (R326) -/

/-- IN_FIELD_TEST_DUE: no more placement on the cluster, and a request to every workgroup there. -/
def State.testDue (s : State) (cl : Nat) : State :=
  let c := s.cluster cl
  if c.inTest || c.testing.isSome || (c.retryAt.getD 0) > s.time.now then s else
  let s := (s.onCluster cl (fun c => { c with testing := some s.time.now, retryAt := none })).onDie (cl / 8)
    (fun d => { d with noPlace := insRising cl d.noPlace })
  let s := (s.onCluster' cl).foldl (fun s w =>
    let s := s.onWg w.uid (fun w => { w with tested := some cl })
    let s := traceDisp s 4 ((s.findLaunch w.launch).getD .absent) (cl / 8) (some w.core) w.l
    s.requestSave w.uid) s
  s.beginTest cl

/-- The cluster takes workgroups again. -/
def State.openCluster (s : State) (cl : Nat) : State :=
  s.onDie (cl / 8) (fun d => { d with noPlace := d.noPlace.filter (· ≠ cl) })

/-- IN_FIELD_TEST_DEADLINE: 2 ms have passed with a group unparked, or with a workgroup that cannot move. -/
def State.testDeadline (s : State) (cl : Nat) : State :=
  match (s.cluster cl).testing with
  | none => s
  | some t =>
    if (s.cluster cl).inTest || s.time.now < t + 2000000 || s.clusterParked cl then s else
    let mine := (s.onCluster' cl).map (·.uid)
    let s := s.onWgs (fun w => if w.tested == some cl then { w with tested := none } else w)
    let s := s.onGroups (fun g => if mine.contains g.key.wg &&
      (((s.findWg g.key.wg).map (fun w => w.request.isNone)).getD true) then g.unpark else g)
    let n := (s.cluster cl).misses + 1
    let s := (s.openCluster cl).onCluster cl (fun c => { c with
      testing := none, misses := if 4 ≤ n then 0 else n, overdue := c.overdue || 4 ≤ n,
      retryAt := if 4 ≤ n then none else some (s.time.now + 100000000) })
    if 4 ≤ n then s.trace 8 6 (cl / 8) none none 0 (.ofNat 64 cl) (.ofNat 64 n) else s

/-- IN_FIELD_TEST_END: the service returns, after draining, and placement goes on. -/
def State.testEnd (s : State) (cl : Nat) : State :=
  if !(s.cluster cl).inTest then s else
  let s := (s.atomq.filter (fun r => ownerHash r.pa == cl)).foldl (fun s r => s.serviceAtom r.id) s
  if s.atomq.any (fun r => ownerHash r.pa == cl) then s else
  (s.openCluster cl).onCluster cl (fun c => { c with testing := none, inTest := false, overdue := false, service := 32 })

end Sys2Proof.Machine
end

