-- ==== Sys2Proof/Machine/Device.lean ====
section
/-!
DEFINITION. Machine/Device.lean: storage errors and the health monitor (R318, R323 to R325), power and bring-up (R357 to R365), the
links (R334), the network (R339 to R343), the time base (R344 to R346), application cores (R366), and a
fetch that cannot execute (R13, R36, R39).
-/

namespace Sys2Proof.Machine

/-! ### Storage errors (R318, R325) -/

/-- A unit of a core's L1: what it holds dirty of it is lost, and becomes poison; a clean unit has another copy and is fetched again. -/
def State.poisonLine (s : State) (core u : Nat) : State :=
  let mine := fun (g : Group) => g.live && ((s.findWg g.key.wg).getD .absent).core == core && g.dirty.any (fun e => e.1 / 8 == u)
  let t := s.onGroups (fun g => if mine g then { g with dirtyBad := insRising u g.dirtyBad, whole := g.whole.filter (· ≠ u) } else g)
  if [2 * u, 2 * u + 1].any (fun w => (s.histOf w).inL1.any (fun v => v.core == core)) then t.poisonMem (2 * u) else t

/-- The unit becomes poison: 8 bytes of memory, of a scratchpad or of a tile frame, or a register. -/
def State.poisonPlace (s : State) (p : ErrorPlace) : State :=
  match p with
  | .memory pa => s.poisonMem (pa / 4)
  | .l1 core pa => s.poisonLine core (pa / 8)
  | .scratchpad u off => s.poisonPad u off
  | .vreg g lane r => s.onGroup g (fun g => g.setLane lane { g.lane lane with bad := insRising r (g.lane lane).bad })
  | .frame core i e => s.onCore core (fun c => c.setFrame i { c.frame i with
      bad := insRising (e / 2 * 2) (insRising (e / 2 * 2 + 1) (c.frame i).bad) })
  | .pseudoChannel _ _ _ => s
  | .endpoint _ _ _ => s

/-- A core has lost points. Where it held the atomic service group of its cluster and has none left, the service drains its queues before it
passes (R323); then what is left of the core is settled. -/
def State.passService (s : State) (core : Nat) : State :=
  (if (s.getCore core).curve = 0 then s.drainService (clusterOf core) else s).settleCurve core

/-- The highest point that all four quarters support bounds the curve (R323). -/
def cellCurve (cells : List Nat) : BitVec 4 :=
  let h := cells.foldl min 128
  (List.range 4).foldl (fun m p => setBit m p (widthAt p ≤ h)) 0

/-- An array is retired: a register file takes a lane cell of its quarter with it; a spare replaces any other array, and where none
remains the core is mapped out as soon as it holds no workgroup (R323; log entry 28). -/
def State.retireArray (s : State) (core array : Nat) (p : ErrorPlace) : State :=
  let s := match p with
    | .vreg g _ _ => s.onCore core (fun c =>
        let cells := c.cells.mapIdx (fun i n => if i == g.gid % 4 then n - 1 else n)
        { c with cells := cells, curve := c.curve &&& cellCurve cells })
    | _ => s.onCore core (fun c =>
        if c.retired.length < Config.spares core then { c with retired := array :: c.retired } else { c with curve := 0 })
  (s.traceOpen 8 3 core).passService core

def dayNs : Nat := 86400000000000

/-- The floor of a core at its point, in tenths of a millivolt (R325). -/
def Core.floor (c : Core) : Nat := c.floorAt c.point

/-- The first crossing in 24 hours: every floor of the core rises by 12.5 mV and adaptation freezes; the rail follows to the new floor
(R325). -/
def State.raiseFloor (s : State) (core : Nat) : State :=
  let t := (s.onCore core (fun c => { c with crossed := some s.time.now, frozen := true, floorUp := c.floorUp + 125 })).traceOpen 8 2 core
  t.moveRail core (max (t.getCore core).rail (((t.getCore core).floor + 9) / 10))

/-- A corrected error is counted; 64 of one array within 10 minutes cross the threshold (R325). -/
def State.countError (s : State) (core array : Nat) (p : ErrorPlace) : State :=
  let c := s.getCore core
  let times := s.time.now :: (mapGet [] c.errors array).filter (fun t => s.time.now < t + 600000000000)
  if times.length < 64 then s.onCore core (fun c => { c with errors := mapSet [] c.errors array times })
  else
    let s := s.onCore core (fun c => { c with errors := mapSet [] c.errors array [] })
    match c.crossed with
    | some t => if s.time.now < t + dayNs then s.retireArray core array p else s.raiseFloor core
    | none => s.raiseFloor core

/-- What is left of a range of addresses without other ranges. -/
def rangeMinus (r : Nat × Nat) (taken : List (Nat × Nat)) : List (Nat × Nat) :=
  taken.foldl (fun ps t => ps.flatMap (fun p =>
    [(p.1, min (p.1 + p.2) t.1 - p.1), (max p.1 (t.1 + t.2), p.1 + p.2 - max p.1 (t.1 + t.2))].filter (fun x => x.2 ≠ 0))) [r]

/-- STORAGE_ERROR. A unit that fails whole is mapped out (R323); what is mapped out already stays so. -/
def State.storage (s : State) (e : StorageError) : State :=
  match e.place with
  | .pseudoChannel _ base len => { s with withdrawn := s.withdrawn ++ rangeMinus (base, len) s.withdrawn }
  | .endpoint core ch out =>
    if s.endpoints.contains (core, ch, out) then s else { s with endpoints := s.endpoints ++ [(core, ch, out)] }
  | _ =>
    if e.correctable then s.countError e.core e.array e.place
    else if e.hasCopy then s else s.poisonPlace e.place

/-- FLOOR_FREEZE_LIFT: 24 h after the first crossing with no second. -/
def State.liftFreeze (s : State) (core : Nat) : State :=
  let c := s.getCore core
  if c.frozen && c.crossed.any (fun t => t + dayNs ≤ s.time.now) then
    (s.onCore core (fun c => { c with frozen := false, crossed := none })).traceCore 8 1 core 0 (.ofNat 64 c.point) (.ofNat 64 c.rail)
  else s

/-! ### Power (R325, R357 to R361) -/

/-- DROOP_REGULATION: the regulator follows the least of the core's own eight sensors; the margin that the puppeteer takes from it
is a free value between the floor and the nominal rail, and stays as it is while adaptation is frozen or a droop lies below
the floor (R325, R359). -/
def State.regulate (s : State) (core : Nat) (readings : List Nat) : State :=
  if s.phase < 9 || readings.length ≠ 8 then s else
  let c := s.getCore core
  let low := readings.foldl min (readings.headD 0)
  let s := s.onCore core (fun c => { c with droop := readings })
  if !c.present || c.frozen || low < c.floor then s else
  let top := c.railFor c.point
  let bottom := min top ((c.floor + 9) / 10)
  s.tick.moveRail core (bottom + s.freeVal.toNat % (top - bottom + 1))

/-- The highest-voltage point of a curve goes (R360). -/
def dropTop (c : BitVec 4) : BitVec 4 :=
  match (List.range 4).find? (fun p => c.getLsbD p) with
  | some p => setBit c p false
  | none => c

def coresIn (cl : Nat) : List Nat := (List.range 8).map (fun i => 8 * cl + i)

/-- Is the bump field of a cluster to be tested: 10 ms after its last test, and with no core of it slewing in that time (R360)? -/
def State.supplyDue (s : State) (cl : Nat) : Bool :=
  let past := fun (t : Option Nat) => t.all (· + 10000000 ≤ s.time.now)
  past (s.cluster cl).supplyAt &&
    (coresIn cl).all (fun k => past (s.getCore k).slewed && (s.getCore k).rdv.all (fun r => r.phase != .moving))

/-- SUPPLY_PATH_TEST: an excess in two consecutive tests is a supply-path fault (R360). -/
def State.supplyTest (s : State) (cl : Nat) (r : SupplyReading) : State :=
  if s.phase < 9 || !r.steady || !s.supplyDue cl then s else
  let found := (s.cluster cl).excess
  let s := s.onCluster cl (fun c => { c with excess := !found && 0 < r.excess, supplyAt := some s.time.now })
  if !found || r.excess ≤ 0 then s
  else
    let s := s.trace 8 4 (cl / 8) none none 0 (.ofNat 64 cl) (.ofInt 64 r.excess)
    let s := { s with cap := { s.cap with supply := true } }
    (coresIn cl).foldl (fun s k =>
      if (s.getCore k).present then (s.onCore k (fun c => { c with curve := dropTop c.curve })).passService k else s) s

/-- The limit of R358 on the sum of the dies' power caps. -/
def moduleWatts : Nat := 1500

/-- The puppeteer sets a die's power cap: within the sum of R358; the reservoir holds no more than 20 ms of it (R296, R361). -/
def State.setCap (s : State) (d watts : Nat) : State :=
  let others := (((List.range 4).filter (· ≠ d)).map (fun i => (s.die i).capW)).sum
  if s.phase < 9 || 4 ≤ d || moduleWatts < others + watts then s else
  s.onDie d (fun x => { x with capW := watts, reservoir := min x.reservoir ((20000000 * watts : Nat) : Int) })

/-- THERMAL_HEADROOM_REPORT: the readings of a die's sensors; the report of low headroom stands while the hottest lies within 8 of its limit of
105 degrees Celsius (R297, R361). -/
def State.headroom (s : State) (d : Nat) (sensors : List Int) : State :=
  match sensors with
  | [] => s
  | t :: ts =>
    let hot := ts.foldl max t
    if s.phase < 9 then s else s.onDie d (fun x => { x with hottest := hot, lowHead := 97 ≤ hot })

/-- The dies power down in the reverse order of bring-up (R357, R364): no application core runs and no launch port is mapped; the pools, the
supervisor regions and the reservoirs go, with the words of the capability block that bring-up wrote; the trace buffers; the rails; what
the built-in tests found; the links and memory, of which nothing is kept (DEDUCED, log entry 45). -/
def State.powerDown (s : State) : State :=
  let s := { s with hubLoad := 0, appKnow := [], accepted := [], tables := [], paged := [], homes := [], objects := [] }
  let s := { s with dies := [], power := [], cap := { State.reset.cap with stepping := s.cap.stepping, serial := s.cap.serial } }
  let s := { s with traces := [], seqs := [], time := { s.time with port := none, stamps := [], lost := none } }
  let s := { s with core := .idle s.core.id, cores := [], clusters := [] }
  let s := { s with endpoints := [], withdrawn := [] }
  let s := { s with links := [], mem := [], memBad := [], hist := [], outMsgs := [], inbound := [], answers := [], digests := [] }
  { s with phase := 0 }

/-- INPUT_VOLTAGE_FAULT: every launch ends with KILLED and the dies power down (R357). -/
def State.inputFault (s : State) : State :=
  let us := (s.allLaunches.filter (fun l => l.uid ≠ 0)).map (·.uid)
  let s := us.foldl (fun s u => s.endLaunch u codeKilled) s
  let s := { s with copies := [], atomq := [], outMsgs := [] }
  (us.foldl (fun s u => if ((s.findLaunch u).getD .absent).state = .ending then s.closeLaunch u .ended (0x5000 + codeKilled) else s) s).powerDown

/-! ### Bring-up (R362 to R365) -/

/-- The dies that are present: not one whose hub link fails training, since nothing else joins a die to the hub (R332; log entry 81). -/
def firmwareDies (fw : Firmware) : BitVec 4 :=
  (List.range 4).foldl (fun m d => if fw.badLinks.contains (4 + d) then setBit m d false else m) fw.dies

/-- A core at step 6: its rail at the nominal S1 rail, its curve from its lane cells, or mapped out, with its cluster and its die
(R1, R323). -/
def coreUp (fw : Firmware) (x : CoreSetup) : Core :=
  let x := { x with cells := x.cells.map (min 128) }
  let curve := cellCurve x.cells
  let on := x.cells.length == 4 && curve != 0 && x.core < 256 && (fw.coresUp.getD (x.core / 64) 0).getLsbD (x.core % 64) &&
    fw.clusters.getLsbD (clusterOf x.core) && (firmwareDies fw).getLsbD (dieOf x.core)
  { Core.idle x.core with
    present := on, cells := x.cells, curve := if on then curve else 0, curveCap := if on then curve else 0,
    rail := if on then railAt 1 else 0, setup := x }

/-- Does an image pass the boot ROM's check (R362): its signature of 29,792 bytes verifies under a public key of 64 bytes whose digest is the
fused one? -/
def imagePasses (fw : Firmware) (i : FwImage) : Bool :=
  fw.key.length == 64 && Config.digest fw.key == Config.fusedKey && i.signature.length == 29792 && Config.verifies fw.key i.bytes i.signature

/-- Power caps whose sum stays within so many watts. -/
def capsWithin : Nat → List Nat → List Nat
  | _, [] => []
  | n, c :: cs => min c n :: capsWithin (n - min c n) cs

/-- BRING_UP: the steps of R364 in order, as far as they succeed; no figure exceeds the limits of R1. -/
def State.bringUp (s : State) (fw : Firmware) : State :=
  if s.phase ≠ 0 || s.failed.isSome || !fw.inputOk then s
  else if !fw.romOk then { s with phase := 1 }
  else if !(fw.images.length == 3 && fw.images.all (imagePasses fw)) then
    { s with phase := 2, failed := some (fw.images.findIdx (fun i => !imagePasses fw i)) }
  else
    let cores := fw.cores.map (coreUp fw)
    let caps := capsWithin moduleWatts (fw.cap.take 4)
    let die := fun (d : Nat) => { Die.idle with
      capW := caps.getD d 0, reservoir := 20000000 * (caps.getD d 0 : Int), savePool := fw.savePool.getD d [],
      spillPool := fw.spillPool.getD d [] }
    let cap : Capability :=
      { stepping := fw.stepping, supply := false, serial := fw.serial, clusters := fw.clusters, dies := firmwareDies fw,
        ports := fw.ports, coresUp := fw.coresUp.take 4, near := (fw.near.take 4).map (min 98304), second := min fw.second 2097152 }
    { s with
      cap := cap, endpoints := fw.endpoints, digests := fw.images.map (fun i => Config.digest i.bytes), power := fw.power,
      links := ((List.range 8).filter fw.badLinks.contains).foldl (fun m n => mapSet .idle m n { LinkState.idle with up := false }) [],
      time := { s.time with now := max s.time.now (min fw.now (2 ^ 64 - 1)), domain := min 127 fw.domain, port := (List.range 12).find? (fun p => fw.ports.getLsbD p) },
      traces := fw.traces.map (fun t => { setup := t, next := 0, used := 0, lost := 0 }),
      core := (cores.find? (fun c => c.id == s.core.id)).getD s.core, cores := cores.filter (fun c => c.id ≠ s.core.id),
      dies := (List.range 4).foldl (fun m d => mapSet .idle m d (die d)) [], phase := 9 }

/-- A mask without the units of which a test fails. -/
def maskBits (m n : Nat) (f : Nat → Bool) : Nat := (List.range n).foldl (fun r i => if m.testBit i && f i then r + 2 ^ i else r) 0

/-- The near-tier capacity of a die in MiB, without what its failed pseudo-channels have taken away (R323). -/
def State.nearOf (s : State) (d : Nat) : Nat :=
  s.cap.near.getD d 0 -
    (((s.withdrawn.filter (fun r => (s.dieRange d).1 ≤ r.1 && r.1 < (s.dieRange d).2)).map (·.2)).sum + 1048575) / 1048576

/-- Word n of the capability block (R365): a unit that has been mapped out since bring-up reads as absent (R323). -/
def State.capWord (s : State) (o : Nat) : Nat :=
  let up := fun c => (s.getCore c).present
  if o = 0 then 3 * 2 ^ 56 + s.cap.stepping.toNat * 2 ^ 48 + (if s.cap.supply then 2 ^ 32 else 0) + s.cap.serial.toNat
  else if o = 8 then maskBits s.cap.clusters.toNat 32 (fun k => (List.range 8).any (fun i => up (8 * k + i)))
  else if o = 0x10 then s.cap.dies.toNat * 4096 + s.cap.ports.toNat
  else if 0x20 ≤ o && o < 0x40 then
    maskBits (s.cap.coresUp.getD ((o - 0x20) / 8) 0).toNat 64 (fun k => up (64 * ((o - 0x20) / 8) + k))
  else if 0x40 ≤ o && o < 0x60 then s.nearOf ((o - 0x40) / 8)
  else if o = 0x60 then s.cap.second
  else if 0x80 ≤ o && o < 0x180 then
    (List.range 8).foldl (fun m i => m + (let c := s.getCore (o - 0x80 + i); if c.present then c.curveCap.toNat else 0) * 256 ^ i) 0
  else 0

/-- A signature of the parameter set of R362, with the module's identity key (R363). -/
def signed (body : List Byte) : List Byte := (List.range 29792).map (Config.signature Config.identity body)

/-- ATTESTATION_REPORT, on request from supervisor software: nonce, digests, the first 64 bytes of the capability block, the time, and the
signature over them. -/
def State.attest (s : State) (nonce : List Byte) (supervisor : Bool) : State :=
  if !supervisor || nonce.length ≠ 32 || s.phase < 3 then s else
  let body := nonce ++ s.digests.flatten ++ ((List.range 8).map (fun i => natBytes (s.capWord (8 * i)) 8)).flatten ++
    natBytes (s.time.now % 2 ^ 64) 8
  { s with report := body ++ signed body }

/-! ### Links (R334) -/

/-- LINK_FLIT_REPLAY: a replay changes only timing; a link that cannot complete it, which a free value says, retrains. -/
def State.replayFlit (s : State) (link : Nat) : State :=
  let l := mapGet .idle s.links link
  if !l.up || 8 ≤ link then s else
  let l' := { l with replays := l.replays + 1, retrain := l.retrain || s.freeVal.getLsbD 0 }
  { s.tick with links := mapSet .idle s.links link l' }

/-- LINK_RETRAIN: a retraining link is good again, or it is mapped out and its traffic runs through the hub. No other link joins a die to the
hub, so a hub link that fails goes on retraining (DESIGN CHOICE, log entry 81). -/
def State.retrainLink (s : State) (link : Nat) (ok : Bool) : State :=
  let l := mapGet .idle s.links link
  if l.up && l.retrain && (ok || link < 4) then { s with links := mapSet .idle s.links link { l with retrain := false, up := ok } } else s

/-! ### The network (R281, R282, R339 to R343) -/

/-- The timeout of a queue: 100 ms where none is given (R339). -/
def queueLimit (q : QueueSpec) : Nat := q.timeout.getD 100000000

/-- NETWORK_QUEUE_OPEN: a queue is opened, or a send queue in the error state is opened again. -/
def State.openQueue (s : State) (q : QueueSpec) : State :=
  match s.findLaunch q.launch with
  | none => s
  | some l =>
    let same := fun (x : NetQueue) => x.spec.number == q.number && x.spec.send == q.send
    if !(l.state == .queued || l.state == .running) || 65536 ≤ q.number || queueLimit q < 1000000 || 10000000000 < queueLimit q ||
        (match q.port with | some p => 12 ≤ p || !s.cap.ports.getLsbD p | none => s.cap.ports = 0) || l.queues.any (fun x => same x && !x.error) then s
    else s.onLaunch l.uid (fun l => { l with queues := l.queues.filter (fun x => !same x) ++ [{ spec := q, error := false, next := 0 }] })

/-- The posted entry that a message matches (R282). -/
def matchPosted (ps : List Posted) (m : Message) : Option Posted :=
  ps.find? (fun p => p.queue == m.queue && p.op == m.op &&
    (match m.op with
     | .send => true
     | .tagged => p.tag == m.tag
     | .rma => p.tag ≤ m.tag && m.tag < p.tag + p.length))

/-- Removes the first entry that is the given one. -/
def dropFirst (p : Posted) : List Posted → List Posted
  | [] => []
  | x :: xs => if x = p then xs else x :: dropFirst p xs

def netArg (queue port : Nat) : DWord := .ofNat 64 (queue % 65536 + 65536 * (port % 256))

/-- Writes bytes at an address of a launch, unit of 8 bytes by unit, each at its own frame; and the words written. -/
def State.putVirtual (s : State) (ctx : BitVec 16) (va : Nat) (bs : List Byte) : State × List Nat :=
  (List.range ((va % 8 + bs.length + 7) / 8)).foldl (fun (t : State × List Nat) i =>
    let lo := max va (8 * (va / 8 + i))
    let hi := min (va + bs.length) (8 * (va / 8 + i) + 8)
    match s.translate ctx lo with
    | none => t
    | some pa => (t.1.putBytes pa ((bs.drop (lo - va)).take (hi - lo)),
        t.2 ++ (List.range ((pa % 4 + (hi - lo) + 3) / 4)).map (fun k => pa / 4 + k))) (s, [])

/-- What happens before a party that has made the newest write of these words. -/
def State.knowWords (s : State) (k : Know) (ws : List Nat) : Know := ws.foldl (fun k w => k.raise w (s.lastWrite w)) k

/-- Does a message arrive where its receive queue is opened: on the port, or on any healthy one, and from the peer and its job (R339); under
ROD, as the next in send order (R341)? -/
def State.takes (s : State) (q : NetQueue) (m : Message) : Bool :=
  m.port < 12 && s.cap.ports.getLsbD m.port && q.spec.port.all (· == m.port) && q.spec.peer == m.peer && q.spec.job == m.job &&
    (!q.spec.ordered || q.next == m.seq)

/-- Packet k of a message: at most 4,096 bytes (R341). -/
def packetOf (m : Message) (k : Nat) : List Byte := (m.bytes.drop (4096 * k)).take 4096
def packetCount (m : Message) : Nat := (m.bytes.length + 4095) / 4096

/-- The message as far as its packets have been placed, or at its first packet with the entry that it matches: one that no other message
fills. -/
def State.inboundOf (s : State) (l : Launch) (m : Message) : Option Inbound :=
  match s.inbound.find? (fun i => i.msg == m) with
  | some i => some i
  | none =>
    let taken := (s.inbound.filter (fun i => i.msg.launch == l.uid && i.msg.op != .rma)).map (·.entry)
    (matchPosted (taken.foldl (fun ps p => dropFirst p ps) l.posted) m).map (fun p => { msg := m, entry := p, placed := [], know := [] })

/-- Where the message begins in its buffer, and how many of its bytes that takes (R282). -/
def Inbound.offset (i : Inbound) : Nat := if i.msg.op = .rma then i.msg.tag - i.entry.tag else 0
def Inbound.room (i : Inbound) : Nat := i.entry.length - i.offset

/-- A packet of a message is placed. -/
def State.putPacket (s : State) (ctx : BitVec 16) (i : Inbound) (k : Nat) : State × Inbound :=
  let (t, ws) := s.putVirtual ctx (i.entry.buf.toNat + i.offset + 4096 * k) ((packetOf i.msg k).take (i.room - 4096 * k))
  (t, { i with placed := k :: i.placed, know := t.knowWords i.know ws })

/-- A packet is placed before its message has arrived whole: under RUD in any order, under ROD in byte order (R341). -/
def State.placePacket (s : State) (m : Message) (k : Nat) : State :=
  match s.findLaunch m.launch with
  | none => s
  | some l =>
    match l.recvQueue m.queue, s.inboundOf l m with
    | some q, some i =>
      if l.state ≠ .running || !s.takes q m || packetCount m ≤ k || i.placed.contains k ||
          (q.spec.ordered && !(List.range k).all i.placed.contains) then s else
      let (t, i) := s.putPacket l.ctx i k
      { t with inbound := t.inbound.filter (fun x => x.msg != m) ++ [i] }
    | _, _ => s

/-- What the endpoint of a port answers. -/
def State.reply (s : State) (kind : AnswerKind) (port queue : Nat) : State :=
  { s with answers := s.answers ++ [{ kind := kind, port := port, queue := queue }] }

/-- NETWORK_MESSAGE_RECEIVE: the message has arrived whole: its words first, then the increment at .sys; one that no entry matches leaves
nothing and is answered with a no-buffer response (R282, R341, R342). -/
def State.receive (s : State) (m : Message) : State :=
  match s.findLaunch m.launch with
  | none => s
  | some l =>
    if l.state ≠ .running || !(l.recvQueue m.queue).any (fun q => s.takes q m) then s else
    match s.inboundOf l m with
    | none => s.reply .noBuffer m.port m.queue
    | some i =>
      let p := i.entry
      let (s, i) := ((List.range (packetCount m)).filter (fun k => !i.placed.contains k)).foldl (fun (x : State × Inbound) k =>
        x.1.putPacket l.ctx x.2 k) (s, i)
      let s := s.increment p.counter (if p.inc = 0 then 1 else p.inc) i.know 6 .outside
      let s := ({ s with inbound := s.inbound.filter (fun x => x.msg != m) } : State).onLaunch l.uid (fun l => { l with
        posted := if m.op = .rma then l.posted else dropFirst p l.posted,
        queues := l.queues.map (fun q => if q.spec.number == m.queue && !q.spec.send then { q with next := q.next + 1 } else q) })
      let s := s.trace 7 2 4 none none l.ctx (netArg m.queue m.port) (.ofNat 64 m.bytes.length)
      if i.room < m.bytes.length then s.trace 7 4 4 none none l.ctx (netArg m.queue m.port) m.peer else s

/-- The send queue of a message. -/
def State.queueOf (s : State) (m : OutMsg) : Option NetQueue :=
  (s.findLaunch m.launch).bind (fun l => l.queues.find? (fun q => q.spec.number == m.queue && q.spec.send))

/-- NO_BUFFER_RETRANSMIT: a no-buffer response to a message that has gone out sets the instant at which it goes out again: after 10 µs, then
at intervals that double up to 1 ms; at that instant it goes out, until the queue's timeout (R342). -/
def State.retransmit (s : State) (id : Nat) (answer : Bool) : State :=
  { s with outMsgs := s.outMsgs.map (fun m =>
      let open_ := (s.queueOf m).any (fun q => s.time.now < m.sentAt + queueLimit q.spec)
      if m.id ≠ id || !open_ then m else
      match m.next with
      | none => if answer then { m with retry := m.retry + 1, next := some (s.time.now + min (10000 * 2 ^ m.retry) 1000000) } else m
      | some t => if !answer && t ≤ s.time.now then { m with next := none } else m) }

/-- SEND_QUEUE_TIMEOUT: the queue is in error, and the counter is not incremented, now or later: the command stays among the copies
of the launch, which does not complete by itself any more (R299, R342). -/
def State.sendTimeout (s : State) (id : Nat) : State :=
  match s.outMsgs.find? (fun m => m.id == id) with
  | none => s
  | some m => match s.queueOf m with
    | none => s
    | some q =>
      if s.time.now < m.sentAt + queueLimit q.spec then s else
      let s := { s with outMsgs := s.outMsgs.filter (fun x => x.id ≠ id) }
      let s := s.onLaunch m.launch (fun l => { l with queues := l.queues.map (fun x =>
        if x.spec.number == m.queue && x.spec.send then { x with error := true } else x) })
      s.trace 7 5 4 none none (((s.findLaunch m.launch).getD .absent).ctx) (netArg m.queue m.port) q.spec.peer

/-- SEND_ACKNOWLEDGEMENT: every packet is acknowledged; under ROD in send order (R341), and not while the message waits to go out again
(R342). -/
def State.acknowledge (s : State) (id : Nat) : State :=
  match s.outMsgs.find? (fun m => m.id == id) with
  | none => s
  | some m =>
    let ordered := ((s.queueOf m).map (·.spec.ordered)).getD false
    if m.next.isSome || ordered && s.outMsgs.any (fun x => x.launch == m.launch && x.queue == m.queue && x.id < id) then s else
    let s := { s with outMsgs := s.outMsgs.filter (fun x => x.id ≠ id) }
    match s.copies.find? (fun c => c.id == m.copy) with
    | none => s
    | some c => s.copyDone c

/-- UNSUPPORTED_PACKET_DROP (R340): the packet is dropped with a record; an operation that is not supported is answered so. -/
def State.dropPacket (s : State) (port queue : Nat) (peer : DWord) (answer : Bool) : State :=
  (if answer then s.reply .unsupported port queue else s).trace 7 6 4 none none 0 (netArg queue port) peer

/-! ### The time base (R344 to R346) -/

/-- PTP_EVENT_MESSAGE at a port that is present: the timestamp, within 8 ns of the time base; and on the PTP port, in the domain that firmware
has set, the rate correction, within 500 ppm. -/
def State.ptpMessage (s : State) (port domain : Nat) (stamp : DWord) (ppm : Int) : State :=
  if 12 ≤ port || !s.cap.ports.getLsbD port || stamp.toNat + 8 < s.time.now || s.time.now + 8 < stamp.toNat then s else
  let t := { s.time with stamps := mapSet 0 s.time.stamps port stamp }
  let t := if t.port = some port && domain = t.domain && -500 ≤ ppm && ppm ≤ 500 then { t with ppm := ppm, lost := none } else t
  { s with time := t }.trace 7 3 4 none none 0 (.ofNat 64 port) stamp

/-- PTP_MASTER_LOSS: firmware moves to another port; the count runs on at its last rate. The lowest healthy port is taken (log
entry 29). -/
def State.ptpLoss (s : State) (port : Nat) : State :=
  if s.time.port ≠ some port then s else
  let other := (List.range 12).find? (fun p => p ≠ port && s.cap.ports.getLsbD p)
  { s with time := { s.time with port := other.orElse (fun _ => some port), lost := some s.time.now } }

/-! ### Application cores (R366) -/

/-- What an 8-byte load from an offset of an address space's launch-port page returns: the submissions it has accepted (R287), and 0
from the offsets that are stored to (R289). -/
def State.portLoad (s : State) (ctx : BitVec 16) (o : Nat) : State :=
  if o = 8 then { s with hubLoad := .ofNat 64 (mapGet 0 s.accepted ctx.toNat) }
  else if o = 0 || o = 16 then { s with hubLoad := 0 } else s

/-- The newest writes of some words carry releases (R208), which stand behind the write itself. -/
def State.carry (s : State) (ws : List Nat) (own : List Rel) : State :=
  { s with hist := ws.foldl (fun m w =>
      let h := mapGet .none m w
      mapSet .none m w { h with vers := h.vers.map (fun v => if v.id == h.made then
        { v with rels := v.rels ++ own.map (fun r => { r with know := r.know.raise w v.id }) } else v) }) s.hist }

/-- A plain store, or an atomic of 4 or 8 bytes, of an application core, or its load from a launch port; the word it reads stands in
hubLoad. -/
def State.appAccess (s : State) (a : AppAccess) : State :=
  if s.phase < 9 || appCores ≤ a.core then s else
  match a.portAt with
  | some o => s.portLoad a.ctx o
  | none =>
  let n := a.bytes.length
  match (if a.atomic.isSome || n = 0 then s.translate a.ctx a.va.toNat else s.writableAt a.ctx a.va.toNat) with
  | none => s
  | some pa =>
    let u := if a.release then s.appRelease a.core else s
    let own : List Rel := if a.release then [{ know := u.appKnows a.core, scope := 6, party := .outside }] else []
    match a.atomic with
    | none =>
      let ws := (List.range ((pa % 4 + n + 3) / 4)).map (fun i => pa / 4 + i)
      let s := (u.putBytes pa a.bytes).carry (if n = 0 then [] else ws) own
      s.setAppKnow a.core (s.knowWords (s.appKnows a.core) ws)
    | some op =>
      if !(n = 4 || n = 8) || pa % n ≠ 0 || (s.writableAt a.ctx a.va.toNat).isNone then s else
      let x : DWord := .ofNat 64 (bytesNat a.bytes)
      let f := fun (old : DWord) =>
        let y := x
        let new := a.expect
        if n = 8 then (if op = .cas then (if old = new then y else old) else atomApply op 64 old y y)
        else if op = .cas then (if (old.setWidth 32 : Word) = new.setWidth 32 then y else old)
        else ((atomApply op 32 (old.setWidth 32) (y.setWidth 32) (y.setWidth 32)).setWidth 64 : DWord)
      let (old, rels, s) := u.rmw pa (n == 8) f none .outside (u.appKnows a.core) own
      let ws := if n = 8 then [pa / 4, pa / 4 + 1] else [pa / 4]
      let s := ({ s with hubLoad := old } : State).setAppKnow a.core (s.knowWords (s.appKnows a.core) ws)
      if a.acquire then s.setAppKnow a.core (Know.join (s.appKnows a.core) (scopeTest rels 6 .outside).1) else s

/-! ### A fetch that cannot execute (R13, R30, R39, R319) -/

/-- The current group's fetch traps: an encoding that is not legal, after the checks of its hints (R30); an address outside the
code; a poisoned word. -/
def State.badFetch (s : State) (why : FetchFault) : State :=
  let g := s.cur
  match why with
  | .word w =>
    s.raise causeIllegal 0 ((g.run.bad.getD w).setWidth 64) g.runFirst g.runFirst g.runFirst
  | .bounds pc => s.raise causeBounds 0 pc pc pc pc
  | .poisoned pa => s.raise causePoison 0 (.ofNat 64 pa) g.runFirst g.runFirst g.runFirst

end Sys2Proof.Machine
end

