-- ==== Sys2Proof/Machine/Events.lean ====
section
/-!
DEFINITION. Machine/Events.lean: the events of the device, one meaning for each: an event whose conditions do not hold leaves
the machine as it is.
-/

namespace Sys2Proof.Machine

/-- LOAD_RESULT_LANDING (R26). A long-latency instruction's result lands in its thread's registers, completing it and possibly raising its fault. -/
def execLoadResultLanding (g : GKey) (k : Nat) (s : State) : Out := .next (s.landResult g k)

/-- PAGE_TABLE_WALK (R174). The cluster walker serves a TLB miss in arrival order and fills a leaf under the lease. -/
def execPageTableWalk (core : Nat) (va : DWord) (s : State) : Out := .next (s.walk core va)

/-- NOPRE_WINDOW_EXPIRY (R83). A NOPRE window closes 65,536 core cycles after the NOPRE. -/
def execNopreWindowExpiry (g : GKey) (s : State) : Out := .next (s.nopreEnd g)

/-- DOZE_WAKE (R20). The time base reaches a doze's instant and the group continues. -/
def execDozeWake (g : GKey) (s : State) : Out := .next (s.dozeEnd g)

/-- TAG_STEP_PERFORMED (R184). A waiting lane's tagged step is performed once the tag reaches the needed state. -/
def execTagStepPerformed (g : GKey) (k : Nat) (s : State) : Out := .next (s.performStep g k)

/-- ATOMIC_SERVICE_REQUEST (R190). The owner cluster's service group performs an arriving ATOM or RED indivisibly on its location. -/
def execAtomicServiceRequest (k : Nat) (s : State) : Out := .next (s.serviceAtom k)

/-- COPY_COMPLETION (R229). The copy engine has written every word and performs the counter increment. -/
def execCopyCompletion (id : Nat) (s : State) : Out := .next (s.copyEnd id)

/-- COUNTER_WAIT_SATISFIED (R232). A counter wait becomes satisfied, acquires and continues. -/
def execCounterWaitSatisfied (g : GKey) (s : State) : Out := .next (s.counterEnd g)

/-- MATRIX_COMMAND_ENTRY (R234). A jointly issued matrix command enters the engine once capacity and a frame allow. -/
def execMatrixCommandEntry (wg quad : Nat) (s : State) : Out := .next (s.jointReady wg quad)

/-- MATRIX_COMMAND_COMPLETION (R237). The engine completes a command and starts the next in entry order. -/
def execMatrixCommandCompletion (core : Nat) (s : State) : Out := .next (s.serveCommand core)

/-- CHANNEL_ENTRY_ARRIVAL (R244). Entries in transit arrive at an inbound channel in send order. -/
def execChannelEntryArrival (launch k : Nat) (s : State) : Out := .next (s.chanArrive launch k)

/-- TOY_BOX_EXTENSION (R245). A send that has waited 4,096 cycles on a full channel extends it into its toy box. -/
def execToyBoxExtension (launch k : Nat) (s : State) : Out := .next (s.toyExtend launch k)

/-- WAIT_FOR_CHECKER_REPORT (R247). The checker reports a closed set of waiting groups, which trap WAITCYCLE or CLAIM_DEADLOCK. -/
def execWaitForCheckerReport (s : State) : Out := .next (s.checker)

/-- SPAN_ENERGY_GRANT (R116). The puppeteer grants the energy for a span target, accepting the move. -/
def execSpanEnergyGrant (core : Nat) (s : State) : Out := .next (s.spanGrant core)

/-- SPAN_ENERGY_TIMEOUT (R116). No energy grant within 50 µs refuses every parked group with ENERGY. -/
def execSpanEnergyTimeout (core : Nat) (s : State) : Out := .next (s.spanTimeout core)

/-- SPAN_MOVE_RESUME (R117). After drain, slew and regrouping the groups resume after SPAN with c7 = 1. -/
def execSpanMoveResume (core : Nat) (s : State) : Out := .next (s.spanResume core)

/-- STEP_END_ARRIVAL (R338). A core's end of step reaches a core that names it, releasing waiting step reads. -/
def execStepEndArrival (launch src dst : Nat) (s : State) : Out := .next (s.stepNews launch src dst)

/-- STEP_BEGIN (R252). A core begins its next step once its own and its neighbours' conditions hold. -/
def execStepBegin (launch core : Nat) (s : State) : Out := .next (s.stepBegin core launch)

/-- RETS_HANDOVER (R258). After waits for commands and copies, the workgroup is scrubbed and the successor starts. -/
def execRetsHandover (wg : Nat) (s : State) : Out := .next (s.handover wg)

/-- WORKGROUP_RETIREMENT (R233). A retiring workgroup waits for copies into its allocation, scrubs and returns its resources. -/
def execWorkgroupRetirement (wg : Nat) (s : State) : Out := .next ((s.retireWg wg).beginTests)

/-- LAUNCH_PORT_SUBMIT (R287). An 8-byte store of a packet address to the launch port submits and checks the packet. -/
def execLaunchPortSubmit (port : LaunchPort) (value : DWord) (s : State) : Out := .next (s.portSubmit port.core port.ctx value)

/-- LAUNCH_PORT_KILL (R287). A supervisor store of a packet address to offset 0x10 ends that launch with KILLED. -/
def execLaunchPortKill (ctx : BitVec 16) (value : DWord) (supervisor : Bool) (s : State) : Out := .next (s.portKill ctx value supervisor)

/-- HOME_QUERY (R180). The hub answers a page home query with the home word. -/
def execHomeQuery (ctx : BitVec 16) (va : DWord) (s : State) : Out := .next (s.queryHome ctx va.toNat)

/-- WORKGROUP_PLACEMENT (R295). A die's dispatcher places the head launch's next workgroup when room and energy allow. -/
def execWorkgroupPlacement (die : Nat) (s : State) : Out := .next (s.placement die)

/-- PREEMPTION_REQUEST (R298). After the head waits 10 ms the dispatcher requests the save of chosen victims. -/
def execPreemptionRequest (die : Nat) (s : State) : Out := .next (s.preempt die)

/-- PREEMPT_OVERDUE (R298). The grace time expires with a victim unsaved: trace record and possible end of its launch. -/
def execPreemptOverdue (wg : Nat) (s : State) : Out := .next (s.overdue wg)

/-- WORKGROUP_SAVE (R312). With every group parked the core drains commands and copies and writes the save area. -/
def execWorkgroupSave (wg : Nat) (s : State) : Out := .next (s.saveWg wg)

/-- PARKED_GROUPS_UNPARK (R313). When the unparked groups wait only on parked groups, every parked group resumes. -/
def execParkedGroupsUnpark (wg : Nat) (s : State) : Out := .next (s.unparkWg wg)

/-- WORKGROUP_RESTORE (R315). A saved workgroup is rebuilt from its save area on an eligible core and resumes. -/
def execWorkgroupRestore (wg core : Nat) (s : State) : Out := .next (s.restoreWg wg core)

/-- LAUNCH_COMPLETION (R299). After the last retirement and increments the lease ends, STATUS is written and the counter incremented. -/
def execLaunchCompletion (launch : Nat) (s : State) : Out := .next ((s.launchDone launch).beginTests)

/-- LAUNCH_END_COMPLETION (R299). Once its engine commands finish the ended launch scrubs, ends its lease, writes STATUS 5 and increments. -/
def execLaunchEndCompletion (launch : Nat) (s : State) : Out := .next ((s.launchEnded launch).beginTests)

/-- STORAGE_ERROR (R318). A detected storage error is corrected, refetched or turned into poison. -/
def execStorageError (e : StorageError) (s : State) : Out := .next (s.storage e)

/-- FLOOR_FREEZE_LIFT (R325). 24 h after a first crossing with no second, adaptation resumes. -/
def execFloorFreezeLift (core : Nat) (s : State) : Out := .next (s.liftFreeze core)

/-- DROOP_REGULATION (R359). Every 10 ns a core regulator follows the minimum of its droop sensors. -/
def execDroopRegulation (core : Nat) (readings : List Nat) (s : State) : Out := .next (s.regulate core readings)

/-- SUPPLY_PATH_TEST (R360). Every 10 ms the bump-field drop is tested and a second excess withdraws a point. -/
def execSupplyPathTest (cluster : Nat) (r : SupplyReading) (s : State) : Out := .next (s.supplyTest cluster r)

/-- THERMAL_HEADROOM_REPORT (R297). A die near its thermal limit makes the dispatcher start movable launches at the lowest-power point. -/
def execThermalHeadroomReport (die : Nat) (sensors : List Int) (s : State) : Out := .next (s.headroom die sensors)

/-- IN_FIELD_TEST_DUE (R326). A test falling due on a cluster stops placement and parks every resident workgroup. -/
def execInFieldTestDue (cluster : Nat) (s : State) : Out := .next (s.testDue cluster)

/-- IN_FIELD_TEST_DEADLINE (R326). After 2 ms with groups unparked the attempt is missed and retried after 100 ms. -/
def execInFieldTestDeadline (cluster : Nat) (s : State) : Out := .next (s.testDeadline cluster)

/-- INPUT_VOLTAGE_FAULT (R357). The 48 V input outside 40–60 V for 1 ms ends every launch and powers the dies down. -/
def execInputVoltageFault (s : State) : Out := .next (s.inputFault)

/-- BRING_UP (R364). On power the module comes up in nine ordered steps. -/
def execBringUp (fw : Firmware) (s : State) : Out := .next (s.bringUp fw)

/-- ATTESTATION_REPORT (R363). On request the management core signs an attestation report. -/
def execAttestationReport (r : ReportRequest) (s : State) : Out := .next (s.attest r.nonce r.supervisor)

/-- LINK_FLIT_REPLAY (R334). A die-to-die flit failing its CRC is replayed, or the link retrains. -/
def execLinkFlitReplay (link : Nat) (s : State) : Out := .next (s.replayFlit link)

/-- LINK_RETRAIN (R334). A link retrains within 50 µs or is mapped out and routed through the hub. -/
def execLinkRetrain (link : Nat) (ok : Bool) (s : State) : Out := .next ((s.retrainLink link ok).beginTests)

/-- NETWORK_MESSAGE_RECEIVE (R282). An arriving message matches a posted entry, writes the buffer and increments the counter. -/
def execNetworkMessageReceive (m : Message) (s : State) : Out := .next (s.receive m)

/-- NO_BUFFER_RETRANSMIT (R342). After a no-buffer response the sender retransmits with a doubling interval. -/
def execNoBufferRetransmit (r : SendRetry) (s : State) : Out := .next (s.retransmit r.msg r.answer)

/-- SEND_QUEUE_TIMEOUT (R342). At the queue's timeout the send queue enters an error state without incrementing. -/
def execSendQueueTimeout (msg : Nat) (s : State) : Out := .next (s.sendTimeout msg)

/-- SEND_ACKNOWLEDGEMENT (R341). Acknowledgement of a message's last packet performs the sender's counter increment. -/
def execSendAcknowledgement (msg : Nat) (s : State) : Out := .next (s.acknowledge msg)

/-- TRIMMED_PACKET_RECEIVE (R340). A received trimmed packet requests retransmission and writes no data. The request for a retransmission goes out; no data of the packet is written. -/
def execTrimmedPacketReceive (port queue : Nat) (s : State) : Out := .next (s.reply .retransmit port queue)

/-- UNSUPPORTED_PACKET_DROP (R340). A packet using an unsupported feature is answered or dropped with a trace record. -/
def execUnsupportedPacketDrop (port queue : Nat) (peer : DWord) (answer : Bool) (s : State) : Out := .next (s.dropPacket port queue peer answer)

/-- PTP_EVENT_MESSAGE (R346). A PTP event message is timestamped and disciplines the time base. -/
def execPtpEventMessage (src : PtpSource) (stamp : DWord) (ppm : Int) (s : State) : Out := .next (s.ptpMessage src.port src.domain stamp ppm)

/-- PTP_MASTER_LOSS (R345). Loss of the PTP master moves firmware to another port within 1 s. -/
def execPtpMasterLoss (port : Nat) (s : State) : Out := .next (s.ptpLoss port)

/-- ILLEGAL_WORD_FETCH (R39). A word fetched for issue that cannot execute traps ILLEGAL or CODE_BOUNDS: it has major 0x3E or 0x3F or an ILLEGAL minor, it is an E opcode of another stepping, or its address lies outside the code extent. -/
def execIllegalWordFetch (why : FetchFault) (s : State) : Out :=
  if s.cur.live then .next (s.badFetch why) else .fault .noGroup

/-- IN_FIELD_TEST_END (R326). An in-field test of a cluster finishes; the atomic service returns to the cluster and the dispatcher places workgroups there again. -/
def execInFieldTestEnd (cluster : Nat) (s : State) : Out := .next (s.testEnd cluster)

/-- APPLICATION_CORE_ACCESS (R366). An application core performs a plain store or an atomic to global memory, which may be a release at .sys, for example raising a gate. -/
def execApplicationCoreAccess (a : AppAccess) (s : State) : Out := .next (s.appAccess a)

/-- NETWORK_QUEUE_OPEN (R339). The operating system opens a send or receive queue for a launch through the hub, or reopens a send queue that is in the error state. -/
def execNetworkQueueOpen (q : QueueSpec) (s : State) : Out := .next (s.openQueue q)

/-- CODE_OBJECT_LOAD (R352). The loader checks a code object and, if it passes, records it as accepted for one address space. -/
def execCodeObjectLoad (ctx : BitVec 16) (header : Nat) (s : State) : Out := .next (s.loadObject ctx header)

end Sys2Proof.Machine
end

