-- ==== Sys2Proof/Machine/FloatOps.lean ====
section
/-!
DEFINITION. Machine/FloatOps.lean: floating-point, packed, conversion, quantisation and scaling words (R129 to R140).
-/

namespace Sys2Proof.Machine

/-- A binary operation of a format on 32-bit registers and on pairs, rounded in the mode of RM, under SAT (R132). -/
def fOp2 (w : Nat) (f : FFmt) (r : Run) (op : FFmt → Rm → Nat → Nat → Nat × DWord) (x y : BitVec w) : BitVec w × DWord :=
  let z := f.sat r.sat (op f (rmOf .rne r.rm) x.toNat y.toNat)
  (.ofNat w z.1, z.2)

def fOp3 (w : Nat) (f : FFmt) (r : Run) (x y z : BitVec w) : BitVec w × DWord :=
  let q := f.sat r.sat (fFma f (rmOf .rne r.rm) x.toNat y.toNat z.toNat)
  (.ofNat w q.1, q.2)

/-- A unary operation, under SAT; and a function of R103. -/
def fOp1 (w : Nat) (f : FFmt) (r : Run) (op : Nat → Nat × DWord) (x : BitVec w) : BitVec w × DWord :=
  let z := f.sat r.sat (op x.toNat)
  (.ofNat w z.1, z.2)

def fFn (w : Nat) (f : FFmt) (r : Run) (op : Nat → Nat × DWord) (x : BitVec w) : BitVec w × DWord :=
  let z := f.satListed r.sat (op x.toNat)
  (.ofNat w z.1, z.2)

/-- FMIN and FMAX never round (R93). -/
def fMM (w : Nat) (f : FFmt) (r : Run) (isMax : Bool) (x y : BitVec w) : BitVec w × DWord :=
  let z := fMinMax f isMax r.mn x.toNat y.toNat
  (.ofNat w z.1, z.2)

/-- FADD (R132). -/
def execFadd (ctl : Ctl) (d a b : BitVec 6) (s : State) : Out :=
  issue (laneForm (.fadd ctl d a b) b.toNat (mRM + mSAT + mBU) false) ctl.sp s
    (flagged2 ctl d.toNat a.toNat b.toNat (fOp2 32 f32 s.cur.run fAdd))

/-- FSUB (R132). -/
def execFsub (ctl : Ctl) (d a b : BitVec 6) (s : State) : Out :=
  issue (laneForm (.fsub ctl d a b) b.toNat (mRM + mSAT + mBU) false) ctl.sp s
    (flagged2 ctl d.toNat a.toNat b.toNat (fOp2 32 f32 s.cur.run fSub))

/-- FMUL (R132). -/
def execFmul (ctl : Ctl) (d a b : BitVec 6) (s : State) : Out :=
  issue (laneForm (.fmul ctl d a b) b.toNat (mRM + mSAT + mBU) false) ctl.sp s
    (flagged2 ctl d.toNat a.toNat b.toNat (fOp2 32 f32 s.cur.run fMul))

/-- FDIV (R132). -/
def execFdiv (ctl : Ctl) (d a b : BitVec 6) (s : State) : Out :=
  issue (laneForm (.fdiv ctl d a b) b.toNat (mRM + mSAT + mBU) false) ctl.sp s
    (flagged2 ctl d.toNat a.toNat b.toNat (fOp2 32 f32 s.cur.run fDiv))

/-- FFMA (R132). -/
def execFfma (ctl : Ctl) (d a b : BitVec 6) (s : State) : Out :=
  issue (laneForm (.ffma ctl d a b) b.toNat (mRM + mSAT + mADD + mBU) false) ctl.sp s
    (flagged3 ctl d.toNat a.toNat b.toNat (fOp3 32 f32 s.cur.run))

/-- FMIN (R93, R132). -/
def execFmin (ctl : Ctl) (d a b : BitVec 6) (s : State) : Out :=
  issue (laneForm (.fmin ctl d a b) b.toNat (mMN + mBU) false) ctl.sp s
    (flagged2 ctl d.toNat a.toNat b.toNat (fMM 32 f32 s.cur.run false))

/-- FMAX (R93, R132). -/
def execFmax (ctl : Ctl) (d a b : BitVec 6) (s : State) : Out :=
  issue (laneForm (.fmax ctl d a b) b.toNat (mMN + mBU) false) ctl.sp s
    (flagged2 ctl d.toNat a.toNat b.toNat (fMM 32 f32 s.cur.run true))

/-- FSQRT (R132). -/
def execFsqrt (ctl : Ctl) (d a : BitVec 6) (s : State) : Out :=
  issue (laneNoImm (.fsqrt ctl d a) (mRM + mSAT) false) ctl.sp s
    (flagged1 ctl d.toNat a.toNat (fOp1 32 f32 s.cur.run (fSqrt f32 (rmOf .rne s.cur.run.rm))))

/-- FRND (R134). -/
def execFrnd (ctl : Ctl) (d a : BitVec 6) (s : State) : Out :=
  issue (laneNoImm (.frnd ctl d a) (mRM) false) ctl.sp s
    (flagged1 ctl d.toNat a.toNat (fOp1 32 f32 s.cur.run (fRound f32 (rmOf .rne s.cur.run.rm))))

/-- FRCP (R103, R133). -/
def execFrcp (ctl : Ctl) (d a : BitVec 6) (s : State) : Out :=
  issue (laneNoImm (.frcp ctl d a) (mSAT) false) ctl.sp s
    (flagged1 ctl d.toNat a.toNat (fFn 32 f32 s.cur.run (fRcp f32 fnRcp)))

/-- FRSQ (R103, R133). -/
def execFrsq (ctl : Ctl) (d a : BitVec 6) (s : State) : Out :=
  issue (laneNoImm (.frsq ctl d a) (mSAT) false) ctl.sp s
    (flagged1 ctl d.toNat a.toNat (fFn 32 f32 s.cur.run (fRsq f32 fnRsq)))

/-- FEXP2 (R103, R133). -/
def execFexp2 (ctl : Ctl) (d a : BitVec 6) (s : State) : Out :=
  issue (laneNoImm (.fexp2 ctl d a) (mSAT) false) ctl.sp s
    (flagged1 ctl d.toNat a.toNat (fFn 32 f32 s.cur.run (fExp2)))

/-- FLOG2 (R103, R133). -/
def execFlog2 (ctl : Ctl) (d a : BitVec 6) (s : State) : Out :=
  issue (laneNoImm (.flog2 ctl d a) (mSAT) false) ctl.sp s
    (flagged1 ctl d.toNat a.toNat (fFn 32 f32 s.cur.run (fLog2)))

/-- FSIN (R103, R133). -/
def execFsin (ctl : Ctl) (d a : BitVec 6) (s : State) : Out :=
  issue (laneNoImm (.fsin ctl d a) (mSAT) false) ctl.sp s
    (flagged1 ctl d.toNat a.toNat (fFn 32 f32 s.cur.run (fSinCos false)))

/-- FCOS (R103, R133). -/
def execFcos (ctl : Ctl) (d a : BitVec 6) (s : State) : Out :=
  issue (laneNoImm (.fcos ctl d a) (mSAT) false) ctl.sp s
    (flagged1 ctl d.toNat a.toNat (fFn 32 f32 s.cur.run (fSinCos true)))

/-- FADD_F64 (R132). -/
def execFaddF64 (ctl : Ctl) (d a b : BitVec 6) (s : State) : Out :=
  issue (laneForm (.faddF64 ctl d a b) b.toNat (mRM + mSAT + mBU) false) ctl.sp s
    (flaggedP2 ctl d.toNat a.toNat b.toNat (fOp2 64 f64 s.cur.run fAdd))

/-- FSUB_F64 (R132). -/
def execFsubF64 (ctl : Ctl) (d a b : BitVec 6) (s : State) : Out :=
  issue (laneForm (.fsubF64 ctl d a b) b.toNat (mRM + mSAT + mBU) false) ctl.sp s
    (flaggedP2 ctl d.toNat a.toNat b.toNat (fOp2 64 f64 s.cur.run fSub))

/-- FMUL_F64 (R132). -/
def execFmulF64 (ctl : Ctl) (d a b : BitVec 6) (s : State) : Out :=
  issue (laneForm (.fmulF64 ctl d a b) b.toNat (mRM + mSAT + mBU) false) ctl.sp s
    (flaggedP2 ctl d.toNat a.toNat b.toNat (fOp2 64 f64 s.cur.run fMul))

/-- FDIV_F64 (R132). -/
def execFdivF64 (ctl : Ctl) (d a b : BitVec 6) (s : State) : Out :=
  issue (laneForm (.fdivF64 ctl d a b) b.toNat (mRM + mSAT + mBU) false) ctl.sp s
    (flaggedP2 ctl d.toNat a.toNat b.toNat (fOp2 64 f64 s.cur.run fDiv))

/-- FFMA_F64 (R132). -/
def execFfmaF64 (ctl : Ctl) (d a b : BitVec 6) (s : State) : Out :=
  issue (laneForm (.ffmaF64 ctl d a b) b.toNat (mRM + mSAT + mADD + mBU) false) ctl.sp s
    (flaggedP3 ctl d.toNat a.toNat b.toNat (fOp3 64 f64 s.cur.run))

/-- FMIN_F64 (R93, R132). -/
def execFminF64 (ctl : Ctl) (d a b : BitVec 6) (s : State) : Out :=
  issue (laneForm (.fminF64 ctl d a b) b.toNat (mMN + mBU) false) ctl.sp s
    (flaggedP2 ctl d.toNat a.toNat b.toNat (fMM 64 f64 s.cur.run false))

/-- FMAX_F64 (R93, R132). -/
def execFmaxF64 (ctl : Ctl) (d a b : BitVec 6) (s : State) : Out :=
  issue (laneForm (.fmaxF64 ctl d a b) b.toNat (mMN + mBU) false) ctl.sp s
    (flaggedP2 ctl d.toNat a.toNat b.toNat (fMM 64 f64 s.cur.run true))

/-- FSQRT_F64 (R132). -/
def execFsqrtF64 (ctl : Ctl) (d a : BitVec 6) (s : State) : Out :=
  issue (laneNoImm (.fsqrtF64 ctl d a) (mRM + mSAT) false) ctl.sp s
    (flaggedP1 ctl d.toNat a.toNat (fOp1 64 f64 s.cur.run (fSqrt f64 (rmOf .rne s.cur.run.rm))))

/-- FRND_F64 (R134). -/
def execFrndF64 (ctl : Ctl) (d a : BitVec 6) (s : State) : Out :=
  issue (laneNoImm (.frndF64 ctl d a) (mRM) false) ctl.sp s
    (flaggedP1 ctl d.toNat a.toNat (fOp1 64 f64 s.cur.run (fRound f64 (rmOf .rne s.cur.run.rm))))

/-- FRCP_F64 (R103, R133). -/
def execFrcpF64 (ctl : Ctl) (d a : BitVec 6) (s : State) : Out :=
  issue (laneNoImm (.frcpF64 ctl d a) (mSAT) false) ctl.sp s
    (flaggedP1 ctl d.toNat a.toNat (fFn 64 f64 s.cur.run (fRcp f64 fnRcp64)))

/-- FRSQ_F64 (R103, R133). -/
def execFrsqF64 (ctl : Ctl) (d a : BitVec 6) (s : State) : Out :=
  issue (laneNoImm (.frsqF64 ctl d a) (mSAT) false) ctl.sp s
    (flaggedP1 ctl d.toNat a.toNat (fFn 64 f64 s.cur.run (fRsq f64 fnRsq64)))

/-- FCLASS (R135). -/
def execFclass (ctl : Ctl) (d a : BitVec 6) (s : State) : Out :=
  issue (laneNoImm (.fclass ctl d a) 0 false) ctl.sp s
    (lane1 ctl d.toNat a.toNat (fun x => .ofNat 32 (fClass f32 x.toNat)))

/-- FCLASS_F64 (R135): the mask goes to the single register. -/
def execFclassF64 (ctl : Ctl) (d a : BitVec 6) (s : State) : Out :=
  issue (laneNoImm (.fclassF64 ctl d a) 0 false) ctl.sp s
    (fun s => laneBody (s.cur.on ctl) [(d.toNat, 1)] [(a.toNat, 2)] (fun s t =>
      .next (t.setCur (t.cur.putLanes (s.cur.on ctl) d.toNat
        (fun j => .ofNat 32 (fClass f64 (s.src64 j a.toNat).toNat))))) s)

/-- FCMP (R136). -/
def execFcmp (ctl : Ctl) (c : BitVec 3) (w : BitVec 1) (q : BitVec 3) (a b : BitVec 6) (s : State) : Out :=
  issue (laneForm (.fcmp ctl c w q a b) b.toNat mBU false) ctl.sp s
    (fun s =>
      let n := if w == 1 then 2 else 1
      laneBody (s.cur.on ctl) [] ((a.toNat, n) :: s.bSrc b.toNat n) (fun s t =>
        let r := fun j => if w == 1 then fCompare f64 c.toNat (s.src64 j a.toNat).toNat (s.bPair j b.toNat).toNat
          else fCompare f32 c.toNat (s.src j a.toNat).toNat (s.bLane j b.toNat).toNat
        .next (t.setCur ((t.cur.putPreds (s.cur.on ctl) q.toNat (fun j => (r j).1)).flag
          (flagsOf ((s.cur.on ctl).map (fun j => (r j).2)))))) s)

/-- The two halves of a packed operation (R137). -/
def packed2 (f : FFmt) (r : Run) (op : FFmt → Rm → Nat → Nat → Nat × DWord) (x y : Word) : Word × DWord :=
  let lo := fOp2 16 f r op (x.setWidth 16) (y.setWidth 16)
  let hi := fOp2 16 f r op ((x >>> 16).setWidth 16) ((y >>> 16).setWidth 16)
  (hi.1 ++ lo.1, lo.2 ||| hi.2)

def packed3 (f : FFmt) (r : Run) (x y z : Word) : Word × DWord :=
  let lo := fOp3 16 f r (x.setWidth 16) (y.setWidth 16) (z.setWidth 16)
  let hi := fOp3 16 f r ((x >>> 16).setWidth 16) ((y >>> 16).setWidth 16) ((z >>> 16).setWidth 16)
  (hi.1 ++ lo.1, lo.2 ||| hi.2)

/-- PKADD_F16 (R137). -/
def execPkaddF16 (ctl : Ctl) (d a b : BitVec 6) (s : State) : Out :=
  issue (laneForm (.pkaddF16 ctl d a b) b.toNat (mRM + mSAT + mBU) false) ctl.sp s
    (flagged2 ctl d.toNat a.toNat b.toNat (packed2 f16 s.cur.run fAdd))

/-- PKMUL_F16 (R137). -/
def execPkmulF16 (ctl : Ctl) (d a b : BitVec 6) (s : State) : Out :=
  issue (laneForm (.pkmulF16 ctl d a b) b.toNat (mRM + mSAT + mBU) false) ctl.sp s
    (flagged2 ctl d.toNat a.toNat b.toNat (packed2 f16 s.cur.run fMul))

/-- PKFMA_F16 (R137). -/
def execPkfmaF16 (ctl : Ctl) (d a b : BitVec 6) (s : State) : Out :=
  issue (laneForm (.pkfmaF16 ctl d a b) b.toNat (mRM + mSAT + mADD + mBU) false) ctl.sp s
    (flagged3 ctl d.toNat a.toNat b.toNat (packed3 f16 s.cur.run))

/-- PKADD_BF16 (R137). -/
def execPkaddBf16 (ctl : Ctl) (d a b : BitVec 6) (s : State) : Out :=
  issue (laneForm (.pkaddBf16 ctl d a b) b.toNat (mRM + mSAT + mBU) false) ctl.sp s
    (flagged2 ctl d.toNat a.toNat b.toNat (packed2 bf16 s.cur.run fAdd))

/-- PKMUL_BF16 (R137). -/
def execPkmulBf16 (ctl : Ctl) (d a b : BitVec 6) (s : State) : Out :=
  issue (laneForm (.pkmulBf16 ctl d a b) b.toNat (mRM + mSAT + mBU) false) ctl.sp s
    (flagged2 ctl d.toNat a.toNat b.toNat (packed2 bf16 s.cur.run fMul))

/-- PKFMA_BF16 (R137). -/
def execPkfmaBf16 (ctl : Ctl) (d a b : BitVec 6) (s : State) : Out :=
  issue (laneForm (.pkfmaBf16 ctl d a b) b.toNat (mRM + mSAT + mADD + mBU) false) ctl.sp s
    (flagged3 ctl d.toNat a.toNat b.toNat (packed3 bf16 s.cur.run))

/-- The exact sum of four byte products and the addend (R138). -/
def idp4 (signed : Bool) (r : Run) (x y z : Word) : Word :=
  let b := fun (v : Word) (k : Nat) =>
    let e := v.toNat / 2 ^ (8 * k) % 256
    if signed && 128 ≤ e then (e : Int) - 256 else (e : Int)
  let e := (if signed then z.toInt else (z.toNat : Int)) + b x 0 * b y 0 + b x 1 * b y 1 + b x 2 * b y 2 + b x 3 * b y 3
  .ofInt 32 (if r.sat then (if signed then clampInt (-(2 ^ 31)) (2 ^ 31 - 1) e else clampInt 0 (2 ^ 32 - 1) e) else e)

/-- IDP4_S8 (R138). -/
def execIdp4S8 (ctl : Ctl) (d a b : BitVec 6) (s : State) : Out :=
  issue (laneForm (.idp4S8 ctl d a b) b.toNat (mSAT + mADD + mBU) false) ctl.sp s
    (lane3 ctl d.toNat a.toNat b.toNat (idp4 true s.cur.run))

/-- IDP4_N8 (R138). -/
def execIdp4N8 (ctl : Ctl) (d a b : BitVec 6) (s : State) : Out :=
  issue (laneForm (.idp4N8 ctl d a b) b.toNat (mSAT + mADD + mBU) false) ctl.sp s
    (lane3 ctl d.toNat a.toNat b.toNat (idp4 false s.cur.run))

/-! ### CVT (R139) -/

/-- The integer types by format code less 0x24: width and signedness. -/
def intType (k : Nat) : Nat × Bool := (8 * 2 ^ (k / 2), k % 2 == 0)

/-- The source value by the source format's number (R37): a floating-point value or an integer. -/
def cvtSource (c x : Nat) : FVal ⊕ Int :=
  if c = 0 then .inl (f32.decode (x % 2 ^ 32)) else if c = 1 then .inl (f64.decode x)
  else if c = 2 then .inl (f16.decode (x % 2 ^ 16)) else if c = 3 then .inl (bf16.decode (x % 2 ^ 16))
  else if c = 4 then .inr ((BitVec.ofNat 32 x).toInt) else if c = 5 then .inr ((x % 2 ^ 32 : Nat) : Int)
  else if c = 6 then .inr ((BitVec.ofNat 64 x).toInt) else .inr (x : Int)

/-- An integer as a value to round. -/
def intVal (i : Int) : FVal := .fin (decide (i < 0)) i.natAbs 0

/-- The result, as a non-negative number of up to 64 bits, and the flags. -/
def cvtOp (r : Run) (tie : Bool) (c code x : Nat) : Nat × DWord :=
  let v := match cvtSource c x with
    | .inl v => v
    | .inr i => intVal i
  if code < 0x20 then (b8Of code).ofVal (rmOf .rne r.rm) r.sat tie v false
  else if code < 0x24 then
    let f := if code = 0x20 then f16 else if code = 0x21 then bf16 else if code = 0x22 then f32 else f64
    f.sat r.sat (f.ofVal (rmOf .rne r.rm) v false)
  else
    let (w, sg) := intType (code - 0x24)
    let ext := fun (i : Int) => (BitVec.ofInt (if w = 64 then 64 else 32)
      (if sg then (BitVec.ofInt w i).toInt else ((BitVec.ofInt w i).toNat : Int))).toNat
    match cvtSource c x with
    | .inl v => let (i, fl) := toIntVal (rmOf .rz r.rm) w sg v; (ext i, fl)
    | .inr i =>
      (ext (if r.sat then (if sg then clampInt (-(2 ^ (w - 1))) (2 ^ (w - 1) - 1) i else clampInt 0 (2 ^ w - 1) i)
        else i), 0)

/-- The tie of R91 in a precision of 1, by the bits of the source that CVT reads (R108, R139). -/
def cvtTie (c code x : Nat) : Bool :=
  Config.tie (64 * c + code) (.ofNat 64 (if c = 2 || c = 3 then x % 2 ^ 16 else x)) 0

def cvtWideSrc (c : Nat) : Bool := c == 1 || c == 6 || c == 7
def cvtWideDst (code : Nat) : Bool := code == 0x23 || code == 0x2A || code == 0x2B

/-- CVT (R98, R102, R139). -/
def execCvt (ctl : Ctl) (c : BitVec 3) (d a f : BitVec 6) (s : State) : Out :=
  issue (laneNoImm (.cvt ctl c d a f) (mRM + mSAT) false) ctl.sp s
    (fun s =>
      laneBody (s.cur.on ctl) [(d.toNat, if cvtWideDst f.toNat then 2 else 1)]
        [(a.toNat, if cvtWideSrc c.toNat then 2 else 1)] (fun s t =>
        let r := fun j =>
          let x := if cvtWideSrc c.toNat then s.src64 j a.toNat else (s.src j a.toNat).setWidth 64
          cvtOp s.cur.run (cvtTie c.toNat f.toNat x.toNat) c.toNat f.toNat x.toNat
        let on := s.cur.on ctl
        let g := if cvtWideDst f.toNat then t.cur.putPairs on d.toNat (fun j => .ofNat 64 (r j).1)
          else t.cur.putLanes on d.toNat (fun j => .ofNat 32 (r j).1)
        .next (t.setCur (g.flag (flagsOf (on.map (fun j => (r j).2)))))) s)

/-! ### QNT, DEQ, SCALE, SACC (R100, R101, R140) -/

/-- QNT: the code enters from the top; the tie of a precision of 1 depends on the bits it reads (R99, R108). -/
def qntOp (r : Run) (code : Nat) (x scale old : Word) : Word × DWord :=
  let tie := Config.tie (512 + code) (x.setWidth 64) (.ofNat 64 (s16Code (scale.toNat % 2 ^ 16)))
  let (q, st, dz) := qntQuot (f32.decode x.toNat) (s16Val (scale.toNat % 2 ^ 16))
  let (c, fl) := (b8Of code).ofVal (rmOf .rne r.rm) r.sat tie q st
  ((old >>> 8) ||| .ofNat 32 (c * 2 ^ 24), fl ||| dz)

/-- Decode8(c) × s, exact (R101, R140). -/
def deqVal (code : Nat) (x scale : Word) : FVal × Bool :=
  let (m, e) := s16Val (scale.toNat % 2 ^ 16)
  mulVal ((b8Of code).decode (x.toNat % 256)) (.fin false m e)

def deqOp (r : Run) (code : Nat) (x scale : Word) : Word × DWord :=
  let (v, bad) := deqVal code x scale
  let z := f32.sat r.sat (f32.ofVal (rmOf .rne r.rm) v false)
  (.ofNat 32 z.1, z.2 ||| (if bad then flagNV else 0))

def saccOp (r : Run) (code : Nat) (x scale old : Word) : Word × DWord :=
  let (v, bad) := deqVal code x scale
  let z := f32.sat r.sat (fAddVal f32 (rmOf .rne r.rm) (f32.decode old.toNat) v)
  (.ofNat 32 z.1, z.2 ||| (if bad then flagNV else 0))

/-- A word of major 0x26 that reads the pair a, a + 1 as two registers (R140). -/
def scaled (c : Ctl) (d a : Nat) (readsD : Bool) (f : Word → Word → Word → Word × DWord) (s : State) : Eff :=
  laneBody (s.cur.on c) [(d, 1)] ((a, 2) :: (if readsD then [(d, 1)] else [])) (fun s t =>
    let r := fun j => f (s.cur.vget j a) (s.cur.vget j (a + 1)) (s.cur.vget j d)
    .next (t.setCur ((t.cur.putLanes (s.cur.on c) d (fun j => (r j).1)).flag
      (flagsOf ((s.cur.on c).map (fun j => (r j).2)))))) s

/-- QNT (R98, R101, R140). -/
def execQnt (ctl : Ctl) (d a : BitVec 6) (f : BitVec 5) (s : State) : Out :=
  issue (laneNoImm (.qnt ctl d a f) (mRM + mSAT) false) ctl.sp s
    (scaled ctl d.toNat a.toNat true (qntOp s.cur.run f.toNat))

/-- DEQ (R101, R140). -/
def execDeq (ctl : Ctl) (d a : BitVec 6) (f : BitVec 5) (s : State) : Out :=
  issue (laneNoImm (.deq ctl d a f) (mRM + mSAT) false) ctl.sp s
    (scaled ctl d.toNat a.toNat false (fun x sc _ => deqOp s.cur.run f.toNat x sc))

/-- SCALE (R100, R140). -/
def execScale (ctl : Ctl) (d a : BitVec 6) (f : BitVec 5) (s : State) : Out :=
  issue (laneNoImm (.scale ctl d a f) 0 false) ctl.sp s
    (flagged1 ctl d.toNat a.toNat (fun x => let r := scaleOf (b8Of f.toNat) x.toNat; (.ofNat 32 r.1, r.2)))

/-- SACC (R36, R140): on a stepping other than B1 the word is illegal. -/
def execSacc (ctl : Ctl) (d a : BitVec 6) (f : BitVec 5) (s : State) : Out :=
  issue (let f0 := laneNoImm (.sacc ctl d a f) (mRM + mSAT) false
         { f0 with legal := f0.legal && s.cap.stepping == 0xB1 }) ctl.sp s
    (scaled ctl d.toNat a.toNat true (saccOp s.cur.run f.toNat))

end Sys2Proof.Machine
end

