-- ==== Sys2Proof/Machine/Logic.lean ====
section
/-!
DEFINITION. Machine/Logic.lean: comparison, selection, logic, shifts, bit fields, moves and predicates (R59 to R68).
-/

namespace Sys2Proof.Machine

/-- ICMP's conditions (R59). -/
def icmpOp {w : Nat} (fn : Nat) (x y : BitVec w) : Bool :=
  if fn = 0 then x == y else if fn = 1 then x != y
  else if fn = 2 then decide (x.toInt < y.toInt) else if fn = 3 then decide (x.toInt ≤ y.toInt)
  else if fn = 4 then decide (x.toNat < y.toNat) else if fn = 5 then decide (x.toNat ≤ y.toNat)
  else x &&& y != 0

/-- A shift or rotate count, or a field descriptor: the low 32 bits of b (R55). -/
def low32 {w : Nat} (y : BitVec w) : Nat := y.toNat % 2 ^ 32

def andOp {w : Nat} (x y : BitVec w) : BitVec w := x &&& y
def orOp {w : Nat} (x y : BitVec w) : BitVec w := x ||| y
def xorOp {w : Nat} (x y : BitVec w) : BitVec w := x ^^^ y
def andnOp {w : Nat} (x y : BitVec w) : BitVec w := x &&& ~~~y
def ornOp {w : Nat} (x y : BitVec w) : BitVec w := x ||| ~~~y

/-- Shifts (R61): a count of w or more leaves zeros, or copies of the sign. -/
def shlOp {w : Nat} (x y : BitVec w) : BitVec w := if w ≤ low32 y then 0 else x <<< low32 y
def shrlOp {w : Nat} (x y : BitVec w) : BitVec w := if w ≤ low32 y then 0 else x >>> low32 y
def shraOp {w : Nat} (x y : BitVec w) : BitVec w := x.sshiftRight (min (low32 y) (w - 1))

/-- Bit operations (R62). -/
def rotlOp {w : Nat} (x y : BitVec w) : BitVec w :=
  (x <<< (low32 y % w)) ||| (x >>> (w - low32 y % w))

/-- Leading zeros, counted from bit n - 1 down. -/
def leadZeros {w : Nat} (x : BitVec w) : Nat → Nat
  | 0 => 0
  | n + 1 => if x.getLsbD n then 0 else 1 + leadZeros x n

/-- Trailing zeros of the n bits from bit i up. -/
def trailZeros {w : Nat} (x : BitVec w) : Nat → Nat → Nat
  | 0, _ => 0
  | n + 1, i => if x.getLsbD i then 0 else 1 + trailZeros x n (i + 1)

def onesIn {w : Nat} (x : BitVec w) : Nat → Nat
  | 0 => 0
  | n + 1 => (if x.getLsbD n then 1 else 0) + onesIn x n

def clzOp {w : Nat} (x : BitVec w) : BitVec w := .ofNat w (leadZeros x w)
def ctzOp {w : Nat} (x : BitVec w) : BitVec w := .ofNat w (trailZeros x w 0)
def popcOp {w : Nat} (x : BitVec w) : BitVec w := .ofNat w (onesIn x w)
def brevOp {w : Nat} (x : BitVec w) : BitVec w := x.reverse

/-- BFX (R63): position in bits [7:0] of the descriptor, length in bits [15:8]. -/
def bfxOp {w : Nat} (signed : Bool) (x y : BitVec w) : BitVec w :=
  let pos := low32 y % 256
  let len := min (low32 y / 256 % 256) w
  if len = 0 || w ≤ pos then 0 else
  let f := x.toNat / 2 ^ pos % 2 ^ len
  if signed && 2 ^ (len - 1) ≤ f then .ofInt w ((f : Int) - 2 ^ len) else .ofNat w f

/-- BFI (R64). -/
def bfiOp {w : Nat} (x y base : BitVec w) : BitVec w :=
  let pos := low32 y % 256
  let len := low32 y / 256 % 256
  if len = 0 || w ≤ pos then base else
  let n := min (pos + len) w - pos
  let m : BitVec w := BitVec.ofNat w (2 ^ n - 1) <<< pos
  (base &&& ~~~m) ||| ((x <<< pos) &&& m)

/-- One byte of BSEL's result (R65). -/
def bselByte (sel : Nat) (pool : Nat) (i : Nat) : Nat :=
  let x := pool / 2 ^ (8 * (sel / 2 ^ (3 * i) % 8)) % 256
  let m := sel / 2 ^ (12 + 2 * i) % 4
  if m = 0 then x else if m = 1 then 0 else if m = 2 then (if 128 ≤ x then 255 else 0) else 255 - x

def bselOp (x y sel : Word) : Word :=
  let pool := x.toNat + y.toNat * 2 ^ 32
  .ofNat 32 (bselByte sel.toNat pool 0 + 256 * bselByte sel.toNat pool 1 + 65536 * bselByte sel.toNat pool 2 +
    16777216 * bselByte sel.toNat pool 3)

/-- PLUT's index and result (R67). -/
def plutOp (table : Nat) (x y z : Bool) : Bool := table / 2 ^ (4 * x.toNat + 2 * y.toNat + z.toNat) % 2 == 1

/-- AND (R61). -/
def execAnd (ctl : Ctl) (d a b : BitVec 6) (s : State) : Out :=
  issue (laneForm (.and ctl d a b) b.toNat mBU true) ctl.sp s
    (lane2 ctl d.toNat a.toNat b.toNat (andOp))

/-- OR (R61). -/
def execOr (ctl : Ctl) (d a b : BitVec 6) (s : State) : Out :=
  issue (laneForm (.or ctl d a b) b.toNat mBU true) ctl.sp s
    (lane2 ctl d.toNat a.toNat b.toNat (orOp))

/-- XOR (R61). -/
def execXor (ctl : Ctl) (d a b : BitVec 6) (s : State) : Out :=
  issue (laneForm (.xor ctl d a b) b.toNat mBU true) ctl.sp s
    (lane2 ctl d.toNat a.toNat b.toNat (xorOp))

/-- ANDN (R61). -/
def execAndn (ctl : Ctl) (d a b : BitVec 6) (s : State) : Out :=
  issue (laneForm (.andn ctl d a b) b.toNat mBU true) ctl.sp s
    (lane2 ctl d.toNat a.toNat b.toNat (andnOp))

/-- ORN (R61). -/
def execOrn (ctl : Ctl) (d a b : BitVec 6) (s : State) : Out :=
  issue (laneForm (.orn ctl d a b) b.toNat mBU true) ctl.sp s
    (lane2 ctl d.toNat a.toNat b.toNat (ornOp))

/-- SHL (R61). -/
def execShl (ctl : Ctl) (d a b : BitVec 6) (s : State) : Out :=
  issue (laneForm (.shl ctl d a b) b.toNat mBU true) ctl.sp s
    (lane2 ctl d.toNat a.toNat b.toNat (shlOp))

/-- SHRL (R61). -/
def execShrl (ctl : Ctl) (d a b : BitVec 6) (s : State) : Out :=
  issue (laneForm (.shrl ctl d a b) b.toNat mBU true) ctl.sp s
    (lane2 ctl d.toNat a.toNat b.toNat (shrlOp))

/-- SHRA (R61). -/
def execShra (ctl : Ctl) (d a b : BitVec 6) (s : State) : Out :=
  issue (laneForm (.shra ctl d a b) b.toNat mBU true) ctl.sp s
    (lane2 ctl d.toNat a.toNat b.toNat (shraOp))

/-- ROTL (R62). -/
def execRotl (ctl : Ctl) (d a b : BitVec 6) (s : State) : Out :=
  issue (laneForm (.rotl ctl d a b) b.toNat mBU true) ctl.sp s
    (lane2 ctl d.toNat a.toNat b.toNat (rotlOp))

/-- BFX_N (R63). -/
def execBfxN (ctl : Ctl) (d a b : BitVec 6) (s : State) : Out :=
  issue (laneForm (.bfxN ctl d a b) b.toNat mBU true) ctl.sp s
    (lane2 ctl d.toNat a.toNat b.toNat (bfxOp false))

/-- BFX_S (R63). -/
def execBfxS (ctl : Ctl) (d a b : BitVec 6) (s : State) : Out :=
  issue (laneForm (.bfxS ctl d a b) b.toNat mBU true) ctl.sp s
    (lane2 ctl d.toNat a.toNat b.toNat (bfxOp true))

/-- CLZ (R62). -/
def execClz (ctl : Ctl) (d a : BitVec 6) (s : State) : Out :=
  issue (laneNoImm (.clz ctl d a) 0 true) ctl.sp s
    (lane1 ctl d.toNat a.toNat clzOp)

/-- CTZ (R62). -/
def execCtz (ctl : Ctl) (d a : BitVec 6) (s : State) : Out :=
  issue (laneNoImm (.ctz ctl d a) 0 true) ctl.sp s
    (lane1 ctl d.toNat a.toNat ctzOp)

/-- POPC (R62). -/
def execPopc (ctl : Ctl) (d a : BitVec 6) (s : State) : Out :=
  issue (laneNoImm (.popc ctl d a) 0 true) ctl.sp s
    (lane1 ctl d.toNat a.toNat popcOp)

/-- BREV (R62). -/
def execBrev (ctl : Ctl) (d a : BitVec 6) (s : State) : Out :=
  issue (laneNoImm (.brev ctl d a) 0 true) ctl.sp s
    (lane1 ctl d.toNat a.toNat brevOp)

/-- AND_PAIR (R61). -/
def execAndPair (ctl : Ctl) (d a b : BitVec 6) (s : State) : Out :=
  issue (laneForm (.andPair ctl d a b) b.toNat mBU true) ctl.sp s
    (pair2 ctl d.toNat a.toNat b.toNat (andOp))

/-- OR_PAIR (R61). -/
def execOrPair (ctl : Ctl) (d a b : BitVec 6) (s : State) : Out :=
  issue (laneForm (.orPair ctl d a b) b.toNat mBU true) ctl.sp s
    (pair2 ctl d.toNat a.toNat b.toNat (orOp))

/-- XOR_PAIR (R61). -/
def execXorPair (ctl : Ctl) (d a b : BitVec 6) (s : State) : Out :=
  issue (laneForm (.xorPair ctl d a b) b.toNat mBU true) ctl.sp s
    (pair2 ctl d.toNat a.toNat b.toNat (xorOp))

/-- ANDN_PAIR (R61). -/
def execAndnPair (ctl : Ctl) (d a b : BitVec 6) (s : State) : Out :=
  issue (laneForm (.andnPair ctl d a b) b.toNat mBU true) ctl.sp s
    (pair2 ctl d.toNat a.toNat b.toNat (andnOp))

/-- ORN_PAIR (R61). -/
def execOrnPair (ctl : Ctl) (d a b : BitVec 6) (s : State) : Out :=
  issue (laneForm (.ornPair ctl d a b) b.toNat mBU true) ctl.sp s
    (pair2 ctl d.toNat a.toNat b.toNat (ornOp))

/-- SHL_PAIR (R61). -/
def execShlPair (ctl : Ctl) (d a b : BitVec 6) (s : State) : Out :=
  issue (laneForm (.shlPair ctl d a b) b.toNat mBU true) ctl.sp s
    (pair2 ctl d.toNat a.toNat b.toNat (shlOp))

/-- SHRL_PAIR (R61). -/
def execShrlPair (ctl : Ctl) (d a b : BitVec 6) (s : State) : Out :=
  issue (laneForm (.shrlPair ctl d a b) b.toNat mBU true) ctl.sp s
    (pair2 ctl d.toNat a.toNat b.toNat (shrlOp))

/-- SHRA_PAIR (R61). -/
def execShraPair (ctl : Ctl) (d a b : BitVec 6) (s : State) : Out :=
  issue (laneForm (.shraPair ctl d a b) b.toNat mBU true) ctl.sp s
    (pair2 ctl d.toNat a.toNat b.toNat (shraOp))

/-- ROTL_PAIR (R62). -/
def execRotlPair (ctl : Ctl) (d a b : BitVec 6) (s : State) : Out :=
  issue (laneForm (.rotlPair ctl d a b) b.toNat mBU false) ctl.sp s
    (pair2 ctl d.toNat a.toNat b.toNat (rotlOp))

/-- BFX_N_PAIR (R63). -/
def execBfxNPair (ctl : Ctl) (d a b : BitVec 6) (s : State) : Out :=
  issue (laneForm (.bfxNPair ctl d a b) b.toNat mBU false) ctl.sp s
    (pair2 ctl d.toNat a.toNat b.toNat (bfxOp false))

/-- BFX_S_PAIR (R63). -/
def execBfxSPair (ctl : Ctl) (d a b : BitVec 6) (s : State) : Out :=
  issue (laneForm (.bfxSPair ctl d a b) b.toNat mBU false) ctl.sp s
    (pair2 ctl d.toNat a.toNat b.toNat (bfxOp true))

/-- CLZ_PAIR (R62). -/
def execClzPair (ctl : Ctl) (d a : BitVec 6) (s : State) : Out :=
  issue (laneNoImm (.clzPair ctl d a) 0 false) ctl.sp s
    (pair1 ctl d.toNat a.toNat clzOp)

/-- CTZ_PAIR (R62). -/
def execCtzPair (ctl : Ctl) (d a : BitVec 6) (s : State) : Out :=
  issue (laneNoImm (.ctzPair ctl d a) 0 false) ctl.sp s
    (pair1 ctl d.toNat a.toNat ctzOp)

/-- POPC_PAIR (R62). -/
def execPopcPair (ctl : Ctl) (d a : BitVec 6) (s : State) : Out :=
  issue (laneNoImm (.popcPair ctl d a) 0 false) ctl.sp s
    (pair1 ctl d.toNat a.toNat popcOp)

/-- BREV_PAIR (R62). -/
def execBrevPair (ctl : Ctl) (d a : BitVec 6) (s : State) : Out :=
  issue (laneNoImm (.brevPair ctl d a) 0 false) ctl.sp s
    (pair1 ctl d.toNat a.toNat brevOp)

/-- AND_U (R61). -/
def execAndU (ctl : Ctl) (d a b : BitVec 6) (s : State) : Out :=
  issue (laneForm (.andU ctl d a b) b.toNat 0 true) ctl.sp s
    (uni2 ctl d.toNat a.toNat b.toNat (andOp))

/-- OR_U (R61). -/
def execOrU (ctl : Ctl) (d a b : BitVec 6) (s : State) : Out :=
  issue (laneForm (.orU ctl d a b) b.toNat 0 true) ctl.sp s
    (uni2 ctl d.toNat a.toNat b.toNat (orOp))

/-- XOR_U (R61). -/
def execXorU (ctl : Ctl) (d a b : BitVec 6) (s : State) : Out :=
  issue (laneForm (.xorU ctl d a b) b.toNat 0 true) ctl.sp s
    (uni2 ctl d.toNat a.toNat b.toNat (xorOp))

/-- ANDN_U (R61). -/
def execAndnU (ctl : Ctl) (d a b : BitVec 6) (s : State) : Out :=
  issue (laneForm (.andnU ctl d a b) b.toNat 0 true) ctl.sp s
    (uni2 ctl d.toNat a.toNat b.toNat (andnOp))

/-- ORN_U (R61). -/
def execOrnU (ctl : Ctl) (d a b : BitVec 6) (s : State) : Out :=
  issue (laneForm (.ornU ctl d a b) b.toNat 0 true) ctl.sp s
    (uni2 ctl d.toNat a.toNat b.toNat (ornOp))

/-- SHL_U (R61). -/
def execShlU (ctl : Ctl) (d a b : BitVec 6) (s : State) : Out :=
  issue (laneForm (.shlU ctl d a b) b.toNat 0 true) ctl.sp s
    (uni2 ctl d.toNat a.toNat b.toNat (shlOp))

/-- SHRL_U (R61). -/
def execShrlU (ctl : Ctl) (d a b : BitVec 6) (s : State) : Out :=
  issue (laneForm (.shrlU ctl d a b) b.toNat 0 true) ctl.sp s
    (uni2 ctl d.toNat a.toNat b.toNat (shrlOp))

/-- SHRA_U (R61). -/
def execShraU (ctl : Ctl) (d a b : BitVec 6) (s : State) : Out :=
  issue (laneForm (.shraU ctl d a b) b.toNat 0 true) ctl.sp s
    (uni2 ctl d.toNat a.toNat b.toNat (shraOp))

/-- ROTL_U (R62). -/
def execRotlU (ctl : Ctl) (d a b : BitVec 6) (s : State) : Out :=
  issue (laneForm (.rotlU ctl d a b) b.toNat 0 true) ctl.sp s
    (uni2 ctl d.toNat a.toNat b.toNat (rotlOp))

/-- BFX_N_U (R63). -/
def execBfxNU (ctl : Ctl) (d a b : BitVec 6) (s : State) : Out :=
  issue (laneForm (.bfxNU ctl d a b) b.toNat 0 true) ctl.sp s
    (uni2 ctl d.toNat a.toNat b.toNat (bfxOp false))

/-- BFX_S_U (R63). -/
def execBfxSU (ctl : Ctl) (d a b : BitVec 6) (s : State) : Out :=
  issue (laneForm (.bfxSU ctl d a b) b.toNat 0 true) ctl.sp s
    (uni2 ctl d.toNat a.toNat b.toNat (bfxOp true))

/-- CLZ_U (R62). -/
def execClzU (ctl : Ctl) (d a : BitVec 6) (s : State) : Out :=
  issue (laneNoImm (.clzU ctl d a) 0 true) ctl.sp s
    (uni1 ctl d.toNat a.toNat clzOp)

/-- CTZ_U (R62). -/
def execCtzU (ctl : Ctl) (d a : BitVec 6) (s : State) : Out :=
  issue (laneNoImm (.ctzU ctl d a) 0 true) ctl.sp s
    (uni1 ctl d.toNat a.toNat ctzOp)

/-- POPC_U (R62). -/
def execPopcU (ctl : Ctl) (d a : BitVec 6) (s : State) : Out :=
  issue (laneNoImm (.popcU ctl d a) 0 true) ctl.sp s
    (uni1 ctl d.toNat a.toNat popcOp)

/-- BREV_U (R62). -/
def execBrevU (ctl : Ctl) (d a : BitVec 6) (s : State) : Out :=
  issue (laneNoImm (.brevU ctl d a) 0 true) ctl.sp s
    (uni1 ctl d.toNat a.toNat brevOp)

/-- BFI_B32 (R64). -/
def execBfiB32 (ctl : Ctl) (d a b : BitVec 6) (s : State) : Out :=
  issue (laneForm (.bfiB32 ctl d a b) b.toNat (mADD + mBU) true) ctl.sp s
    (lane3 ctl d.toNat a.toNat b.toNat bfiOp)

/-- BFI_B64 (R64). -/
def execBfiB64 (ctl : Ctl) (d a b : BitVec 6) (s : State) : Out :=
  issue (laneForm (.bfiB64 ctl d a b) b.toNat (mADD + mBU) true) ctl.sp s
    (pair3 ctl d.toNat a.toNat b.toNat bfiOp)

/-- BFI_U (R64). -/
def execBfiU (ctl : Ctl) (d a b : BitVec 6) (s : State) : Out :=
  issue (laneForm (.bfiU ctl d a b) b.toNat (mADD) true) ctl.sp s
    (uni3 ctl d.toNat a.toNat b.toNat bfiOp)

/-- BSEL (R65). -/
def execBsel (ctl : Ctl) (d a b : BitVec 6) (s : State) : Out :=
  issue (laneForm (.bsel ctl d a b) b.toNat (mADD + mBU) true) ctl.sp s
    (lane3 ctl d.toNat a.toNat b.toNat bselOp)

/-- ICMP to a lane predicate, on 32-bit lanes or on pairs (R59). -/
def icmpLanes (c : Ctl) (fn : Nat) (wide : Bool) (q a b : Nat) (s : State) : Eff :=
  let n := if wide then 2 else 1
  laneBody (s.cur.on c) [] ((a, n) :: s.bSrc b n) (fun s t =>
    .next (t.setCur (t.cur.putPreds (s.cur.on c) q (fun j =>
      if wide then icmpOp fn (s.src64 j a) (s.bPair j b) else icmpOp fn (s.src j a) (s.bLane j b))))) s

/-- ICMP (R59). -/
def execIcmp (ctl : Ctl) (c : BitVec 3) (w : BitVec 1) (q : BitVec 3) (a b : BitVec 6) (s : State) : Out :=
  issue (laneForm (.icmp ctl c w q a b) b.toNat mBU true) ctl.sp s
    (icmpLanes ctl c.toNat (w == 1) q.toNat a.toNat b.toNat)

/-- ICMP_U (R59). -/
def execIcmpU (ctl : Ctl) (c q : BitVec 3) (a b : BitVec 6) (s : State) : Out :=
  issue (laneForm (.icmpU ctl c q a b) b.toNat 0 true) ctl.sp s
    (underGuard ctl (uniBody (a.toNat :: (if s.cur.run.imm.isNone then [b.toNat] else []))
      (fun s => .next (s.setCur (s.cur.cset q.toNat (icmpOp c.toNat (s.cur.sget a.toNat) (s.bUni b.toNat)))))))

/-- SEL on lanes (R60): a where p(fn) is true, else b. -/
def selLanes (c : Ctl) (p d a b : Nat) (s : State) : Eff :=
  laneBody (s.cur.on c) [(d, 1)] ((a, 1) :: s.bSrc b 1) (fun s t =>
    .next (t.setCur (t.cur.putLanes (s.cur.on c) d
      (fun j => if s.cur.pget j p then s.src j a else s.bLane j b)))) s

/-- SEL (R60). -/
def execSel (ctl : Ctl) (p : BitVec 3) (d a b : BitVec 6) (s : State) : Out :=
  issue (laneForm (.sel ctl p d a b) b.toNat mBU false) ctl.sp s
    (selLanes ctl p.toNat d.toNat a.toNat b.toNat)

/-- SEL_U (R60). -/
def execSelU (ctl : Ctl) (p : BitVec 3) (d a b : BitVec 6) (s : State) : Out :=
  issue (laneForm (.selU ctl p d a b) b.toNat 0 true) ctl.sp s
    (uni2 ctl d.toNat a.toNat b.toNat (fun x y => if s.cur.cget p.toNat then x else y))

/-- MOV on lanes (R66): b of one, two or four registers; under BU a quad takes the pair s(b), s(b + 1). -/
def movLanes (c : Ctl) (n d b : Nat) (s : State) : Eff :=
  laneBody (s.cur.on c) [(d, n)] (s.bSrc b n) (fun s t =>
    .next (t.setCur ((s.cur.on c).foldl (fun g j =>
      if n = 1 then g.vset j d (s.bLane j b)
      else if n = 2 then g.vset64 j d (s.bPair j b)
      else match s.cur.run.immInt with
        | some v => (g.vset64 j d (.ofInt 64 v)).vset64 j (d + 2) (.ofInt 64 (if v < 0 then -1 else 0))
        | none =>
          if s.cur.run.bu then (g.vset64 j d (s.cur.sget b)).vset64 j (d + 2) (s.cur.sget (b + 1))
          else (g.vset64 j d (s.src64 j b)).vset64 j (d + 2) (s.src64 j (b + 2))) t.cur))) s

/-- R33: under BU the quad form needs an even b; the MOD word is the offending one. -/
def movQuadBad (s : State) (b : Nat) : Bool := s.cur.run.bu && s.cur.run.imm.isNone && b % 2 == 1

/-- MOV_B32 (R66). -/
def execMovB32 (ctl : Ctl) (d b : BitVec 6) (s : State) : Out :=
  issue (laneForm (.movB32 ctl d b) b.toNat mBU true) ctl.sp s
    (movLanes ctl 1 d.toNat b.toNat)

/-- MOV_B64 (R66). -/
def execMovB64 (ctl : Ctl) (d b : BitVec 6) (s : State) : Out :=
  issue (laneForm (.movB64 ctl d b) b.toNat mBU true) ctl.sp s
    (movLanes ctl 2 d.toNat b.toNat)

/-- MOV_B128 (R66, R33). -/
def execMovB128 (ctl : Ctl) (d b : BitVec 6) (s : State) : Out :=
  issue (laneForm (.movB128 ctl d b) b.toNat (if movQuadBad s b.toNat then 0 else mBU) true) ctl.sp s
    (movLanes ctl 4 d.toNat b.toNat)

/-- MOV_U (R66). -/
def execMovU (ctl : Ctl) (d b : BitVec 6) (s : State) : Out :=
  issue (laneForm (.movU ctl d b) b.toNat 0 true) ctl.sp s
    (underGuard ctl (uniBody (d.toNat :: (if s.cur.run.imm.isNone then [b.toNat] else []))
      (fun s => .next (s.setCur (s.cur.sset d.toNat (s.bUni b.toNat))))))

/-- MOVI (R66). -/
def execMovi (ctl : Ctl) (d : BitVec 6) (w : BitVec 1) (i : BitVec 9) (s : State) : Out :=
  issue (takesForm (.movi ctl d w i) 0 true true) ctl.sp s
    (fun s => laneBody (s.cur.on ctl) [(d.toNat, if w == 1 then 2 else 1)] [] (fun s t =>
      .next (t.setCur (if w == 1 then t.cur.putPairs (s.cur.on ctl) d.toNat (fun _ => .ofInt 64 (s.imm9 i))
        else t.cur.putLanes (s.cur.on ctl) d.toNat (fun _ => .ofInt 32 (s.imm9 i))))) s)

/-- PLUT (R67): the guard and the four predicates lie in the file that f names. -/
def execPlut (ctl : Ctl) (x d z y : BitVec 3) (f : BitVec 1) (t : BitVec 8) (s : State) : Out :=
  issue (bareForm (.plut ctl x d z y f t) true true) ctl.sp s
    (fun s =>
      let g := s.cur
      if f == 1 then
        underGuard ctl (fun s => .next (s.setCur (g.cset d.toNat
          (plutOp t.toNat (g.cget x.toNat) (g.cget y.toNat) (g.cget z.toNat))))) s
      else .next (s.setCur (g.putPreds (g.on ctl) d.toNat (fun j =>
        plutOp t.toNat (g.pget j x.toNat) (g.pget j y.toNat) (g.pget j z.toNat)))))

/-- PMOV_TO_REG (R68): p7 to p0 of each lane. -/
def execPmovToReg (ctl : Ctl) (d : BitVec 6) (s : State) : Out :=
  issue (bareForm (.pmovToReg ctl d) true true) ctl.sp s
    (fun s => laneBody (s.cur.on ctl) [(d.toNat, 1)] [] (fun s t =>
      .next (t.setCur (t.cur.putLanes (s.cur.on ctl) d.toNat (fun j => ((s.cur.lane j).p ||| 1).setWidth 32)))) s)

/-- PMOV_TO_PRED (R68). -/
def execPmovToPred (ctl : Ctl) (a : BitVec 6) (s : State) : Out :=
  issue (bareForm (.pmovToPred ctl a) true true) ctl.sp s
    (fun s => laneBody (s.cur.on ctl) [] [(a.toNat, 1)] (fun s t =>
      .next (t.setCur ((s.cur.on ctl).foldl (fun g j =>
        g.setLane j { g.lane j with p := (s.src j a.toNat).setWidth 8 ||| 1 }) t.cur))) s)

/-- PMOV_C_TO_S (R68). -/
def execPmovCToS (ctl : Ctl) (d : BitVec 6) (s : State) : Out :=
  issue (bareForm (.pmovCToS ctl d) true true) ctl.sp s
    (underGuard ctl (uniBody [d.toNat] (fun s => .next (s.setCur (s.cur.sset d.toNat ((s.cur.c ||| 1).setWidth 64))))))

/-- PMOV_S_TO_C (R68). -/
def execPmovSToC (ctl : Ctl) (a : BitVec 6) (s : State) : Out :=
  issue (bareForm (.pmovSToC ctl a) true true) ctl.sp s
    (underGuard ctl (uniBody [a.toNat] (fun s => .next (s.setCur { s.cur with c := (s.cur.sget a.toNat).setWidth 8 ||| 1 }))))

end Sys2Proof.Machine
end

