-- ==== Sys2Proof/Machine/Dispatch.lean ====
section
/-!
DEFINITION. Machine/Dispatch.lean: the one match from an instruction or event to its meaning.
-/

namespace Sys2Proof.Machine

def exec (i : Instr) (s : State) : Host.Outcome State Fault Refusal :=
  match i with
  | .trap ctl c => Sys2Proof.Machine.execTrap ctl c s
  | .svc ctl c => Sys2Proof.Machine.execSvc ctl c s
  | .eret ctl => Sys2Proof.Machine.execEret ctl s
  | .nop ctl => Sys2Proof.Machine.execNop ctl s
  | .idem ctl => Sys2Proof.Machine.execIdem ctl s
  | .nopre ctl => Sys2Proof.Machine.execNopre ctl s
  | .preon ctl => Sys2Proof.Machine.execPreon ctl s
  | .ifence ctl => Sys2Proof.Machine.execIfence ctl s
  | .rdsr ctl d a => Sys2Proof.Machine.execRdsr ctl d a s
  | .wrsr ctl d a => Sys2Proof.Machine.execWrsr ctl d a s
  | .time ctl d => Sys2Proof.Machine.execTime ctl d s
  | .doze ctl a => Sys2Proof.Machine.execDoze ctl a s
  | .icinv ctl a b => Sys2Proof.Machine.execIcinv ctl a b s
  | .braLane ctl h o => Sys2Proof.Machine.execBraLane ctl h o s
  | .braUniform ctl h o => Sys2Proof.Machine.execBraUniform ctl h o s
  | .call ctl h o => Sys2Proof.Machine.execCall ctl h o s
  | .conv sp o => Sys2Proof.Machine.execConv sp o s
  | .loop ctl d v => Sys2Proof.Machine.execLoop ctl d v s
  | .brx ctl a => Sys2Proof.Machine.execBrx ctl a s
  | .ret ctl a => Sys2Proof.Machine.execRet ctl a s
  | .exit ctl => Sys2Proof.Machine.execExit ctl s
  | .iadd ctl d a b => Sys2Proof.Machine.execIadd ctl d a b s
  | .isub ctl d a b => Sys2Proof.Machine.execIsub ctl d a b s
  | .imul ctl d a b => Sys2Proof.Machine.execImul ctl d a b s
  | .imulhS ctl d a b => Sys2Proof.Machine.execImulhS ctl d a b s
  | .imulhN ctl d a b => Sys2Proof.Machine.execImulhN ctl d a b s
  | .imad ctl d a b => Sys2Proof.Machine.execImad ctl d a b s
  | .iminS ctl d a b => Sys2Proof.Machine.execIminS ctl d a b s
  | .iminN ctl d a b => Sys2Proof.Machine.execIminN ctl d a b s
  | .imaxS ctl d a b => Sys2Proof.Machine.execImaxS ctl d a b s
  | .imaxN ctl d a b => Sys2Proof.Machine.execImaxN ctl d a b s
  | .idivS ctl d a b => Sys2Proof.Machine.execIdivS ctl d a b s
  | .idivN ctl d a b => Sys2Proof.Machine.execIdivN ctl d a b s
  | .iremS ctl d a b => Sys2Proof.Machine.execIremS ctl d a b s
  | .iremN ctl d a b => Sys2Proof.Machine.execIremN ctl d a b s
  | .iabs ctl d a => Sys2Proof.Machine.execIabs ctl d a s
  | .ineg ctl d a => Sys2Proof.Machine.execIneg ctl d a s
  | .iaddPair ctl d a b => Sys2Proof.Machine.execIaddPair ctl d a b s
  | .isubPair ctl d a b => Sys2Proof.Machine.execIsubPair ctl d a b s
  | .imulPair ctl d a b => Sys2Proof.Machine.execImulPair ctl d a b s
  | .imulhSPair ctl d a b => Sys2Proof.Machine.execImulhSPair ctl d a b s
  | .imulhNPair ctl d a b => Sys2Proof.Machine.execImulhNPair ctl d a b s
  | .imadPair ctl d a b => Sys2Proof.Machine.execImadPair ctl d a b s
  | .iminSPair ctl d a b => Sys2Proof.Machine.execIminSPair ctl d a b s
  | .iminNPair ctl d a b => Sys2Proof.Machine.execIminNPair ctl d a b s
  | .imaxSPair ctl d a b => Sys2Proof.Machine.execImaxSPair ctl d a b s
  | .imaxNPair ctl d a b => Sys2Proof.Machine.execImaxNPair ctl d a b s
  | .idivSPair ctl d a b => Sys2Proof.Machine.execIdivSPair ctl d a b s
  | .idivNPair ctl d a b => Sys2Proof.Machine.execIdivNPair ctl d a b s
  | .iremSPair ctl d a b => Sys2Proof.Machine.execIremSPair ctl d a b s
  | .iremNPair ctl d a b => Sys2Proof.Machine.execIremNPair ctl d a b s
  | .iabsPair ctl d a => Sys2Proof.Machine.execIabsPair ctl d a s
  | .inegPair ctl d a => Sys2Proof.Machine.execInegPair ctl d a s
  | .icmp ctl c w q a b => Sys2Proof.Machine.execIcmp ctl c w q a b s
  | .and ctl d a b => Sys2Proof.Machine.execAnd ctl d a b s
  | .or ctl d a b => Sys2Proof.Machine.execOr ctl d a b s
  | .xor ctl d a b => Sys2Proof.Machine.execXor ctl d a b s
  | .andn ctl d a b => Sys2Proof.Machine.execAndn ctl d a b s
  | .orn ctl d a b => Sys2Proof.Machine.execOrn ctl d a b s
  | .shl ctl d a b => Sys2Proof.Machine.execShl ctl d a b s
  | .shrl ctl d a b => Sys2Proof.Machine.execShrl ctl d a b s
  | .shra ctl d a b => Sys2Proof.Machine.execShra ctl d a b s
  | .andPair ctl d a b => Sys2Proof.Machine.execAndPair ctl d a b s
  | .orPair ctl d a b => Sys2Proof.Machine.execOrPair ctl d a b s
  | .xorPair ctl d a b => Sys2Proof.Machine.execXorPair ctl d a b s
  | .andnPair ctl d a b => Sys2Proof.Machine.execAndnPair ctl d a b s
  | .ornPair ctl d a b => Sys2Proof.Machine.execOrnPair ctl d a b s
  | .shlPair ctl d a b => Sys2Proof.Machine.execShlPair ctl d a b s
  | .shrlPair ctl d a b => Sys2Proof.Machine.execShrlPair ctl d a b s
  | .shraPair ctl d a b => Sys2Proof.Machine.execShraPair ctl d a b s
  | .rotl ctl d a b => Sys2Proof.Machine.execRotl ctl d a b s
  | .clz ctl d a => Sys2Proof.Machine.execClz ctl d a s
  | .ctz ctl d a => Sys2Proof.Machine.execCtz ctl d a s
  | .popc ctl d a => Sys2Proof.Machine.execPopc ctl d a s
  | .brev ctl d a => Sys2Proof.Machine.execBrev ctl d a s
  | .bfxN ctl d a b => Sys2Proof.Machine.execBfxN ctl d a b s
  | .bfxS ctl d a b => Sys2Proof.Machine.execBfxS ctl d a b s
  | .bsel ctl d a b => Sys2Proof.Machine.execBsel ctl d a b s
  | .rotlPair ctl d a b => Sys2Proof.Machine.execRotlPair ctl d a b s
  | .clzPair ctl d a => Sys2Proof.Machine.execClzPair ctl d a s
  | .ctzPair ctl d a => Sys2Proof.Machine.execCtzPair ctl d a s
  | .popcPair ctl d a => Sys2Proof.Machine.execPopcPair ctl d a s
  | .brevPair ctl d a => Sys2Proof.Machine.execBrevPair ctl d a s
  | .bfxNPair ctl d a b => Sys2Proof.Machine.execBfxNPair ctl d a b s
  | .bfxSPair ctl d a b => Sys2Proof.Machine.execBfxSPair ctl d a b s
  | .bfiB32 ctl d a b => Sys2Proof.Machine.execBfiB32 ctl d a b s
  | .bfiB64 ctl d a b => Sys2Proof.Machine.execBfiB64 ctl d a b s
  | .movB32 ctl d b => Sys2Proof.Machine.execMovB32 ctl d b s
  | .movB64 ctl d b => Sys2Proof.Machine.execMovB64 ctl d b s
  | .movB128 ctl d b => Sys2Proof.Machine.execMovB128 ctl d b s
  | .pmovToReg ctl d => Sys2Proof.Machine.execPmovToReg ctl d s
  | .pmovToPred ctl a => Sys2Proof.Machine.execPmovToPred ctl a s
  | .sel ctl p d a b => Sys2Proof.Machine.execSel ctl p d a b s
  | .iaddImm ctl d a v => Sys2Proof.Machine.execIaddImm ctl d a v s
  | .iaddImmPair ctl d a v => Sys2Proof.Machine.execIaddImmPair ctl d a v s
  | .movi ctl d w v => Sys2Proof.Machine.execMovi ctl d w v s
  | .plut ctl x d z y f t => Sys2Proof.Machine.execPlut ctl x d z y f t s
  | .lea ctl c d a b => Sys2Proof.Machine.execLea ctl c d a b s
  | .iaddU ctl d a b => Sys2Proof.Machine.execIaddU ctl d a b s
  | .isubU ctl d a b => Sys2Proof.Machine.execIsubU ctl d a b s
  | .imulU ctl d a b => Sys2Proof.Machine.execImulU ctl d a b s
  | .imulhSU ctl d a b => Sys2Proof.Machine.execImulhSU ctl d a b s
  | .imulhNU ctl d a b => Sys2Proof.Machine.execImulhNU ctl d a b s
  | .imadU ctl d a b => Sys2Proof.Machine.execImadU ctl d a b s
  | .iminSU ctl d a b => Sys2Proof.Machine.execIminSU ctl d a b s
  | .iminNU ctl d a b => Sys2Proof.Machine.execIminNU ctl d a b s
  | .imaxSU ctl d a b => Sys2Proof.Machine.execImaxSU ctl d a b s
  | .imaxNU ctl d a b => Sys2Proof.Machine.execImaxNU ctl d a b s
  | .idivSU ctl d a b => Sys2Proof.Machine.execIdivSU ctl d a b s
  | .idivNU ctl d a b => Sys2Proof.Machine.execIdivNU ctl d a b s
  | .iremSU ctl d a b => Sys2Proof.Machine.execIremSU ctl d a b s
  | .iremNU ctl d a b => Sys2Proof.Machine.execIremNU ctl d a b s
  | .iabsU ctl d a => Sys2Proof.Machine.execIabsU ctl d a s
  | .inegU ctl d a => Sys2Proof.Machine.execInegU ctl d a s
  | .icmpU ctl c q a b => Sys2Proof.Machine.execIcmpU ctl c q a b s
  | .andU ctl d a b => Sys2Proof.Machine.execAndU ctl d a b s
  | .orU ctl d a b => Sys2Proof.Machine.execOrU ctl d a b s
  | .xorU ctl d a b => Sys2Proof.Machine.execXorU ctl d a b s
  | .andnU ctl d a b => Sys2Proof.Machine.execAndnU ctl d a b s
  | .ornU ctl d a b => Sys2Proof.Machine.execOrnU ctl d a b s
  | .shlU ctl d a b => Sys2Proof.Machine.execShlU ctl d a b s
  | .shrlU ctl d a b => Sys2Proof.Machine.execShrlU ctl d a b s
  | .shraU ctl d a b => Sys2Proof.Machine.execShraU ctl d a b s
  | .rotlU ctl d a b => Sys2Proof.Machine.execRotlU ctl d a b s
  | .clzU ctl d a => Sys2Proof.Machine.execClzU ctl d a s
  | .ctzU ctl d a => Sys2Proof.Machine.execCtzU ctl d a s
  | .popcU ctl d a => Sys2Proof.Machine.execPopcU ctl d a s
  | .brevU ctl d a => Sys2Proof.Machine.execBrevU ctl d a s
  | .bfxNU ctl d a b => Sys2Proof.Machine.execBfxNU ctl d a b s
  | .bfxSU ctl d a b => Sys2Proof.Machine.execBfxSU ctl d a b s
  | .bfiU ctl d a b => Sys2Proof.Machine.execBfiU ctl d a b s
  | .movU ctl d b => Sys2Proof.Machine.execMovU ctl d b s
  | .pmovCToS ctl d => Sys2Proof.Machine.execPmovCToS ctl d s
  | .pmovSToC ctl a => Sys2Proof.Machine.execPmovSToC ctl a s
  | .selU ctl p d a b => Sys2Proof.Machine.execSelU ctl p d a b s
  | .leaU ctl c d a b => Sys2Proof.Machine.execLeaU ctl c d a b s
  | .fadd ctl d a b => Sys2Proof.Machine.execFadd ctl d a b s
  | .fsub ctl d a b => Sys2Proof.Machine.execFsub ctl d a b s
  | .fmul ctl d a b => Sys2Proof.Machine.execFmul ctl d a b s
  | .ffma ctl d a b => Sys2Proof.Machine.execFfma ctl d a b s
  | .fmin ctl d a b => Sys2Proof.Machine.execFmin ctl d a b s
  | .fmax ctl d a b => Sys2Proof.Machine.execFmax ctl d a b s
  | .fdiv ctl d a b => Sys2Proof.Machine.execFdiv ctl d a b s
  | .fsqrt ctl d a => Sys2Proof.Machine.execFsqrt ctl d a s
  | .frnd ctl d a => Sys2Proof.Machine.execFrnd ctl d a s
  | .frcp ctl d a => Sys2Proof.Machine.execFrcp ctl d a s
  | .frsq ctl d a => Sys2Proof.Machine.execFrsq ctl d a s
  | .fexp2 ctl d a => Sys2Proof.Machine.execFexp2 ctl d a s
  | .flog2 ctl d a => Sys2Proof.Machine.execFlog2 ctl d a s
  | .fsin ctl d a => Sys2Proof.Machine.execFsin ctl d a s
  | .fcos ctl d a => Sys2Proof.Machine.execFcos ctl d a s
  | .fclass ctl d a => Sys2Proof.Machine.execFclass ctl d a s
  | .faddF64 ctl d a b => Sys2Proof.Machine.execFaddF64 ctl d a b s
  | .fsubF64 ctl d a b => Sys2Proof.Machine.execFsubF64 ctl d a b s
  | .fmulF64 ctl d a b => Sys2Proof.Machine.execFmulF64 ctl d a b s
  | .ffmaF64 ctl d a b => Sys2Proof.Machine.execFfmaF64 ctl d a b s
  | .fminF64 ctl d a b => Sys2Proof.Machine.execFminF64 ctl d a b s
  | .fmaxF64 ctl d a b => Sys2Proof.Machine.execFmaxF64 ctl d a b s
  | .fdivF64 ctl d a b => Sys2Proof.Machine.execFdivF64 ctl d a b s
  | .fsqrtF64 ctl d a => Sys2Proof.Machine.execFsqrtF64 ctl d a s
  | .frndF64 ctl d a => Sys2Proof.Machine.execFrndF64 ctl d a s
  | .frcpF64 ctl d a => Sys2Proof.Machine.execFrcpF64 ctl d a s
  | .frsqF64 ctl d a => Sys2Proof.Machine.execFrsqF64 ctl d a s
  | .fclassF64 ctl d a => Sys2Proof.Machine.execFclassF64 ctl d a s
  | .fcmp ctl c w q a b => Sys2Proof.Machine.execFcmp ctl c w q a b s
  | .pkaddF16 ctl d a b => Sys2Proof.Machine.execPkaddF16 ctl d a b s
  | .pkmulF16 ctl d a b => Sys2Proof.Machine.execPkmulF16 ctl d a b s
  | .pkfmaF16 ctl d a b => Sys2Proof.Machine.execPkfmaF16 ctl d a b s
  | .pkaddBf16 ctl d a b => Sys2Proof.Machine.execPkaddBf16 ctl d a b s
  | .pkmulBf16 ctl d a b => Sys2Proof.Machine.execPkmulBf16 ctl d a b s
  | .pkfmaBf16 ctl d a b => Sys2Proof.Machine.execPkfmaBf16 ctl d a b s
  | .idp4S8 ctl d a b => Sys2Proof.Machine.execIdp4S8 ctl d a b s
  | .idp4N8 ctl d a b => Sys2Proof.Machine.execIdp4N8 ctl d a b s
  | .qnt ctl d a f => Sys2Proof.Machine.execQnt ctl d a f s
  | .deq ctl d a f => Sys2Proof.Machine.execDeq ctl d a f s
  | .scale ctl d a f => Sys2Proof.Machine.execScale ctl d a f s
  | .sacc ctl d a f => Sys2Proof.Machine.execSacc ctl d a f s
  | .cvt ctl c d a f => Sys2Proof.Machine.execCvt ctl c d a f s
  | .lgetAt ctl d a b => Sys2Proof.Machine.execLgetAt ctl d a b s
  | .lgetLo ctl d a b => Sys2Proof.Machine.execLgetLo ctl d a b s
  | .lgetHi ctl d a b => Sys2Proof.Machine.execLgetHi ctl d a b s
  | .lgetXr ctl d a b => Sys2Proof.Machine.execLgetXr ctl d a b s
  | .ballot ctl d p => Sys2Proof.Machine.execBallot ctl d p s
  | .voteAny ctl q p => Sys2Proof.Machine.execVoteAny ctl q p s
  | .voteAll ctl q p => Sys2Proof.Machine.execVoteAll ctl q p s
  | .voteSame ctl q p => Sys2Proof.Machine.execVoteSame ctl q p s
  | .gred ctl d a t o => Sys2Proof.Machine.execGred ctl d a t o s
  | .gscan ctl d a t o => Sys2Proof.Machine.execGscan ctl d a t o s
  | .bxch ctl d a m k => Sys2Proof.Machine.execBxch ctl d a m k s
  | .span ctl p => Sys2Proof.Machine.execSpan ctl p s
  | .spanq ctl d => Sys2Proof.Machine.execSpanq ctl d s
  | .give ctl b => Sys2Proof.Machine.execGive ctl b s
  | .claim ctl b => Sys2Proof.Machine.execClaim ctl b s
  | .ldg ctl l r t o w => Sys2Proof.Machine.execLdg ctl l r t o w s
  | .stg ctl r t o w => Sys2Proof.Machine.execStg ctl r t o w s
  | .ldk ctl l r t o w => Sys2Proof.Machine.execLdk ctl l r t o w s
  | .stk ctl r t o w => Sys2Proof.Machine.execStk ctl r t o w s
  | .lds ctl l r o w => Sys2Proof.Machine.execLds ctl l r o w s
  | .sts ctl r o w => Sys2Proof.Machine.execSts ctl r o w s
  | .ldfTake ctl l r o => Sys2Proof.Machine.execLdfTake ctl l r o s
  | .ldfPeek ctl l r o => Sys2Proof.Machine.execLdfPeek ctl l r o s
  | .ste ctl l r o => Sys2Proof.Machine.execSte ctl l r o s
  | .stf ctl r o => Sys2Proof.Machine.execStf ctl r o s
  | .tagq ctl l r o => Sys2Proof.Machine.execTagq ctl l r o s
  | .tags ctl v o w => Sys2Proof.Machine.execTags ctl v o w s
  | .ldd ctl l r o w => Sys2Proof.Machine.execLdd ctl l r o w s
  | .std ctl r o w => Sys2Proof.Machine.execStd ctl r o w s
  | .atomAdd ctl l r t o w => Sys2Proof.Machine.execAtomAdd ctl l r t o w s
  | .atomExch ctl l r t o w => Sys2Proof.Machine.execAtomExch ctl l r t o w s
  | .atomCas ctl l r t o w => Sys2Proof.Machine.execAtomCas ctl l r t o w s
  | .atomAnd ctl l r t o w => Sys2Proof.Machine.execAtomAnd ctl l r t o w s
  | .atomOr ctl l r t o w => Sys2Proof.Machine.execAtomOr ctl l r t o w s
  | .atomXor ctl l r t o w => Sys2Proof.Machine.execAtomXor ctl l r t o w s
  | .atomMinS ctl l r t o w => Sys2Proof.Machine.execAtomMinS ctl l r t o w s
  | .atomMaxS ctl l r t o w => Sys2Proof.Machine.execAtomMaxS ctl l r t o w s
  | .atomMinN ctl l r t o w => Sys2Proof.Machine.execAtomMinN ctl l r t o w s
  | .atomMaxN ctl l r t o w => Sys2Proof.Machine.execAtomMaxN ctl l r t o w s
  | .atomFadd ctl l r t o w => Sys2Proof.Machine.execAtomFadd ctl l r t o w s
  | .xlate ctl l t o => Sys2Proof.Machine.execXlate ctl l t o s
  | .pref ctl l t o => Sys2Proof.Machine.execPref ctl l t o s
  | .cflush ctl l t o => Sys2Proof.Machine.execCflush ctl l t o s
  | .cinv ctl l t o => Sys2Proof.Machine.execCinv ctl l t o s
  | .phase ctl l t => Sys2Proof.Machine.execPhase ctl l t s
  | .fence ctl l t => Sys2Proof.Machine.execFence ctl l t s
  | .fenceE ctl l t => Sys2Proof.Machine.execFenceE ctl l t s
  | .red32 ctl c r t o => Sys2Proof.Machine.execRed32 ctl c r t o s
  | .red64 ctl c r t o => Sys2Proof.Machine.execRed64 ctl c r t o s
  | .copy ctl l x y => Sys2Proof.Machine.execCopy ctl l x y s
  | .waitge ctl x y => Sys2Proof.Machine.execWaitge ctl x y s
  | .waitgeContinuation ctl x y => Sys2Proof.Machine.execWaitgeContinuation ctl x y s
  | .qstat ctl x => Sys2Proof.Machine.execQstat ctl x s
  | .mmaB8 ctl a x c k => Sys2Proof.Machine.execMmaB8 ctl a x c k s
  | .mmaF ctl a x c k => Sys2Proof.Machine.execMmaF ctl a x c k s
  | .mscl ctl x a => Sys2Proof.Machine.execMscl ctl x a s
  | .mzero ctl a => Sys2Proof.Machine.execMzero ctl a s
  | .accld ctl x a => Sys2Proof.Machine.execAccld ctl x a s
  | .accst ctl x a => Sys2Proof.Machine.execAccst ctl x a s
  | .mwait ctl w a => Sys2Proof.Machine.execMwait ctl w a s
  | .chsend ctl x c => Sys2Proof.Machine.execChsend ctl x c s
  | .chrecv ctl l x c => Sys2Proof.Machine.execChrecv ctl l x c s
  | .chpoll ctl x c k => Sys2Proof.Machine.execChpoll ctl x c k s
  | .ldstep ctl l x y k => Sys2Proof.Machine.execLdstep ctl l x y k s
  | .rets ctl x y => Sys2Proof.Machine.execRets ctl x y s
  | .launch ctl l x => Sys2Proof.Machine.execLaunch ctl l x s
  | .accldFrameImage ctl x => Sys2Proof.Machine.execAccldFrameImage ctl x s
  | .accstFrameImage ctl x => Sys2Proof.Machine.execAccstFrameImage ctl x s
  | .stepend ctl => Sys2Proof.Machine.execStepend ctl s
  | .slot ctl x y k => Sys2Proof.Machine.execSlot ctl x y k s
  | .npost ctl l x y => Sys2Proof.Machine.execNpost ctl l x y s
  | .sched p => Sys2Proof.Machine.execSched p s
  | .imm p => Sys2Proof.Machine.execImm p s
  | .mod p => Sys2Proof.Machine.execMod p s
  | .live p => Sys2Proof.Machine.execLive p s
  | .loadResultLanding g k => Sys2Proof.Machine.execLoadResultLanding g k s
  | .pageTableWalk core va => Sys2Proof.Machine.execPageTableWalk core va s
  | .nopreWindowExpiry g => Sys2Proof.Machine.execNopreWindowExpiry g s
  | .dozeWake g => Sys2Proof.Machine.execDozeWake g s
  | .tagStepPerformed g k => Sys2Proof.Machine.execTagStepPerformed g k s
  | .atomicServiceRequest k => Sys2Proof.Machine.execAtomicServiceRequest k s
  | .copyCompletion id => Sys2Proof.Machine.execCopyCompletion id s
  | .counterWaitSatisfied g => Sys2Proof.Machine.execCounterWaitSatisfied g s
  | .matrixCommandEntry wg quad => Sys2Proof.Machine.execMatrixCommandEntry wg quad s
  | .matrixCommandCompletion core => Sys2Proof.Machine.execMatrixCommandCompletion core s
  | .channelEntryArrival launch k => Sys2Proof.Machine.execChannelEntryArrival launch k s
  | .toyBoxExtension launch k => Sys2Proof.Machine.execToyBoxExtension launch k s
  | .waitForCheckerReport => Sys2Proof.Machine.execWaitForCheckerReport s
  | .spanEnergyGrant core => Sys2Proof.Machine.execSpanEnergyGrant core s
  | .spanEnergyTimeout core => Sys2Proof.Machine.execSpanEnergyTimeout core s
  | .spanMoveResume core => Sys2Proof.Machine.execSpanMoveResume core s
  | .stepEndArrival launch src dst => Sys2Proof.Machine.execStepEndArrival launch src dst s
  | .stepBegin launch core => Sys2Proof.Machine.execStepBegin launch core s
  | .retsHandover wg => Sys2Proof.Machine.execRetsHandover wg s
  | .workgroupRetirement wg => Sys2Proof.Machine.execWorkgroupRetirement wg s
  | .launchPortSubmit port value => Sys2Proof.Machine.execLaunchPortSubmit port value s
  | .launchPortKill ctx value supervisor => Sys2Proof.Machine.execLaunchPortKill ctx value supervisor s
  | .homeQuery ctx va => Sys2Proof.Machine.execHomeQuery ctx va s
  | .workgroupPlacement die => Sys2Proof.Machine.execWorkgroupPlacement die s
  | .preemptionRequest die => Sys2Proof.Machine.execPreemptionRequest die s
  | .preemptOverdue wg => Sys2Proof.Machine.execPreemptOverdue wg s
  | .workgroupSave wg => Sys2Proof.Machine.execWorkgroupSave wg s
  | .parkedGroupsUnpark wg => Sys2Proof.Machine.execParkedGroupsUnpark wg s
  | .workgroupRestore wg core => Sys2Proof.Machine.execWorkgroupRestore wg core s
  | .launchCompletion launch => Sys2Proof.Machine.execLaunchCompletion launch s
  | .launchEndCompletion launch => Sys2Proof.Machine.execLaunchEndCompletion launch s
  | .storageError e => Sys2Proof.Machine.execStorageError e s
  | .floorFreezeLift core => Sys2Proof.Machine.execFloorFreezeLift core s
  | .droopRegulation core readings => Sys2Proof.Machine.execDroopRegulation core readings s
  | .supplyPathTest cluster r => Sys2Proof.Machine.execSupplyPathTest cluster r s
  | .thermalHeadroomReport die sensors => Sys2Proof.Machine.execThermalHeadroomReport die sensors s
  | .inFieldTestDue cluster => Sys2Proof.Machine.execInFieldTestDue cluster s
  | .inFieldTestDeadline cluster => Sys2Proof.Machine.execInFieldTestDeadline cluster s
  | .inputVoltageFault => Sys2Proof.Machine.execInputVoltageFault s
  | .bringUp fw => Sys2Proof.Machine.execBringUp fw s
  | .attestationReport r => Sys2Proof.Machine.execAttestationReport r s
  | .linkFlitReplay link => Sys2Proof.Machine.execLinkFlitReplay link s
  | .linkRetrain link ok => Sys2Proof.Machine.execLinkRetrain link ok s
  | .networkMessageReceive m => Sys2Proof.Machine.execNetworkMessageReceive m s
  | .noBufferRetransmit r => Sys2Proof.Machine.execNoBufferRetransmit r s
  | .sendQueueTimeout msg => Sys2Proof.Machine.execSendQueueTimeout msg s
  | .sendAcknowledgement msg => Sys2Proof.Machine.execSendAcknowledgement msg s
  | .trimmedPacketReceive port queue => Sys2Proof.Machine.execTrimmedPacketReceive port queue s
  | .unsupportedPacketDrop port queue peer answer => Sys2Proof.Machine.execUnsupportedPacketDrop port queue peer answer s
  | .ptpEventMessage src stamp ppm => Sys2Proof.Machine.execPtpEventMessage src stamp ppm s
  | .ptpMasterLoss port => Sys2Proof.Machine.execPtpMasterLoss port s
  | .illegalWordFetch why => Sys2Proof.Machine.execIllegalWordFetch why s
  | .inFieldTestEnd cluster => Sys2Proof.Machine.execInFieldTestEnd cluster s
  | .applicationCoreAccess a => Sys2Proof.Machine.execApplicationCoreAccess a s
  | .networkQueueOpen q => Sys2Proof.Machine.execNetworkQueueOpen q s
  | .codeObjectLoad ctx header => Sys2Proof.Machine.execCodeObjectLoad ctx header s

end Sys2Proof.Machine
end

