-- ==== Sys2Proof/Machine/Fetch.lean ====
section
/-!
DEFINITION. Machine/Fetch.lean: where the word at the program counter stands (R13, R16) and what the group fetches there
through its fetch buffer and the instruction cache of its core (R84, R87, R224, R355); placing an instruction's bytes where the
next fetch reads them.
-/

namespace Sys2Proof.Machine

/-- The physical place of a word of code at an address; none outside the code that the current group may fetch (R13). In supervisor
mode the region is physical. -/
def State.codePlace (s : State) (at_ : DWord) : Option Nat :=
  let pc := at_.toNat
  if s.cur.sup then
    if s.core.setup.codeBase ≤ pc && pc < s.core.setup.codeBase + s.core.setup.codeLen then some pc else none
  else if s.wg.kern.codeBase ≤ pc && pc < s.wg.kern.codeBase + s.wg.kern.extent then s.translate s.wg.kern.ctx pc
  else none

/-- The place of the word at the current group's pc. -/
def State.fetchPlace (s : State) : Option Nat := s.codePlace s.cur.pc

/-- The sixteen words of a line of memory. -/
def State.memLine (s : State) (num : Nat) : Line :=
  { num := num, words := (List.range 16).map (fun i => s.word (16 * num + i)) }

/-- A line joins the fetch buffer of 4 lines; the oldest leaves it (R224). -/
def Group.holdLine (g : Group) (l : Line) : Group := { g with fbuf := l :: g.fbuf.take 3 }

/-- A line joins the instruction cache; it keeps 1,024 lines (log entry 32). -/
def Core.holdLine (c : Core) (l : Line) : Core := { c with icache := l :: (c.icache.filter (fun x => x.num ≠ l.num)).take 1023 }

/-- A refill from memory: a poisoned word is not delivered (R319), and a line with a poisoned unit is not kept. -/
def State.refill (s : State) (pa : Nat) : Except FetchFault Word × State :=
  let num := pa / 64
  if s.memBad.contains (pa / 8) then (.error (.poisoned pa), s)
  else if s.memBad.any (fun u => u / 8 == num) then (.ok (s.word (pa / 4)), s)
  else (.ok (s.word (pa / 4)), { s with cur := s.cur.holdLine (s.memLine num), core := s.core.holdLine (s.memLine num) })

/-- The word at a physical place as it is fetched. A line of the fetch buffer gives its own words. A line that an instruction cache
holds may have left it since: a free value says whether it has (R224, log entry 32). -/
def State.fetchAt (s : State) (pa : Nat) : Except FetchFault Word × State :=
  let num := pa / 64
  let i := pa % 64 / 4
  match s.cur.fbuf.find? (fun l => l.num == num) with
  | some l => (.ok (l.words.getD i 0), s)
  | none =>
    match s.core.icache.find? (fun l => l.num == num) with
    | none => s.refill pa
    | some l =>
      if s.freeVal.getLsbD 0 then (.ok (l.words.getD i 0), s.tick.setCur (s.cur.holdLine l)) else s.tick.refill pa

/-- The word at the current group's pc as it is fetched for issue. -/
def State.fetch (s : State) : Except FetchFault Word × State :=
  match s.fetchPlace with
  | none => (.error (.bounds s.cur.pc), s)
  | some pa => s.fetchAt pa

/-- The target hint and the target of a B word at pc (R25, R355). -/
def hintOf (i : Instr) (pc : DWord) : Option (BitVec 2 × DWord) :=
  match i with
  | .braLane _ h o => some (h, branchTarget pc o)
  | .braUniform _ h o => some (h, branchTarget pc o)
  | .call _ h o => some (h, branchTarget pc o)
  | _ => none

/-- What follows the issue of a word at pc: once a B word has gone to one of its two paths, the line that its target hint puts first
comes into the fetch buffer, unless it lies outside the code: TH 01 the target's, 11 both, 00 and 10 the fall-through's. A hint
changes nothing else (R355). -/
def guided (i : Instr) (pc : DWord) (o : Out) : Out :=
  match o, hintOf i pc with
  | .next s, some (h, target) =>
    let lines := if h = 1 then [target] else if h = 3 then [pc + 4, target] else [pc + 4]
    .next (if s.cur.pc = pc + 4 || s.cur.pc = target then
        lines.foldl (fun s a => match s.codePlace a with
          | some pa => (s.fetchAt pa).2
          | none => s) s
      else s)
  | o, _ => o

/-! ### Placing an instruction -/

/-- The bytes of one word stand at a physical address, and no cache that the current group fetches through holds the line. -/
def State.placeWord (s : State) (pa w : Nat) : State :=
  let drop := fun (ls : List Line) => ls.filter (fun l => l.num ≠ pa / 64)
  { s with mem := Memory.put s.mem pa (wordBytes w), memBad := s.memBad.filter (· ≠ pa / 8),
           cur := { s.cur with fbuf := drop s.cur.fbuf }, core := { s.core with icache := drop s.core.icache } }

/-- The kernel of the launch that stands for a loaded program: its code begins at address 256 and may fill 16 MiB. -/
def Kernel.loaded : Kernel :=
  { Kernel.none with addr := 0, extent := 2 ^ 24, supported := 15, regs := 64, pad := 8192 }

/-- A launch of one workgroup of one thread. -/
def Launch.loaded (u : Nat) : Launch :=
  { Launch.absent with uid := u, words := [0, 0x0001000100000001, 0x001001001, 0, 0, 0, 0, 0], kern := .loaded,
                       state := .running, placed := [0] }

def Workgroup.loaded (u : Nat) : Workgroup :=
  { Workgroup.absent with uid := u, launch := u, status := .running, kern := .loaded, size := 8192, account := 256, groupsN := 1 }

/-- A group of one thread at point S1, at its first instruction. -/
def Group.loaded (u : Nat) : Group :=
  { Group.absent with
    key := { wg := u, gid := 0, shadow := false }, live := true, width := 32,
    lanes := [(0, { Lane.empty with thread := some 0 })], pc := 256, act := 1, exited := .ofNat 128 (2 ^ 32 - 2), count := 64 }

/-- A program comes to run through bring-up, a code object's load and a launch (log entry 30). This stands for all of that
where no group runs: one thread on core 0, and the page tables map the first GiB of address space 0 to itself. -/
def State.placeGroup (s : State) : State :=
  let u := s.nextId
  let c := s.getCore 0
  { s with
    cur := .loaded u,
    wg := .loaded u, wgs := if s.wg.uid = 0 then s.wgs else s.wg :: s.wgs,
    core := { c with present := true, point := 1 },
    cores := if s.core.id = 0 then s.cores else s.core :: s.cores.filter (fun x => x.id ≠ 0),
    launch := .loaded u, launches := if s.launch.uid = 0 then s.launches else s.launch :: s.launches,
    tables := { ctx := 0, va := 0, size := 2 ^ 30, pa := 0, wr := true, cow := false, used := true, dirtied := true } :: s.tables, nextId := u + 1 }

/-- The current group, if it runs code that can be fetched, else the placed one, fetches the word of these bits next. -/
def State.placeNext (s : State) (w : Nat) : State :=
  let s := if s.cur.live && s.fetchPlace.isSome then s else s.placeGroup
  match s.fetchPlace with
  | none => s
  | some pa =>
    let s := s.placeWord pa w
    { s with agenda := [.issue s.cur.key], cur := { s.cur with wait := .none, parked := false, safe := false } }

end Sys2Proof.Machine
end

