-- ==== Sys2Proof/Machine/Turn.lean ====
section
/-!
DEFINITION. Machine/Turn.lean: one turn of one agent: a group's issue (R70, R124, R242, R312), an event, time; and the fair
rule that names the next turn where the agenda names none (log entry 31).
-/

namespace Sys2Proof.Machine

/-! ### A group's issue -/

/-- A hint word (R29). -/
def hintWord (w : Word) : Bool := fld w.toNat 26 6 == 0x3D

/-- What a turn of a waiting group comes to (R20, R86, R124, R232): its word is issued again, its counter wait ends, or the
group stays as it is. -/
inductive Ready where
  | goes | counter | stays
  deriving DecidableEq, Repr

/-- The fault that stopped the shadow of the current group (R242); a group in its handler takes it when it has come back (log entry 70). -/
def State.shadowFault (s : State) : Option (Nat × DWord) :=
  if s.cur.key.shadow || s.cur.sup then none
  else (s.findGroup { s.cur.key with shadow := true }).bind (·.fault)

def State.ready (s : State) : Ready :=
  match s.cur.wait with
  | .none => .goes
  -- a trap ends a doze (R20)
  | .doze till => if till.toNat ≤ s.time.now || s.cur.dueFault.isSome || s.shadowFault.isSome then .goes else .stays
  | .counter _ _ _ _ => if s.counterReady s.cur then .counter else .stays
  | .claim _ => .stays
  | .span _ => .stays
  | .rets _ _ => .stays
  | .joint _ => .stays
  | .step _ _ => .goes
  | .receive _ => .goes
  | .send _ _ => .goes
  | .copySlot => .goes
  | .frame _ => .goes
  | .posted _ => .goes
  | .queue _ _ => .goes
  | .matrix _ _ _ => .goes
  | .again _ => .goes

/-- The group traps with its shadow's cause and TRAPVAL, and the shadow ends (R242). A fault of the group's own outstanding results is taken
in its place, and the shadow's after the return (R15); but where the two have one trapping point the lower cause is taken, and the other is
not recorded (R19). -/
def State.takeShadowFault (s : State) (c : Nat) (v : DWord) : State :=
  let s := s.settle
  if !s.cur.live then s else
  if !s.late.isEmpty then s.holdFor s.late else
  let shadows := fun (s : State) => (s.endShadow s.cur.key).takeTrap c 0 v s.cur.runFirst s.cur.runFirst
  match s.cur.firstFault with
  | some f => if s.cur.dueFault = some f && c < f.1 then shadows (s.setCur s.cur.clearFaults) else s.takeFault f s.cur.runFirst
  | none => shadows s

/-- The word fetched for issue: a hint word is executed at once; for any other, a fault whose trapping point has come is taken
first (R15), and the group waits for what its window asks for (R26). -/
noncomputable def State.issueWord (s : State) (w : Word) : Out :=
  let run := fun (s : State) => match decodeWord s.cur.sup w.toNat with
    | none => exec (.illegalWordFetch (.word w)) s
    | some i => guided i s.cur.pc (exec i s)
  if hintWord w then run s else
  match s.shadowFault with
  | some (c, v) => .next (s.takeShadowFault c v)
  | none =>
    match s.cur.dueFault with
    | some (c, v, o) => .next (s.raise c 0 v s.cur.runFirst o s.cur.runFirst)
    | none =>
      if s.blocked s.cur then
        .next (s.holdFor (((s.cur.pend.filter s.cur.spent).map (·.from_.num)).filter s.running))
      else run s

/-- The current group goes on: it rejoins where its pc or its empty mask asks for it (R70), what it must wait for lands as far
as it can (R26), and its next word is fetched and issued. -/
noncomputable def State.issueCur (s : State) : Out :=
  let s := State.settleForced (s.setCur { s.cur.rejoin (s.cur.stack.length + 1) with wait := if s.cur.wait.isDoze then .none else s.cur.wait })
  if !s.cur.live then .next s else
  match s.fetch with
  | (.error e, s) => exec (.illegalWordFetch e) s
  | (.ok w, s) => s.issueWord w

/-- The quarter that a group runs on (R110). -/
def quarterOf (k : GKey) : Nat := k.gid % 4

/-- A turn after which the word has not issued: it stalls, or it waited before and waits still (R124, R232). -/
def unissuedTurn (before after : Wait) : Bool := after.stalls || (before.holds && after.holds)

/-- The note that the current group of s has issued last on its quarter (R124), if its turn has come to an issue; a shadow takes none of
the quarter's issue cycles. -/
def State.noted (s : State) (o : Out) : Out :=
  match o with
  | .next t =>
    if s.cur.key.shadow || (t.findGroup s.cur.key).any (fun h => unissuedTurn s.cur.wait h.wait) then .next t
    else .next (t.onCore s.core.id (fun c => { c with issued := mapSet 0 c.issued (quarterOf s.owner) (s.cur.slot + 1) }))
  | o => o

/-- What a group's turn comes to once it has its quarter's issue slot. -/
noncomputable def State.goOn (s : State) : Out :=
  match s.ready with
  | .stays => .next s
  | .counter => .next s.finishCounter
  | .goes => s.noted s.issueCur

/-- Would a turn of the group come to an issue (R124)? Where its word could be tried, it is: the machine as it would be is looked at and
dropped. -/
noncomputable def State.couldIssue (s : State) (g : Group) : Bool :=
  let t := s.focus g.key
  !g.parked && g.fault.isNone &&
  (match t.ready with
   | .stays => false
   | .counter => true
   | .goes => match t.issueCur with
     | .next u => (u.findGroup g.key).all (fun h => !unissuedTurn g.wait h.wait)
     | _ => true)

/-- The next PC of a group (R70). -/
def Group.nextPc (g : Group) : Nat := (g.rejoin (g.stack.length + 1)).pc.toNat

/-- Under 16-lane compatibility a physical group serves, on each issue, all of its ready parts whose next PC is the lowest (R127), in the
order of its lanes (R185, R202). -/
noncomputable def State.serveParts (s : State) : Out :=
  let parts := s.partners.filter s.couldIssue
  if parts.isEmpty then s.goOn else
  let low := parts.foldl (fun m g => min m g.nextPc) (2 ^ 64)
  ((parts.filter (fun g => g.nextPc == low)).foldl (fun gs g => insertBy (fun a b => a.key.gid < b.key.gid) g gs) []).foldl
    (fun o g => match o with
      | .next s => if (s.findGroup g.key).isSome then (s.focus g.key).goOn else .next s
      | o => o) (.next s)

/-- A turn of a group: a group that was asked to park and can, parks (R28, R312); a waiting group stays, or goes on. -/
noncomputable def State.turnOf (s : State) (k : GKey) : Out :=
  match s.findGroup k with
  | none => .next s
  | some _ =>
    let s := s.focus k
    if s.cur.parked || s.cur.fault.isSome then .next s
    else if s.wg.asked && s.cur.canPark then .next s.parkCur
    else if s.compat then s.serveParts
    else s.goOn

/-! ### A move -/

/-- The events of the device: the instructions that no word encodes; a fetch that fails is none of them. -/
def isEvent (i : Instr) : Bool :=
  match i with
  | .illegalWordFetch _ => false
  | _ => (encode i).isNone

noncomputable def State.perform (s : State) (m : Move) : Out :=
  match m with
  | .event i => if isEvent i then exec i s else .next s
  | .issue k => s.turnOf k
  | .elapse ns => .next (s.watchHeads.elapse ns)
  | .copyWord id k => .next (s.copyWord id k)
  | .map leaf => .next (s.mapLeaf leaf)
  | .pageOut leaf => .next (s.pageOut leaf)
  | .cap d watts => .next (s.setCap d watts)
  | .packet m k => .next (s.placePacket m k)

/-! ### The fair rule -/

/-- Of the groups of one quarter the one to issue: the ready ones in slot order, from the slot after the last that issued; one
that gave way is passed over while another is ready (R31, R124). -/
noncomputable def State.pick (s : State) (gs : List Group) (after : Nat) : Option Group :=
  let ready := gs.filter s.couldIssue
  let ready := if ready.any (fun g => !g.gaveWay) then ready.filter (fun g => !g.gaveWay) else ready
  let far := fun (g : Group) => (g.slot + 128 - after % 128) % 128
  match ready with
  | [] => none
  | g :: rest => some (rest.foldl (fun m x => if far x < far m then x else m) g)

/-- A group that has not been seen to stall yet and whose next word would: its turn notes what it waits for, so that the checker sees it
(R246). -/
noncomputable def State.wouldStall (s : State) (g : Group) : Bool :=
  !g.parked && g.fault.isNone && !g.wait.holds && (s.focus g.key).ready == .goes && !s.couldIssue g

/-- The groups that may issue now: of each quarter of each core the one whose turn it is, and every ready shadow, which takes none of a
quarter's issue cycles (R124); and those whose next word would stall. -/
noncomputable def State.issuers (s : State) : List Group :=
  let mine := fun (c : Core) (q : Nat) => s.allGroups.filter (fun g => !g.key.shadow && (s.coreOf g).id == c.id &&
    quarterOf (s.physOf g.key c.id) == q)
  ((s.core :: s.cores).map (fun c => (List.range 4).filterMap (fun q => s.pick (mine c q) (mapGet 0 c.issued q)))).flatten ++
    s.allGroups.filter (fun g => (g.key.shadow && s.couldIssue g) || s.wouldStall g)

/-- Events of the engines and of the network that are under way. -/
noncomputable def State.engineMoves (s : State) : List Instr :=
  s.atomq.map (fun r => .atomicServiceRequest r.id) ++
  (s.copies.filter (fun c => c.sent.isNone)).map (fun c => .copyCompletion c.id) ++
  s.outMsgs.map (fun m => if m.next.isSome then .noBufferRetransmit ⟨m.id, false⟩ else .sendAcknowledgement m.id) ++
  (s.links.filter (·.2.retrain)).map (fun e => .linkRetrain e.1 true) ++
  ((s.core :: s.cores).filter (fun c => !c.mq.isEmpty)).map (fun c => .matrixCommandCompletion c.id) ++
  (s.allWgs.map (fun w => (w.joint.map (fun x => x.1 / 4)).eraseDups.map (fun q => .matrixCommandEntry w.uid q))).flatten ++
  (s.allLaunches.map (fun l => (List.range l.chans.length).map (fun k => Instr.channelEntryArrival l.uid k))).flatten ++
  (s.allLaunches.map (fun l => (List.range l.chans.length).map (fun k => Instr.toyBoxExtension l.uid k))).flatten

/-- Events of the span rendezvous, of steps and of NOPRE windows. -/
noncomputable def State.coreMoves (s : State) : List Instr :=
  let cs := s.core :: s.cores
  (cs.filter (fun c => c.rdv.any (fun r => r.phase == .energy))).map (fun c => .spanEnergyGrant c.id) ++
  (cs.filter (fun c => c.rdv.any (fun r => r.phase == .energy))).map (fun c => .spanEnergyTimeout c.id) ++
  (cs.filter (fun c => c.rdv.any (fun r => r.phase == .moving))).map (fun c => .spanMoveResume c.id) ++
  (cs.map (fun c => (c.paces.map (fun p => .stepBegin p.launch c.id ::
    (p.strings.up ++ p.strings.down).map (fun u => .stepEndArrival p.launch u c.id))).flatten)).flatten ++
  ((s.allGroups.filter (fun g => g.nopre == some 0)).map (fun g => .nopreWindowExpiry g.key))

/-- Events of workgroups, launches and dies. -/
noncomputable def State.dispatchMoves (s : State) : List Instr :=
  let launches := s.allLaunches.filter (fun l => l.uid ≠ 0)
  (s.allWgs.map (fun w => match w.status with
    | .handing _ _ => [.retsHandover w.uid]
    | .draining => [.workgroupRetirement w.uid]
    | .running => if w.asked then [.workgroupSave w.uid, .parkedGroupsUnpark w.uid, .preemptOverdue w.uid] else []
    | .saved _ => (s.restoreChoice w.uid).toList.map (fun c => .workgroupRestore w.uid c)
    | .gone => [])).flatten ++
  (launches.filter (fun l => l.state == .running)).map (fun l => .launchCompletion l.uid) ++
  (launches.filter (fun l => l.state == .ending)).map (fun l => .launchEndCompletion l.uid) ++
  ((List.range 4).filter (fun d => !(s.order d).isEmpty || launches.any (fun l => l.state == .pooled && l.poolDie == some d))).map
    (fun d => .workgroupPlacement d) ++
  ((List.range 4).filter (fun d => !(s.order d).isEmpty)).map (fun d => .preemptionRequest d) ++
  (s.clusters.filter (fun c => c.2.testing.isSome)).map (fun c => .inFieldTestDeadline c.1) ++
  (s.clusters.filter (fun c => c.2.inTest)).map (fun c => .inFieldTestEnd c.1)

/-- The fair rule: every eighth turn, or every turn while no group can go on, is an event's, in turn, or the checker's, or 100 ns
pass; the others are the quarters', in turn. -/
noncomputable def State.fairMove (s : State) : Move :=
  let gs := s.issuers
  let ms := (s.engineMoves ++ s.coreMoves ++ s.dispatchMoves).map Move.event
  let ms := .elapse 100 :: .event .waitForCheckerReport :: ms
  if gs.isEmpty then ms.getD (s.turn % ms.length) (.elapse 100)
  else if s.turn % 8 = 0 then ms.getD (s.turn / 8 % ms.length) (.elapse 100)
  else .issue ((gs.getD (s.turn % gs.length) s.cur).key)

/-- The next move and the state without it. -/
noncomputable def State.nextMove (s : State) : Move × State :=
  match s.agenda with
  | m :: ms => (m, { s with agenda := ms })
  | [] => (s.fairMove, { s with turn := s.turn + 1 })

end Sys2Proof.Machine
end

