-- ==== Sys2Proof/Machine/Step.lean ====
section
/-!
DEFINITION. Machine/Step.lean: one step of the machine, the next move of the agenda or of the fair rule; and placing an
instruction where the next step fetches it.
-/

namespace Sys2Proof.Machine

noncomputable def step (s : State) : Host.Outcome State Fault Refusal :=
  s.nextMove.2.perform s.nextMove.1

/-- The instruction of these bits stands where the next step fetches (log entry 30). -/
def State.withFetchWord (s : State) (nbits w : Nat) : State := s.placeNext (w % 2 ^ nbits)

end Sys2Proof.Machine
end

