-- ==== Sys2Proof/Laws/Maps.lean ====
section
/-!
SUPPORT. Laws/Maps.lean: reading after writing in a sorted map, and that every write keeps the canonical form.
-/

namespace Sys2Proof.Machine
variable {β : Type}

theorem mapGet_erase (d : β) (m : SMap β) (i j : Nat) : mapGet d (mapErase m i) j = if j = i then d else mapGet d m j := by
  induction m with
  | nil => simp [mapErase, mapGet]
  | cons e m ih =>
    obtain ⟨k, x⟩ := e
    simp only [mapErase, mapGet]
    split <;> simp only [mapGet, ih] <;> split_ifs <;> first | rfl | (exfalso; omega)

theorem mapGet_ins (d : β) (m : SMap β) (i j : Nat) (x : β) (h : mapErase m i = m) :
    mapGet d (mapIns i x m) j = if j = i then x else mapGet d m j := by
  induction m with
  | nil => simp only [mapIns, mapGet]; split_ifs <;> first | rfl | (exfalso; omega)
  | cons e m ih =>
    obtain ⟨k, y⟩ := e
    have hk : ¬ k = i ∧ mapErase m i = m := by
      simp only [mapErase] at h
      split at h
      · exact absurd (congrArg List.length h) (by
          have : ∀ (m : SMap β) (i : Nat), (mapErase m i).length ≤ m.length := by
            intro m i
            induction m with
            | nil => simp [mapErase]
            | cons e m ih => obtain ⟨k, y⟩ := e; simp only [mapErase]; split <;> simp <;> omega
          have := this m i
          simp; omega)
      · exact ⟨by assumption, (List.cons.inj h).2⟩
    simp only [mapIns]
    split <;> simp only [mapGet, ih hk.2] <;> split_ifs <;> first | rfl | (exfalso; omega)

theorem mapErase_erase (m : SMap β) (i : Nat) : mapErase (mapErase m i) i = mapErase m i := by
  induction m with
  | nil => rfl
  | cons e m ih => obtain ⟨k, x⟩ := e; simp only [mapErase]; split <;> simp_all [mapErase]

variable [DecidableEq β]

/-- A read after a write. -/
theorem mapGet_mapSet (d : β) (m : SMap β) (i j : Nat) (x : β) :
    mapGet d (mapSet d m i x) j = if j = i then x else mapGet d m j := by
  unfold mapSet
  split
  · rw [mapGet_erase]; split_ifs <;> simp_all
  · rw [mapGet_ins _ _ _ _ _ (mapErase_erase m i), mapGet_erase]; split_ifs <;> rfl

@[simp] theorem mapGet_mapSet_same (d : β) (m : SMap β) (i : Nat) (x : β) : mapGet d (mapSet d m i x) i = x := by
  simp [mapGet_mapSet]

theorem mapGet_mapSet_ne (d : β) (m : SMap β) {i j : Nat} (x : β) (h : j ≠ i) :
    mapGet d (mapSet d m i x) j = mapGet d m j := by simp [mapGet_mapSet, h]

/-- Reading a byte after writing consecutive ones. -/
theorem mapGet_setList (d : β) (xs : List β) : ∀ (m : SMap β) (i j : Nat),
    mapGet d (mapSetList d m i xs) j = if i ≤ j ∧ j < i + xs.length then xs.getD (j - i) d else mapGet d m j := by
  induction xs with
  | nil => intro m i j; simp only [mapSetList, List.length_nil]; rw [if_neg (by omega)]
  | cons x xs ih =>
    intro m i j
    simp only [mapSetList, ih, mapGet_mapSet, List.length_cons]
    by_cases h1 : i + 1 ≤ j ∧ j < i + 1 + xs.length
    · rw [if_pos h1, if_pos (by omega)]
      obtain ⟨k, rfl⟩ : ∃ k, j = i + 1 + k := ⟨j - (i + 1), by omega⟩
      simp [show i + 1 + k - i = k + 1 by omega]
    · rw [if_neg h1]
      by_cases h2 : j = i
      · subst h2; rw [if_pos rfl, if_pos (by omega)]; simp
      · rw [if_neg h2, if_neg (by omega)]

omit [DecidableEq β] in

theorem mapGetList_length (d : β) (m : SMap β) (n : Nat) : ∀ i, (mapGetList d m i n).length = n := by
  induction n with
  | zero => intro i; rfl
  | succ n ih => intro i; simp [mapGetList, ih]

/-! ### The canonical form -/

theorem mapWfFrom_mono (d : β) (m : SMap β) {lo lo' : Nat} (h : lo' ≤ lo) (w : mapWfFrom d (some lo) m = true) :
    mapWfFrom d (some lo') m = true := by
  cases m with
  | nil => rfl
  | cons e m =>
    obtain ⟨k, x⟩ := e
    simp only [mapWfFrom, Bool.and_eq_true, decide_eq_true_eq] at *
    exact ⟨⟨by omega, w.1.2⟩, w.2⟩

theorem mapWfFrom_none (d : β) (m : SMap β) {lo : Option Nat} (w : mapWfFrom d lo m = true) : mapWfFrom d none m = true := by
  cases m with
  | nil => rfl
  | cons e m =>
    obtain ⟨k, x⟩ := e
    simp only [mapWfFrom, Bool.and_eq_true] at *
    exact ⟨⟨trivial, w.1.2⟩, w.2⟩

theorem mapWfFrom_erase (d : β) (i : Nat) (m : SMap β) : ∀ lo, mapWfFrom d lo m = true → mapWfFrom d lo (mapErase m i) = true := by
  induction m with
  | nil => intro lo h; exact h
  | cons e m ih =>
    obtain ⟨k, x⟩ := e
    intro lo h
    simp only [mapWfFrom, Bool.and_eq_true] at h
    simp only [mapErase]
    split
    · have h2 := ih _ h.2
      cases lo with
      | none => exact mapWfFrom_none d _ h2
      | some l =>
        refine mapWfFrom_mono d _ ?_ h2
        have := h.1.1
        simp at this; omega
    · simp only [mapWfFrom, Bool.and_eq_true]
      exact ⟨h.1, ih _ h.2⟩

theorem mapWfFrom_ins (d : β) (i : Nat) (x : β) (hx : x ≠ d) (m : SMap β) : ∀ lo, mapWfFrom d lo m = true →
    mapErase m i = m → (∀ l, lo = some l → l < i) → mapWfFrom d lo (mapIns i x m) = true := by
  induction m with
  | nil =>
    intro lo _ _ hl
    simp only [mapIns, mapWfFrom, Bool.and_eq_true, decide_eq_true_eq, and_true]
    refine ⟨?_, hx⟩
    cases lo with
    | none => rfl
    | some l => simpa using hl l rfl
  | cons e m ih =>
    obtain ⟨k, y⟩ := e
    intro lo h he hl
    have hk : ¬ k = i := by
      intro hk
      have : (mapErase m i).length ≤ m.length := by
        clear ih h he
        induction m with
        | nil => simp [mapErase]
        | cons e m ih => obtain ⟨k, y⟩ := e; simp only [mapErase]; split <;> simp <;> omega
      simp only [mapErase, hk, if_true] at he
      have := congrArg List.length he
      simp at this; omega
    simp only [mapErase, hk, if_false] at he
    have he := (List.cons.inj he).2
    simp only [mapWfFrom, Bool.and_eq_true] at h
    simp only [mapIns]
    split
    · rename_i hlt
      simp only [mapWfFrom, Bool.and_eq_true, decide_eq_true_eq] at *
      refine ⟨⟨?_, hx⟩, ⟨hlt, h.1.2⟩, h.2⟩
      cases lo with
      | none => rfl
      | some l => simpa using hl l rfl
    · rename_i hge
      simp only [mapWfFrom, Bool.and_eq_true]
      refine ⟨h.1, ih _ h.2 he ?_⟩
      intro l hl'
      cases hl'
      omega

/-- A write keeps the canonical form. -/
theorem mapWf_mapSet (d : β) (m : SMap β) (i : Nat) (x : β) (h : mapWf d m = true) : mapWf d (mapSet d m i x) = true := by
  unfold mapWf mapSet at *
  split
  · exact mapWfFrom_erase d i m _ h
  · rename_i hx
    exact mapWfFrom_ins d i x hx _ _ (mapWfFrom_erase d i m _ h) (mapErase_erase m i) (by simp)

theorem mapWf_setList (d : β) (xs : List β) : ∀ (m : SMap β) (i : Nat), mapWf d m = true → mapWf d (mapSetList d m i xs) = true := by
  induction xs with
  | nil => intro m i h; exact h
  | cons x xs ih => intro m i h; exact ih _ _ (mapWf_mapSet d m i x h)

end Sys2Proof.Machine
end

