-- ==== Sys2Proof/Laws/State.lean ====
section
/-!
SUPPORT. Laws/State.lean: what each named update of the state leaves as it was and what it sets, one lemma per field, so that
no later proof unfolds a record update.
-/

namespace Sys2Proof.Machine

/-! ### State -/

@[simp] theorem State.setCur_groups (s : State) (g : Group) : (s.setCur g).groups = s.groups := rfl
@[simp] theorem State.setCur_wg (s : State) (g : Group) : (s.setCur g).wg = s.wg := rfl
@[simp] theorem State.setCur_wgs (s : State) (g : Group) : (s.setCur g).wgs = s.wgs := rfl
@[simp] theorem State.setCur_core (s : State) (g : Group) : (s.setCur g).core = s.core := rfl
@[simp] theorem State.setCur_cores (s : State) (g : Group) : (s.setCur g).cores = s.cores := rfl
@[simp] theorem State.setCur_launch (s : State) (g : Group) : (s.setCur g).launch = s.launch := rfl
@[simp] theorem State.setCur_launches (s : State) (g : Group) : (s.setCur g).launches = s.launches := rfl
@[simp] theorem State.setCur_dies (s : State) (g : Group) : (s.setCur g).dies = s.dies := rfl
@[simp] theorem State.setCur_mem (s : State) (g : Group) : (s.setCur g).mem = s.mem := rfl
@[simp] theorem State.setCur_memBad (s : State) (g : Group) : (s.setCur g).memBad = s.memBad := rfl
@[simp] theorem State.setCur_hist (s : State) (g : Group) : (s.setCur g).hist = s.hist := rfl
@[simp] theorem State.setCur_atomq (s : State) (g : Group) : (s.setCur g).atomq = s.atomq := rfl
@[simp] theorem State.setCur_copies (s : State) (g : Group) : (s.setCur g).copies = s.copies := rfl
@[simp] theorem State.setCur_outMsgs (s : State) (g : Group) : (s.setCur g).outMsgs = s.outMsgs := rfl
@[simp] theorem State.setCur_inbound (s : State) (g : Group) : (s.setCur g).inbound = s.inbound := rfl
@[simp] theorem State.setCur_tables (s : State) (g : Group) : (s.setCur g).tables = s.tables := rfl
@[simp] theorem State.setCur_objects (s : State) (g : Group) : (s.setCur g).objects = s.objects := rfl
@[simp] theorem State.setCur_homes (s : State) (g : Group) : (s.setCur g).homes = s.homes := rfl
@[simp] theorem State.setCur_paged (s : State) (g : Group) : (s.setCur g).paged = s.paged := rfl
@[simp] theorem State.setCur_accepted (s : State) (g : Group) : (s.setCur g).accepted = s.accepted := rfl
@[simp] theorem State.setCur_hubLoad (s : State) (g : Group) : (s.setCur g).hubLoad = s.hubLoad := rfl
@[simp] theorem State.setCur_cap (s : State) (g : Group) : (s.setCur g).cap = s.cap := rfl
@[simp] theorem State.setCur_time (s : State) (g : Group) : (s.setCur g).time = s.time := rfl
@[simp] theorem State.setCur_traces (s : State) (g : Group) : (s.setCur g).traces = s.traces := rfl
@[simp] theorem State.setCur_seqs (s : State) (g : Group) : (s.setCur g).seqs = s.seqs := rfl
@[simp] theorem State.setCur_links (s : State) (g : Group) : (s.setCur g).links = s.links := rfl
@[simp] theorem State.setCur_clusters (s : State) (g : Group) : (s.setCur g).clusters = s.clusters := rfl
@[simp] theorem State.setCur_power (s : State) (g : Group) : (s.setCur g).power = s.power := rfl
@[simp] theorem State.setCur_digests (s : State) (g : Group) : (s.setCur g).digests = s.digests := rfl
@[simp] theorem State.setCur_report (s : State) (g : Group) : (s.setCur g).report = s.report := rfl
@[simp] theorem State.setCur_phase (s : State) (g : Group) : (s.setCur g).phase = s.phase := rfl
@[simp] theorem State.setCur_failed (s : State) (g : Group) : (s.setCur g).failed = s.failed := rfl
@[simp] theorem State.setCur_answers (s : State) (g : Group) : (s.setCur g).answers = s.answers := rfl
@[simp] theorem State.setCur_withdrawn (s : State) (g : Group) : (s.setCur g).withdrawn = s.withdrawn := rfl
@[simp] theorem State.setCur_endpoints (s : State) (g : Group) : (s.setCur g).endpoints = s.endpoints := rfl
@[simp] theorem State.setCur_appKnow (s : State) (g : Group) : (s.setCur g).appKnow = s.appKnow := rfl
@[simp] theorem State.setCur_nextId (s : State) (g : Group) : (s.setCur g).nextId = s.nextId := rfl
@[simp] theorem State.setCur_cycleId (s : State) (g : Group) : (s.setCur g).cycleId = s.cycleId := rfl
@[simp] theorem State.setCur_free (s : State) (g : Group) : (s.setCur g).free = s.free := rfl
@[simp] theorem State.setCur_agenda (s : State) (g : Group) : (s.setCur g).agenda = s.agenda := rfl
@[simp] theorem State.setCur_turn (s : State) (g : Group) : (s.setCur g).turn = s.turn := rfl
@[simp] theorem State.setCur_cur (s : State) (g : Group) : (s.setCur g).cur = g := rfl
@[simp] theorem State.setCur_setCur (s : State) (g h : Group) : (s.setCur g).setCur h = s.setCur h := rfl
@[simp] theorem State.setCur_self (s : State) : s.setCur s.cur = s := rfl
@[simp] theorem State.tick_cur (s : State) : (s.tick).cur = s.cur := rfl
@[simp] theorem State.tick_groups (s : State) : (s.tick).groups = s.groups := rfl
@[simp] theorem State.tick_wg (s : State) : (s.tick).wg = s.wg := rfl
@[simp] theorem State.tick_wgs (s : State) : (s.tick).wgs = s.wgs := rfl
@[simp] theorem State.tick_core (s : State) : (s.tick).core = s.core := rfl
@[simp] theorem State.tick_cores (s : State) : (s.tick).cores = s.cores := rfl
@[simp] theorem State.tick_launch (s : State) : (s.tick).launch = s.launch := rfl
@[simp] theorem State.tick_launches (s : State) : (s.tick).launches = s.launches := rfl
@[simp] theorem State.tick_dies (s : State) : (s.tick).dies = s.dies := rfl
@[simp] theorem State.tick_mem (s : State) : (s.tick).mem = s.mem := rfl
@[simp] theorem State.tick_memBad (s : State) : (s.tick).memBad = s.memBad := rfl
@[simp] theorem State.tick_hist (s : State) : (s.tick).hist = s.hist := rfl
@[simp] theorem State.tick_atomq (s : State) : (s.tick).atomq = s.atomq := rfl
@[simp] theorem State.tick_copies (s : State) : (s.tick).copies = s.copies := rfl
@[simp] theorem State.tick_outMsgs (s : State) : (s.tick).outMsgs = s.outMsgs := rfl
@[simp] theorem State.tick_inbound (s : State) : (s.tick).inbound = s.inbound := rfl
@[simp] theorem State.tick_tables (s : State) : (s.tick).tables = s.tables := rfl
@[simp] theorem State.tick_objects (s : State) : (s.tick).objects = s.objects := rfl
@[simp] theorem State.tick_homes (s : State) : (s.tick).homes = s.homes := rfl
@[simp] theorem State.tick_paged (s : State) : (s.tick).paged = s.paged := rfl
@[simp] theorem State.tick_accepted (s : State) : (s.tick).accepted = s.accepted := rfl
@[simp] theorem State.tick_hubLoad (s : State) : (s.tick).hubLoad = s.hubLoad := rfl
@[simp] theorem State.tick_cap (s : State) : (s.tick).cap = s.cap := rfl
@[simp] theorem State.tick_time (s : State) : (s.tick).time = s.time := rfl
@[simp] theorem State.tick_traces (s : State) : (s.tick).traces = s.traces := rfl
@[simp] theorem State.tick_seqs (s : State) : (s.tick).seqs = s.seqs := rfl
@[simp] theorem State.tick_links (s : State) : (s.tick).links = s.links := rfl
@[simp] theorem State.tick_clusters (s : State) : (s.tick).clusters = s.clusters := rfl
@[simp] theorem State.tick_power (s : State) : (s.tick).power = s.power := rfl
@[simp] theorem State.tick_digests (s : State) : (s.tick).digests = s.digests := rfl
@[simp] theorem State.tick_report (s : State) : (s.tick).report = s.report := rfl
@[simp] theorem State.tick_phase (s : State) : (s.tick).phase = s.phase := rfl
@[simp] theorem State.tick_failed (s : State) : (s.tick).failed = s.failed := rfl
@[simp] theorem State.tick_answers (s : State) : (s.tick).answers = s.answers := rfl
@[simp] theorem State.tick_withdrawn (s : State) : (s.tick).withdrawn = s.withdrawn := rfl
@[simp] theorem State.tick_endpoints (s : State) : (s.tick).endpoints = s.endpoints := rfl
@[simp] theorem State.tick_appKnow (s : State) : (s.tick).appKnow = s.appKnow := rfl
@[simp] theorem State.tick_nextId (s : State) : (s.tick).nextId = s.nextId := rfl
@[simp] theorem State.tick_cycleId (s : State) : (s.tick).cycleId = s.cycleId := rfl
@[simp] theorem State.tick_agenda (s : State) : (s.tick).agenda = s.agenda := rfl
@[simp] theorem State.tick_turn (s : State) : (s.tick).turn = s.turn := rfl
@[simp] theorem State.tick_free (s : State) : s.tick.free = s.free + 1 := rfl
@[simp] theorem State.onGroups_wg (s : State) (f : Group → Group) : (s.onGroups f).wg = s.wg := rfl
@[simp] theorem State.onGroups_wgs (s : State) (f : Group → Group) : (s.onGroups f).wgs = s.wgs := rfl
@[simp] theorem State.onGroups_core (s : State) (f : Group → Group) : (s.onGroups f).core = s.core := rfl
@[simp] theorem State.onGroups_cores (s : State) (f : Group → Group) : (s.onGroups f).cores = s.cores := rfl
@[simp] theorem State.onGroups_launch (s : State) (f : Group → Group) : (s.onGroups f).launch = s.launch := rfl
@[simp] theorem State.onGroups_launches (s : State) (f : Group → Group) : (s.onGroups f).launches = s.launches := rfl
@[simp] theorem State.onGroups_dies (s : State) (f : Group → Group) : (s.onGroups f).dies = s.dies := rfl
@[simp] theorem State.onGroups_mem (s : State) (f : Group → Group) : (s.onGroups f).mem = s.mem := rfl
@[simp] theorem State.onGroups_memBad (s : State) (f : Group → Group) : (s.onGroups f).memBad = s.memBad := rfl
@[simp] theorem State.onGroups_hist (s : State) (f : Group → Group) : (s.onGroups f).hist = s.hist := rfl
@[simp] theorem State.onGroups_atomq (s : State) (f : Group → Group) : (s.onGroups f).atomq = s.atomq := rfl
@[simp] theorem State.onGroups_copies (s : State) (f : Group → Group) : (s.onGroups f).copies = s.copies := rfl
@[simp] theorem State.onGroups_outMsgs (s : State) (f : Group → Group) : (s.onGroups f).outMsgs = s.outMsgs := rfl
@[simp] theorem State.onGroups_inbound (s : State) (f : Group → Group) : (s.onGroups f).inbound = s.inbound := rfl
@[simp] theorem State.onGroups_tables (s : State) (f : Group → Group) : (s.onGroups f).tables = s.tables := rfl
@[simp] theorem State.onGroups_objects (s : State) (f : Group → Group) : (s.onGroups f).objects = s.objects := rfl
@[simp] theorem State.onGroups_homes (s : State) (f : Group → Group) : (s.onGroups f).homes = s.homes := rfl
@[simp] theorem State.onGroups_paged (s : State) (f : Group → Group) : (s.onGroups f).paged = s.paged := rfl
@[simp] theorem State.onGroups_accepted (s : State) (f : Group → Group) : (s.onGroups f).accepted = s.accepted := rfl
@[simp] theorem State.onGroups_hubLoad (s : State) (f : Group → Group) : (s.onGroups f).hubLoad = s.hubLoad := rfl
@[simp] theorem State.onGroups_cap (s : State) (f : Group → Group) : (s.onGroups f).cap = s.cap := rfl
@[simp] theorem State.onGroups_time (s : State) (f : Group → Group) : (s.onGroups f).time = s.time := rfl
@[simp] theorem State.onGroups_traces (s : State) (f : Group → Group) : (s.onGroups f).traces = s.traces := rfl
@[simp] theorem State.onGroups_seqs (s : State) (f : Group → Group) : (s.onGroups f).seqs = s.seqs := rfl
@[simp] theorem State.onGroups_links (s : State) (f : Group → Group) : (s.onGroups f).links = s.links := rfl
@[simp] theorem State.onGroups_clusters (s : State) (f : Group → Group) : (s.onGroups f).clusters = s.clusters := rfl
@[simp] theorem State.onGroups_power (s : State) (f : Group → Group) : (s.onGroups f).power = s.power := rfl
@[simp] theorem State.onGroups_digests (s : State) (f : Group → Group) : (s.onGroups f).digests = s.digests := rfl
@[simp] theorem State.onGroups_report (s : State) (f : Group → Group) : (s.onGroups f).report = s.report := rfl
@[simp] theorem State.onGroups_phase (s : State) (f : Group → Group) : (s.onGroups f).phase = s.phase := rfl
@[simp] theorem State.onGroups_failed (s : State) (f : Group → Group) : (s.onGroups f).failed = s.failed := rfl
@[simp] theorem State.onGroups_answers (s : State) (f : Group → Group) : (s.onGroups f).answers = s.answers := rfl
@[simp] theorem State.onGroups_withdrawn (s : State) (f : Group → Group) : (s.onGroups f).withdrawn = s.withdrawn := rfl
@[simp] theorem State.onGroups_endpoints (s : State) (f : Group → Group) : (s.onGroups f).endpoints = s.endpoints := rfl
@[simp] theorem State.onGroups_appKnow (s : State) (f : Group → Group) : (s.onGroups f).appKnow = s.appKnow := rfl
@[simp] theorem State.onGroups_nextId (s : State) (f : Group → Group) : (s.onGroups f).nextId = s.nextId := rfl
@[simp] theorem State.onGroups_cycleId (s : State) (f : Group → Group) : (s.onGroups f).cycleId = s.cycleId := rfl
@[simp] theorem State.onGroups_free (s : State) (f : Group → Group) : (s.onGroups f).free = s.free := rfl
@[simp] theorem State.onGroups_agenda (s : State) (f : Group → Group) : (s.onGroups f).agenda = s.agenda := rfl
@[simp] theorem State.onGroups_turn (s : State) (f : Group → Group) : (s.onGroups f).turn = s.turn := rfl
@[simp] theorem State.onGroups_cur (s : State) (f : Group → Group) : (s.onGroups f).cur = f s.cur := rfl
@[simp] theorem State.onGroups_groups (s : State) (f : Group → Group) : (s.onGroups f).groups = s.groups.map f := rfl
@[simp] theorem State.onGroup_wg (s : State) (k : GKey) (f : Group → Group) : (s.onGroup k f).wg = s.wg := rfl
@[simp] theorem State.onGroup_wgs (s : State) (k : GKey) (f : Group → Group) : (s.onGroup k f).wgs = s.wgs := rfl
@[simp] theorem State.onGroup_core (s : State) (k : GKey) (f : Group → Group) : (s.onGroup k f).core = s.core := rfl
@[simp] theorem State.onGroup_cores (s : State) (k : GKey) (f : Group → Group) : (s.onGroup k f).cores = s.cores := rfl
@[simp] theorem State.onGroup_launch (s : State) (k : GKey) (f : Group → Group) : (s.onGroup k f).launch = s.launch := rfl
@[simp] theorem State.onGroup_launches (s : State) (k : GKey) (f : Group → Group) : (s.onGroup k f).launches = s.launches := rfl
@[simp] theorem State.onGroup_dies (s : State) (k : GKey) (f : Group → Group) : (s.onGroup k f).dies = s.dies := rfl
@[simp] theorem State.onGroup_mem (s : State) (k : GKey) (f : Group → Group) : (s.onGroup k f).mem = s.mem := rfl
@[simp] theorem State.onGroup_memBad (s : State) (k : GKey) (f : Group → Group) : (s.onGroup k f).memBad = s.memBad := rfl
@[simp] theorem State.onGroup_hist (s : State) (k : GKey) (f : Group → Group) : (s.onGroup k f).hist = s.hist := rfl
@[simp] theorem State.onGroup_atomq (s : State) (k : GKey) (f : Group → Group) : (s.onGroup k f).atomq = s.atomq := rfl
@[simp] theorem State.onGroup_copies (s : State) (k : GKey) (f : Group → Group) : (s.onGroup k f).copies = s.copies := rfl
@[simp] theorem State.onGroup_outMsgs (s : State) (k : GKey) (f : Group → Group) : (s.onGroup k f).outMsgs = s.outMsgs := rfl
@[simp] theorem State.onGroup_inbound (s : State) (k : GKey) (f : Group → Group) : (s.onGroup k f).inbound = s.inbound := rfl
@[simp] theorem State.onGroup_tables (s : State) (k : GKey) (f : Group → Group) : (s.onGroup k f).tables = s.tables := rfl
@[simp] theorem State.onGroup_objects (s : State) (k : GKey) (f : Group → Group) : (s.onGroup k f).objects = s.objects := rfl
@[simp] theorem State.onGroup_homes (s : State) (k : GKey) (f : Group → Group) : (s.onGroup k f).homes = s.homes := rfl
@[simp] theorem State.onGroup_paged (s : State) (k : GKey) (f : Group → Group) : (s.onGroup k f).paged = s.paged := rfl
@[simp] theorem State.onGroup_accepted (s : State) (k : GKey) (f : Group → Group) : (s.onGroup k f).accepted = s.accepted := rfl
@[simp] theorem State.onGroup_hubLoad (s : State) (k : GKey) (f : Group → Group) : (s.onGroup k f).hubLoad = s.hubLoad := rfl
@[simp] theorem State.onGroup_cap (s : State) (k : GKey) (f : Group → Group) : (s.onGroup k f).cap = s.cap := rfl
@[simp] theorem State.onGroup_time (s : State) (k : GKey) (f : Group → Group) : (s.onGroup k f).time = s.time := rfl
@[simp] theorem State.onGroup_traces (s : State) (k : GKey) (f : Group → Group) : (s.onGroup k f).traces = s.traces := rfl
@[simp] theorem State.onGroup_seqs (s : State) (k : GKey) (f : Group → Group) : (s.onGroup k f).seqs = s.seqs := rfl
@[simp] theorem State.onGroup_links (s : State) (k : GKey) (f : Group → Group) : (s.onGroup k f).links = s.links := rfl
@[simp] theorem State.onGroup_clusters (s : State) (k : GKey) (f : Group → Group) : (s.onGroup k f).clusters = s.clusters := rfl
@[simp] theorem State.onGroup_power (s : State) (k : GKey) (f : Group → Group) : (s.onGroup k f).power = s.power := rfl
@[simp] theorem State.onGroup_digests (s : State) (k : GKey) (f : Group → Group) : (s.onGroup k f).digests = s.digests := rfl
@[simp] theorem State.onGroup_report (s : State) (k : GKey) (f : Group → Group) : (s.onGroup k f).report = s.report := rfl
@[simp] theorem State.onGroup_phase (s : State) (k : GKey) (f : Group → Group) : (s.onGroup k f).phase = s.phase := rfl
@[simp] theorem State.onGroup_failed (s : State) (k : GKey) (f : Group → Group) : (s.onGroup k f).failed = s.failed := rfl
@[simp] theorem State.onGroup_answers (s : State) (k : GKey) (f : Group → Group) : (s.onGroup k f).answers = s.answers := rfl
@[simp] theorem State.onGroup_withdrawn (s : State) (k : GKey) (f : Group → Group) : (s.onGroup k f).withdrawn = s.withdrawn := rfl
@[simp] theorem State.onGroup_endpoints (s : State) (k : GKey) (f : Group → Group) : (s.onGroup k f).endpoints = s.endpoints := rfl
@[simp] theorem State.onGroup_appKnow (s : State) (k : GKey) (f : Group → Group) : (s.onGroup k f).appKnow = s.appKnow := rfl
@[simp] theorem State.onGroup_nextId (s : State) (k : GKey) (f : Group → Group) : (s.onGroup k f).nextId = s.nextId := rfl
@[simp] theorem State.onGroup_cycleId (s : State) (k : GKey) (f : Group → Group) : (s.onGroup k f).cycleId = s.cycleId := rfl
@[simp] theorem State.onGroup_free (s : State) (k : GKey) (f : Group → Group) : (s.onGroup k f).free = s.free := rfl
@[simp] theorem State.onGroup_agenda (s : State) (k : GKey) (f : Group → Group) : (s.onGroup k f).agenda = s.agenda := rfl
@[simp] theorem State.onGroup_turn (s : State) (k : GKey) (f : Group → Group) : (s.onGroup k f).turn = s.turn := rfl
@[simp] theorem State.onWgs_cur (s : State) (f : Workgroup → Workgroup) : (s.onWgs f).cur = s.cur := rfl
@[simp] theorem State.onWgs_groups (s : State) (f : Workgroup → Workgroup) : (s.onWgs f).groups = s.groups := rfl
@[simp] theorem State.onWgs_core (s : State) (f : Workgroup → Workgroup) : (s.onWgs f).core = s.core := rfl
@[simp] theorem State.onWgs_cores (s : State) (f : Workgroup → Workgroup) : (s.onWgs f).cores = s.cores := rfl
@[simp] theorem State.onWgs_launch (s : State) (f : Workgroup → Workgroup) : (s.onWgs f).launch = s.launch := rfl
@[simp] theorem State.onWgs_launches (s : State) (f : Workgroup → Workgroup) : (s.onWgs f).launches = s.launches := rfl
@[simp] theorem State.onWgs_dies (s : State) (f : Workgroup → Workgroup) : (s.onWgs f).dies = s.dies := rfl
@[simp] theorem State.onWgs_mem (s : State) (f : Workgroup → Workgroup) : (s.onWgs f).mem = s.mem := rfl
@[simp] theorem State.onWgs_memBad (s : State) (f : Workgroup → Workgroup) : (s.onWgs f).memBad = s.memBad := rfl
@[simp] theorem State.onWgs_hist (s : State) (f : Workgroup → Workgroup) : (s.onWgs f).hist = s.hist := rfl
@[simp] theorem State.onWgs_atomq (s : State) (f : Workgroup → Workgroup) : (s.onWgs f).atomq = s.atomq := rfl
@[simp] theorem State.onWgs_copies (s : State) (f : Workgroup → Workgroup) : (s.onWgs f).copies = s.copies := rfl
@[simp] theorem State.onWgs_outMsgs (s : State) (f : Workgroup → Workgroup) : (s.onWgs f).outMsgs = s.outMsgs := rfl
@[simp] theorem State.onWgs_inbound (s : State) (f : Workgroup → Workgroup) : (s.onWgs f).inbound = s.inbound := rfl
@[simp] theorem State.onWgs_tables (s : State) (f : Workgroup → Workgroup) : (s.onWgs f).tables = s.tables := rfl
@[simp] theorem State.onWgs_objects (s : State) (f : Workgroup → Workgroup) : (s.onWgs f).objects = s.objects := rfl
@[simp] theorem State.onWgs_homes (s : State) (f : Workgroup → Workgroup) : (s.onWgs f).homes = s.homes := rfl
@[simp] theorem State.onWgs_paged (s : State) (f : Workgroup → Workgroup) : (s.onWgs f).paged = s.paged := rfl
@[simp] theorem State.onWgs_accepted (s : State) (f : Workgroup → Workgroup) : (s.onWgs f).accepted = s.accepted := rfl
@[simp] theorem State.onWgs_hubLoad (s : State) (f : Workgroup → Workgroup) : (s.onWgs f).hubLoad = s.hubLoad := rfl
@[simp] theorem State.onWgs_cap (s : State) (f : Workgroup → Workgroup) : (s.onWgs f).cap = s.cap := rfl
@[simp] theorem State.onWgs_time (s : State) (f : Workgroup → Workgroup) : (s.onWgs f).time = s.time := rfl
@[simp] theorem State.onWgs_traces (s : State) (f : Workgroup → Workgroup) : (s.onWgs f).traces = s.traces := rfl
@[simp] theorem State.onWgs_seqs (s : State) (f : Workgroup → Workgroup) : (s.onWgs f).seqs = s.seqs := rfl
@[simp] theorem State.onWgs_links (s : State) (f : Workgroup → Workgroup) : (s.onWgs f).links = s.links := rfl
@[simp] theorem State.onWgs_clusters (s : State) (f : Workgroup → Workgroup) : (s.onWgs f).clusters = s.clusters := rfl
@[simp] theorem State.onWgs_power (s : State) (f : Workgroup → Workgroup) : (s.onWgs f).power = s.power := rfl
@[simp] theorem State.onWgs_digests (s : State) (f : Workgroup → Workgroup) : (s.onWgs f).digests = s.digests := rfl
@[simp] theorem State.onWgs_report (s : State) (f : Workgroup → Workgroup) : (s.onWgs f).report = s.report := rfl
@[simp] theorem State.onWgs_phase (s : State) (f : Workgroup → Workgroup) : (s.onWgs f).phase = s.phase := rfl
@[simp] theorem State.onWgs_failed (s : State) (f : Workgroup → Workgroup) : (s.onWgs f).failed = s.failed := rfl
@[simp] theorem State.onWgs_answers (s : State) (f : Workgroup → Workgroup) : (s.onWgs f).answers = s.answers := rfl
@[simp] theorem State.onWgs_withdrawn (s : State) (f : Workgroup → Workgroup) : (s.onWgs f).withdrawn = s.withdrawn := rfl
@[simp] theorem State.onWgs_endpoints (s : State) (f : Workgroup → Workgroup) : (s.onWgs f).endpoints = s.endpoints := rfl
@[simp] theorem State.onWgs_appKnow (s : State) (f : Workgroup → Workgroup) : (s.onWgs f).appKnow = s.appKnow := rfl
@[simp] theorem State.onWgs_nextId (s : State) (f : Workgroup → Workgroup) : (s.onWgs f).nextId = s.nextId := rfl
@[simp] theorem State.onWgs_cycleId (s : State) (f : Workgroup → Workgroup) : (s.onWgs f).cycleId = s.cycleId := rfl
@[simp] theorem State.onWgs_free (s : State) (f : Workgroup → Workgroup) : (s.onWgs f).free = s.free := rfl
@[simp] theorem State.onWgs_agenda (s : State) (f : Workgroup → Workgroup) : (s.onWgs f).agenda = s.agenda := rfl
@[simp] theorem State.onWgs_turn (s : State) (f : Workgroup → Workgroup) : (s.onWgs f).turn = s.turn := rfl
@[simp] theorem State.onWgs_wg (s : State) (f : Workgroup → Workgroup) : (s.onWgs f).wg = f s.wg := rfl
@[simp] theorem State.onWgs_wgs (s : State) (f : Workgroup → Workgroup) : (s.onWgs f).wgs = s.wgs.map f := rfl
@[simp] theorem State.onWg_cur (s : State) (u : Nat) (f : Workgroup → Workgroup) : (s.onWg u f).cur = s.cur := rfl
@[simp] theorem State.onWg_groups (s : State) (u : Nat) (f : Workgroup → Workgroup) : (s.onWg u f).groups = s.groups := rfl
@[simp] theorem State.onWg_core (s : State) (u : Nat) (f : Workgroup → Workgroup) : (s.onWg u f).core = s.core := rfl
@[simp] theorem State.onWg_cores (s : State) (u : Nat) (f : Workgroup → Workgroup) : (s.onWg u f).cores = s.cores := rfl
@[simp] theorem State.onWg_launch (s : State) (u : Nat) (f : Workgroup → Workgroup) : (s.onWg u f).launch = s.launch := rfl
@[simp] theorem State.onWg_launches (s : State) (u : Nat) (f : Workgroup → Workgroup) : (s.onWg u f).launches = s.launches := rfl
@[simp] theorem State.onWg_dies (s : State) (u : Nat) (f : Workgroup → Workgroup) : (s.onWg u f).dies = s.dies := rfl
@[simp] theorem State.onWg_mem (s : State) (u : Nat) (f : Workgroup → Workgroup) : (s.onWg u f).mem = s.mem := rfl
@[simp] theorem State.onWg_memBad (s : State) (u : Nat) (f : Workgroup → Workgroup) : (s.onWg u f).memBad = s.memBad := rfl
@[simp] theorem State.onWg_hist (s : State) (u : Nat) (f : Workgroup → Workgroup) : (s.onWg u f).hist = s.hist := rfl
@[simp] theorem State.onWg_atomq (s : State) (u : Nat) (f : Workgroup → Workgroup) : (s.onWg u f).atomq = s.atomq := rfl
@[simp] theorem State.onWg_copies (s : State) (u : Nat) (f : Workgroup → Workgroup) : (s.onWg u f).copies = s.copies := rfl
@[simp] theorem State.onWg_outMsgs (s : State) (u : Nat) (f : Workgroup → Workgroup) : (s.onWg u f).outMsgs = s.outMsgs := rfl
@[simp] theorem State.onWg_inbound (s : State) (u : Nat) (f : Workgroup → Workgroup) : (s.onWg u f).inbound = s.inbound := rfl
@[simp] theorem State.onWg_tables (s : State) (u : Nat) (f : Workgroup → Workgroup) : (s.onWg u f).tables = s.tables := rfl
@[simp] theorem State.onWg_objects (s : State) (u : Nat) (f : Workgroup → Workgroup) : (s.onWg u f).objects = s.objects := rfl
@[simp] theorem State.onWg_homes (s : State) (u : Nat) (f : Workgroup → Workgroup) : (s.onWg u f).homes = s.homes := rfl
@[simp] theorem State.onWg_paged (s : State) (u : Nat) (f : Workgroup → Workgroup) : (s.onWg u f).paged = s.paged := rfl
@[simp] theorem State.onWg_accepted (s : State) (u : Nat) (f : Workgroup → Workgroup) : (s.onWg u f).accepted = s.accepted := rfl
@[simp] theorem State.onWg_hubLoad (s : State) (u : Nat) (f : Workgroup → Workgroup) : (s.onWg u f).hubLoad = s.hubLoad := rfl
@[simp] theorem State.onWg_cap (s : State) (u : Nat) (f : Workgroup → Workgroup) : (s.onWg u f).cap = s.cap := rfl
@[simp] theorem State.onWg_time (s : State) (u : Nat) (f : Workgroup → Workgroup) : (s.onWg u f).time = s.time := rfl
@[simp] theorem State.onWg_traces (s : State) (u : Nat) (f : Workgroup → Workgroup) : (s.onWg u f).traces = s.traces := rfl
@[simp] theorem State.onWg_seqs (s : State) (u : Nat) (f : Workgroup → Workgroup) : (s.onWg u f).seqs = s.seqs := rfl
@[simp] theorem State.onWg_links (s : State) (u : Nat) (f : Workgroup → Workgroup) : (s.onWg u f).links = s.links := rfl
@[simp] theorem State.onWg_clusters (s : State) (u : Nat) (f : Workgroup → Workgroup) : (s.onWg u f).clusters = s.clusters := rfl
@[simp] theorem State.onWg_power (s : State) (u : Nat) (f : Workgroup → Workgroup) : (s.onWg u f).power = s.power := rfl
@[simp] theorem State.onWg_digests (s : State) (u : Nat) (f : Workgroup → Workgroup) : (s.onWg u f).digests = s.digests := rfl
@[simp] theorem State.onWg_report (s : State) (u : Nat) (f : Workgroup → Workgroup) : (s.onWg u f).report = s.report := rfl
@[simp] theorem State.onWg_phase (s : State) (u : Nat) (f : Workgroup → Workgroup) : (s.onWg u f).phase = s.phase := rfl
@[simp] theorem State.onWg_failed (s : State) (u : Nat) (f : Workgroup → Workgroup) : (s.onWg u f).failed = s.failed := rfl
@[simp] theorem State.onWg_answers (s : State) (u : Nat) (f : Workgroup → Workgroup) : (s.onWg u f).answers = s.answers := rfl
@[simp] theorem State.onWg_withdrawn (s : State) (u : Nat) (f : Workgroup → Workgroup) : (s.onWg u f).withdrawn = s.withdrawn := rfl
@[simp] theorem State.onWg_endpoints (s : State) (u : Nat) (f : Workgroup → Workgroup) : (s.onWg u f).endpoints = s.endpoints := rfl
@[simp] theorem State.onWg_appKnow (s : State) (u : Nat) (f : Workgroup → Workgroup) : (s.onWg u f).appKnow = s.appKnow := rfl
@[simp] theorem State.onWg_nextId (s : State) (u : Nat) (f : Workgroup → Workgroup) : (s.onWg u f).nextId = s.nextId := rfl
@[simp] theorem State.onWg_cycleId (s : State) (u : Nat) (f : Workgroup → Workgroup) : (s.onWg u f).cycleId = s.cycleId := rfl
@[simp] theorem State.onWg_free (s : State) (u : Nat) (f : Workgroup → Workgroup) : (s.onWg u f).free = s.free := rfl
@[simp] theorem State.onWg_agenda (s : State) (u : Nat) (f : Workgroup → Workgroup) : (s.onWg u f).agenda = s.agenda := rfl
@[simp] theorem State.onWg_turn (s : State) (u : Nat) (f : Workgroup → Workgroup) : (s.onWg u f).turn = s.turn := rfl
@[simp] theorem State.onWg_wg (s : State) (u : Nat) (f : Workgroup → Workgroup) :
    (s.onWg u f).wg = if s.wg.uid == u then f s.wg else s.wg := rfl

@[simp] theorem State.onLaunch_cur (s : State) (u : Nat) (f : Launch → Launch) : (s.onLaunch u f).cur = s.cur := rfl
@[simp] theorem State.onLaunch_groups (s : State) (u : Nat) (f : Launch → Launch) : (s.onLaunch u f).groups = s.groups := rfl
@[simp] theorem State.onLaunch_wg (s : State) (u : Nat) (f : Launch → Launch) : (s.onLaunch u f).wg = s.wg := rfl
@[simp] theorem State.onLaunch_wgs (s : State) (u : Nat) (f : Launch → Launch) : (s.onLaunch u f).wgs = s.wgs := rfl
@[simp] theorem State.onLaunch_core (s : State) (u : Nat) (f : Launch → Launch) : (s.onLaunch u f).core = s.core := rfl
@[simp] theorem State.onLaunch_cores (s : State) (u : Nat) (f : Launch → Launch) : (s.onLaunch u f).cores = s.cores := rfl
@[simp] theorem State.onLaunch_dies (s : State) (u : Nat) (f : Launch → Launch) : (s.onLaunch u f).dies = s.dies := rfl
@[simp] theorem State.onLaunch_mem (s : State) (u : Nat) (f : Launch → Launch) : (s.onLaunch u f).mem = s.mem := rfl
@[simp] theorem State.onLaunch_memBad (s : State) (u : Nat) (f : Launch → Launch) : (s.onLaunch u f).memBad = s.memBad := rfl
@[simp] theorem State.onLaunch_hist (s : State) (u : Nat) (f : Launch → Launch) : (s.onLaunch u f).hist = s.hist := rfl
@[simp] theorem State.onLaunch_atomq (s : State) (u : Nat) (f : Launch → Launch) : (s.onLaunch u f).atomq = s.atomq := rfl
@[simp] theorem State.onLaunch_copies (s : State) (u : Nat) (f : Launch → Launch) : (s.onLaunch u f).copies = s.copies := rfl
@[simp] theorem State.onLaunch_outMsgs (s : State) (u : Nat) (f : Launch → Launch) : (s.onLaunch u f).outMsgs = s.outMsgs := rfl
@[simp] theorem State.onLaunch_inbound (s : State) (u : Nat) (f : Launch → Launch) : (s.onLaunch u f).inbound = s.inbound := rfl
@[simp] theorem State.onLaunch_tables (s : State) (u : Nat) (f : Launch → Launch) : (s.onLaunch u f).tables = s.tables := rfl
@[simp] theorem State.onLaunch_objects (s : State) (u : Nat) (f : Launch → Launch) : (s.onLaunch u f).objects = s.objects := rfl
@[simp] theorem State.onLaunch_homes (s : State) (u : Nat) (f : Launch → Launch) : (s.onLaunch u f).homes = s.homes := rfl
@[simp] theorem State.onLaunch_paged (s : State) (u : Nat) (f : Launch → Launch) : (s.onLaunch u f).paged = s.paged := rfl
@[simp] theorem State.onLaunch_accepted (s : State) (u : Nat) (f : Launch → Launch) : (s.onLaunch u f).accepted = s.accepted := rfl
@[simp] theorem State.onLaunch_hubLoad (s : State) (u : Nat) (f : Launch → Launch) : (s.onLaunch u f).hubLoad = s.hubLoad := rfl
@[simp] theorem State.onLaunch_cap (s : State) (u : Nat) (f : Launch → Launch) : (s.onLaunch u f).cap = s.cap := rfl
@[simp] theorem State.onLaunch_time (s : State) (u : Nat) (f : Launch → Launch) : (s.onLaunch u f).time = s.time := rfl
@[simp] theorem State.onLaunch_traces (s : State) (u : Nat) (f : Launch → Launch) : (s.onLaunch u f).traces = s.traces := rfl
@[simp] theorem State.onLaunch_seqs (s : State) (u : Nat) (f : Launch → Launch) : (s.onLaunch u f).seqs = s.seqs := rfl
@[simp] theorem State.onLaunch_links (s : State) (u : Nat) (f : Launch → Launch) : (s.onLaunch u f).links = s.links := rfl
@[simp] theorem State.onLaunch_clusters (s : State) (u : Nat) (f : Launch → Launch) : (s.onLaunch u f).clusters = s.clusters := rfl
@[simp] theorem State.onLaunch_power (s : State) (u : Nat) (f : Launch → Launch) : (s.onLaunch u f).power = s.power := rfl
@[simp] theorem State.onLaunch_digests (s : State) (u : Nat) (f : Launch → Launch) : (s.onLaunch u f).digests = s.digests := rfl
@[simp] theorem State.onLaunch_report (s : State) (u : Nat) (f : Launch → Launch) : (s.onLaunch u f).report = s.report := rfl
@[simp] theorem State.onLaunch_phase (s : State) (u : Nat) (f : Launch → Launch) : (s.onLaunch u f).phase = s.phase := rfl
@[simp] theorem State.onLaunch_failed (s : State) (u : Nat) (f : Launch → Launch) : (s.onLaunch u f).failed = s.failed := rfl
@[simp] theorem State.onLaunch_answers (s : State) (u : Nat) (f : Launch → Launch) : (s.onLaunch u f).answers = s.answers := rfl
@[simp] theorem State.onLaunch_withdrawn (s : State) (u : Nat) (f : Launch → Launch) : (s.onLaunch u f).withdrawn = s.withdrawn := rfl
@[simp] theorem State.onLaunch_endpoints (s : State) (u : Nat) (f : Launch → Launch) : (s.onLaunch u f).endpoints = s.endpoints := rfl
@[simp] theorem State.onLaunch_appKnow (s : State) (u : Nat) (f : Launch → Launch) : (s.onLaunch u f).appKnow = s.appKnow := rfl
@[simp] theorem State.onLaunch_nextId (s : State) (u : Nat) (f : Launch → Launch) : (s.onLaunch u f).nextId = s.nextId := rfl
@[simp] theorem State.onLaunch_cycleId (s : State) (u : Nat) (f : Launch → Launch) : (s.onLaunch u f).cycleId = s.cycleId := rfl
@[simp] theorem State.onLaunch_free (s : State) (u : Nat) (f : Launch → Launch) : (s.onLaunch u f).free = s.free := rfl
@[simp] theorem State.onLaunch_agenda (s : State) (u : Nat) (f : Launch → Launch) : (s.onLaunch u f).agenda = s.agenda := rfl
@[simp] theorem State.onLaunch_turn (s : State) (u : Nat) (f : Launch → Launch) : (s.onLaunch u f).turn = s.turn := rfl
@[simp] theorem State.onDie_cur (s : State) (d : Nat) (f : Die → Die) : (s.onDie d f).cur = s.cur := rfl
@[simp] theorem State.onDie_groups (s : State) (d : Nat) (f : Die → Die) : (s.onDie d f).groups = s.groups := rfl
@[simp] theorem State.onDie_wg (s : State) (d : Nat) (f : Die → Die) : (s.onDie d f).wg = s.wg := rfl
@[simp] theorem State.onDie_wgs (s : State) (d : Nat) (f : Die → Die) : (s.onDie d f).wgs = s.wgs := rfl
@[simp] theorem State.onDie_core (s : State) (d : Nat) (f : Die → Die) : (s.onDie d f).core = s.core := rfl
@[simp] theorem State.onDie_cores (s : State) (d : Nat) (f : Die → Die) : (s.onDie d f).cores = s.cores := rfl
@[simp] theorem State.onDie_launch (s : State) (d : Nat) (f : Die → Die) : (s.onDie d f).launch = s.launch := rfl
@[simp] theorem State.onDie_launches (s : State) (d : Nat) (f : Die → Die) : (s.onDie d f).launches = s.launches := rfl
@[simp] theorem State.onDie_mem (s : State) (d : Nat) (f : Die → Die) : (s.onDie d f).mem = s.mem := rfl
@[simp] theorem State.onDie_memBad (s : State) (d : Nat) (f : Die → Die) : (s.onDie d f).memBad = s.memBad := rfl
@[simp] theorem State.onDie_hist (s : State) (d : Nat) (f : Die → Die) : (s.onDie d f).hist = s.hist := rfl
@[simp] theorem State.onDie_atomq (s : State) (d : Nat) (f : Die → Die) : (s.onDie d f).atomq = s.atomq := rfl
@[simp] theorem State.onDie_copies (s : State) (d : Nat) (f : Die → Die) : (s.onDie d f).copies = s.copies := rfl
@[simp] theorem State.onDie_outMsgs (s : State) (d : Nat) (f : Die → Die) : (s.onDie d f).outMsgs = s.outMsgs := rfl
@[simp] theorem State.onDie_inbound (s : State) (d : Nat) (f : Die → Die) : (s.onDie d f).inbound = s.inbound := rfl
@[simp] theorem State.onDie_tables (s : State) (d : Nat) (f : Die → Die) : (s.onDie d f).tables = s.tables := rfl
@[simp] theorem State.onDie_objects (s : State) (d : Nat) (f : Die → Die) : (s.onDie d f).objects = s.objects := rfl
@[simp] theorem State.onDie_homes (s : State) (d : Nat) (f : Die → Die) : (s.onDie d f).homes = s.homes := rfl
@[simp] theorem State.onDie_paged (s : State) (d : Nat) (f : Die → Die) : (s.onDie d f).paged = s.paged := rfl
@[simp] theorem State.onDie_accepted (s : State) (d : Nat) (f : Die → Die) : (s.onDie d f).accepted = s.accepted := rfl
@[simp] theorem State.onDie_hubLoad (s : State) (d : Nat) (f : Die → Die) : (s.onDie d f).hubLoad = s.hubLoad := rfl
@[simp] theorem State.onDie_cap (s : State) (d : Nat) (f : Die → Die) : (s.onDie d f).cap = s.cap := rfl
@[simp] theorem State.onDie_time (s : State) (d : Nat) (f : Die → Die) : (s.onDie d f).time = s.time := rfl
@[simp] theorem State.onDie_traces (s : State) (d : Nat) (f : Die → Die) : (s.onDie d f).traces = s.traces := rfl
@[simp] theorem State.onDie_seqs (s : State) (d : Nat) (f : Die → Die) : (s.onDie d f).seqs = s.seqs := rfl
@[simp] theorem State.onDie_links (s : State) (d : Nat) (f : Die → Die) : (s.onDie d f).links = s.links := rfl
@[simp] theorem State.onDie_clusters (s : State) (d : Nat) (f : Die → Die) : (s.onDie d f).clusters = s.clusters := rfl
@[simp] theorem State.onDie_power (s : State) (d : Nat) (f : Die → Die) : (s.onDie d f).power = s.power := rfl
@[simp] theorem State.onDie_digests (s : State) (d : Nat) (f : Die → Die) : (s.onDie d f).digests = s.digests := rfl
@[simp] theorem State.onDie_report (s : State) (d : Nat) (f : Die → Die) : (s.onDie d f).report = s.report := rfl
@[simp] theorem State.onDie_phase (s : State) (d : Nat) (f : Die → Die) : (s.onDie d f).phase = s.phase := rfl
@[simp] theorem State.onDie_failed (s : State) (d : Nat) (f : Die → Die) : (s.onDie d f).failed = s.failed := rfl
@[simp] theorem State.onDie_answers (s : State) (d : Nat) (f : Die → Die) : (s.onDie d f).answers = s.answers := rfl
@[simp] theorem State.onDie_withdrawn (s : State) (d : Nat) (f : Die → Die) : (s.onDie d f).withdrawn = s.withdrawn := rfl
@[simp] theorem State.onDie_endpoints (s : State) (d : Nat) (f : Die → Die) : (s.onDie d f).endpoints = s.endpoints := rfl
@[simp] theorem State.onDie_appKnow (s : State) (d : Nat) (f : Die → Die) : (s.onDie d f).appKnow = s.appKnow := rfl
@[simp] theorem State.onDie_nextId (s : State) (d : Nat) (f : Die → Die) : (s.onDie d f).nextId = s.nextId := rfl
@[simp] theorem State.onDie_cycleId (s : State) (d : Nat) (f : Die → Die) : (s.onDie d f).cycleId = s.cycleId := rfl
@[simp] theorem State.onDie_free (s : State) (d : Nat) (f : Die → Die) : (s.onDie d f).free = s.free := rfl
@[simp] theorem State.onDie_agenda (s : State) (d : Nat) (f : Die → Die) : (s.onDie d f).agenda = s.agenda := rfl
@[simp] theorem State.onDie_turn (s : State) (d : Nat) (f : Die → Die) : (s.onDie d f).turn = s.turn := rfl
@[simp] theorem State.onCluster_cur (s : State) (c : Nat) (f : Cluster → Cluster) : (s.onCluster c f).cur = s.cur := rfl
@[simp] theorem State.onCluster_groups (s : State) (c : Nat) (f : Cluster → Cluster) : (s.onCluster c f).groups = s.groups := rfl
@[simp] theorem State.onCluster_wg (s : State) (c : Nat) (f : Cluster → Cluster) : (s.onCluster c f).wg = s.wg := rfl
@[simp] theorem State.onCluster_wgs (s : State) (c : Nat) (f : Cluster → Cluster) : (s.onCluster c f).wgs = s.wgs := rfl
@[simp] theorem State.onCluster_core (s : State) (c : Nat) (f : Cluster → Cluster) : (s.onCluster c f).core = s.core := rfl
@[simp] theorem State.onCluster_cores (s : State) (c : Nat) (f : Cluster → Cluster) : (s.onCluster c f).cores = s.cores := rfl
@[simp] theorem State.onCluster_launch (s : State) (c : Nat) (f : Cluster → Cluster) : (s.onCluster c f).launch = s.launch := rfl
@[simp] theorem State.onCluster_launches (s : State) (c : Nat) (f : Cluster → Cluster) : (s.onCluster c f).launches = s.launches := rfl
@[simp] theorem State.onCluster_dies (s : State) (c : Nat) (f : Cluster → Cluster) : (s.onCluster c f).dies = s.dies := rfl
@[simp] theorem State.onCluster_mem (s : State) (c : Nat) (f : Cluster → Cluster) : (s.onCluster c f).mem = s.mem := rfl
@[simp] theorem State.onCluster_memBad (s : State) (c : Nat) (f : Cluster → Cluster) : (s.onCluster c f).memBad = s.memBad := rfl
@[simp] theorem State.onCluster_hist (s : State) (c : Nat) (f : Cluster → Cluster) : (s.onCluster c f).hist = s.hist := rfl
@[simp] theorem State.onCluster_atomq (s : State) (c : Nat) (f : Cluster → Cluster) : (s.onCluster c f).atomq = s.atomq := rfl
@[simp] theorem State.onCluster_copies (s : State) (c : Nat) (f : Cluster → Cluster) : (s.onCluster c f).copies = s.copies := rfl
@[simp] theorem State.onCluster_outMsgs (s : State) (c : Nat) (f : Cluster → Cluster) : (s.onCluster c f).outMsgs = s.outMsgs := rfl
@[simp] theorem State.onCluster_inbound (s : State) (c : Nat) (f : Cluster → Cluster) : (s.onCluster c f).inbound = s.inbound := rfl
@[simp] theorem State.onCluster_tables (s : State) (c : Nat) (f : Cluster → Cluster) : (s.onCluster c f).tables = s.tables := rfl
@[simp] theorem State.onCluster_objects (s : State) (c : Nat) (f : Cluster → Cluster) : (s.onCluster c f).objects = s.objects := rfl
@[simp] theorem State.onCluster_homes (s : State) (c : Nat) (f : Cluster → Cluster) : (s.onCluster c f).homes = s.homes := rfl
@[simp] theorem State.onCluster_paged (s : State) (c : Nat) (f : Cluster → Cluster) : (s.onCluster c f).paged = s.paged := rfl
@[simp] theorem State.onCluster_accepted (s : State) (c : Nat) (f : Cluster → Cluster) : (s.onCluster c f).accepted = s.accepted := rfl
@[simp] theorem State.onCluster_hubLoad (s : State) (c : Nat) (f : Cluster → Cluster) : (s.onCluster c f).hubLoad = s.hubLoad := rfl
@[simp] theorem State.onCluster_cap (s : State) (c : Nat) (f : Cluster → Cluster) : (s.onCluster c f).cap = s.cap := rfl
@[simp] theorem State.onCluster_time (s : State) (c : Nat) (f : Cluster → Cluster) : (s.onCluster c f).time = s.time := rfl
@[simp] theorem State.onCluster_traces (s : State) (c : Nat) (f : Cluster → Cluster) : (s.onCluster c f).traces = s.traces := rfl
@[simp] theorem State.onCluster_seqs (s : State) (c : Nat) (f : Cluster → Cluster) : (s.onCluster c f).seqs = s.seqs := rfl
@[simp] theorem State.onCluster_links (s : State) (c : Nat) (f : Cluster → Cluster) : (s.onCluster c f).links = s.links := rfl
@[simp] theorem State.onCluster_power (s : State) (c : Nat) (f : Cluster → Cluster) : (s.onCluster c f).power = s.power := rfl
@[simp] theorem State.onCluster_digests (s : State) (c : Nat) (f : Cluster → Cluster) : (s.onCluster c f).digests = s.digests := rfl
@[simp] theorem State.onCluster_report (s : State) (c : Nat) (f : Cluster → Cluster) : (s.onCluster c f).report = s.report := rfl
@[simp] theorem State.onCluster_phase (s : State) (c : Nat) (f : Cluster → Cluster) : (s.onCluster c f).phase = s.phase := rfl
@[simp] theorem State.onCluster_failed (s : State) (c : Nat) (f : Cluster → Cluster) : (s.onCluster c f).failed = s.failed := rfl
@[simp] theorem State.onCluster_answers (s : State) (c : Nat) (f : Cluster → Cluster) : (s.onCluster c f).answers = s.answers := rfl
@[simp] theorem State.onCluster_withdrawn (s : State) (c : Nat) (f : Cluster → Cluster) : (s.onCluster c f).withdrawn = s.withdrawn := rfl
@[simp] theorem State.onCluster_endpoints (s : State) (c : Nat) (f : Cluster → Cluster) : (s.onCluster c f).endpoints = s.endpoints := rfl
@[simp] theorem State.onCluster_appKnow (s : State) (c : Nat) (f : Cluster → Cluster) : (s.onCluster c f).appKnow = s.appKnow := rfl
@[simp] theorem State.onCluster_nextId (s : State) (c : Nat) (f : Cluster → Cluster) : (s.onCluster c f).nextId = s.nextId := rfl
@[simp] theorem State.onCluster_cycleId (s : State) (c : Nat) (f : Cluster → Cluster) : (s.onCluster c f).cycleId = s.cycleId := rfl
@[simp] theorem State.onCluster_free (s : State) (c : Nat) (f : Cluster → Cluster) : (s.onCluster c f).free = s.free := rfl
@[simp] theorem State.onCluster_agenda (s : State) (c : Nat) (f : Cluster → Cluster) : (s.onCluster c f).agenda = s.agenda := rfl
@[simp] theorem State.onCluster_turn (s : State) (c : Nat) (f : Cluster → Cluster) : (s.onCluster c f).turn = s.turn := rfl

/-- Updating a core touches the two places where cores stand. -/
@[simp] theorem State.onCore_cur (s : State) (n : Nat) (f : Core → Core) : (s.onCore n f).cur = s.cur := by
  unfold State.onCore; split
  · rfl
  · split <;> rfl

@[simp] theorem State.onCore_groups (s : State) (n : Nat) (f : Core → Core) : (s.onCore n f).groups = s.groups := by
  unfold State.onCore; split
  · rfl
  · split <;> rfl

@[simp] theorem State.onCore_wg (s : State) (n : Nat) (f : Core → Core) : (s.onCore n f).wg = s.wg := by
  unfold State.onCore; split
  · rfl
  · split <;> rfl

@[simp] theorem State.onCore_wgs (s : State) (n : Nat) (f : Core → Core) : (s.onCore n f).wgs = s.wgs := by
  unfold State.onCore; split
  · rfl
  · split <;> rfl

@[simp] theorem State.onCore_launch (s : State) (n : Nat) (f : Core → Core) : (s.onCore n f).launch = s.launch := by
  unfold State.onCore; split
  · rfl
  · split <;> rfl

@[simp] theorem State.onCore_launches (s : State) (n : Nat) (f : Core → Core) : (s.onCore n f).launches = s.launches := by
  unfold State.onCore; split
  · rfl
  · split <;> rfl

@[simp] theorem State.onCore_dies (s : State) (n : Nat) (f : Core → Core) : (s.onCore n f).dies = s.dies := by
  unfold State.onCore; split
  · rfl
  · split <;> rfl

@[simp] theorem State.onCore_mem (s : State) (n : Nat) (f : Core → Core) : (s.onCore n f).mem = s.mem := by
  unfold State.onCore; split
  · rfl
  · split <;> rfl

@[simp] theorem State.onCore_memBad (s : State) (n : Nat) (f : Core → Core) : (s.onCore n f).memBad = s.memBad := by
  unfold State.onCore; split
  · rfl
  · split <;> rfl

@[simp] theorem State.onCore_hist (s : State) (n : Nat) (f : Core → Core) : (s.onCore n f).hist = s.hist := by
  unfold State.onCore; split
  · rfl
  · split <;> rfl

@[simp] theorem State.onCore_atomq (s : State) (n : Nat) (f : Core → Core) : (s.onCore n f).atomq = s.atomq := by
  unfold State.onCore; split
  · rfl
  · split <;> rfl

@[simp] theorem State.onCore_copies (s : State) (n : Nat) (f : Core → Core) : (s.onCore n f).copies = s.copies := by
  unfold State.onCore; split
  · rfl
  · split <;> rfl

@[simp] theorem State.onCore_outMsgs (s : State) (n : Nat) (f : Core → Core) : (s.onCore n f).outMsgs = s.outMsgs := by
  unfold State.onCore; split
  · rfl
  · split <;> rfl

@[simp] theorem State.onCore_inbound (s : State) (n : Nat) (f : Core → Core) : (s.onCore n f).inbound = s.inbound := by
  unfold State.onCore; split
  · rfl
  · split <;> rfl

@[simp] theorem State.onCore_tables (s : State) (n : Nat) (f : Core → Core) : (s.onCore n f).tables = s.tables := by
  unfold State.onCore; split
  · rfl
  · split <;> rfl

@[simp] theorem State.onCore_objects (s : State) (n : Nat) (f : Core → Core) : (s.onCore n f).objects = s.objects := by
  unfold State.onCore; split
  · rfl
  · split <;> rfl

@[simp] theorem State.onCore_homes (s : State) (n : Nat) (f : Core → Core) : (s.onCore n f).homes = s.homes := by
  unfold State.onCore; split
  · rfl
  · split <;> rfl

@[simp] theorem State.onCore_paged (s : State) (n : Nat) (f : Core → Core) : (s.onCore n f).paged = s.paged := by
  unfold State.onCore; split
  · rfl
  · split <;> rfl

@[simp] theorem State.onCore_accepted (s : State) (n : Nat) (f : Core → Core) : (s.onCore n f).accepted = s.accepted := by
  unfold State.onCore; split
  · rfl
  · split <;> rfl

@[simp] theorem State.onCore_hubLoad (s : State) (n : Nat) (f : Core → Core) : (s.onCore n f).hubLoad = s.hubLoad := by
  unfold State.onCore; split
  · rfl
  · split <;> rfl

@[simp] theorem State.onCore_cap (s : State) (n : Nat) (f : Core → Core) : (s.onCore n f).cap = s.cap := by
  unfold State.onCore; split
  · rfl
  · split <;> rfl

@[simp] theorem State.onCore_time (s : State) (n : Nat) (f : Core → Core) : (s.onCore n f).time = s.time := by
  unfold State.onCore; split
  · rfl
  · split <;> rfl

@[simp] theorem State.onCore_traces (s : State) (n : Nat) (f : Core → Core) : (s.onCore n f).traces = s.traces := by
  unfold State.onCore; split
  · rfl
  · split <;> rfl

@[simp] theorem State.onCore_seqs (s : State) (n : Nat) (f : Core → Core) : (s.onCore n f).seqs = s.seqs := by
  unfold State.onCore; split
  · rfl
  · split <;> rfl

@[simp] theorem State.onCore_links (s : State) (n : Nat) (f : Core → Core) : (s.onCore n f).links = s.links := by
  unfold State.onCore; split
  · rfl
  · split <;> rfl

@[simp] theorem State.onCore_clusters (s : State) (n : Nat) (f : Core → Core) : (s.onCore n f).clusters = s.clusters := by
  unfold State.onCore; split
  · rfl
  · split <;> rfl

@[simp] theorem State.onCore_power (s : State) (n : Nat) (f : Core → Core) : (s.onCore n f).power = s.power := by
  unfold State.onCore; split
  · rfl
  · split <;> rfl

@[simp] theorem State.onCore_digests (s : State) (n : Nat) (f : Core → Core) : (s.onCore n f).digests = s.digests := by
  unfold State.onCore; split
  · rfl
  · split <;> rfl

@[simp] theorem State.onCore_report (s : State) (n : Nat) (f : Core → Core) : (s.onCore n f).report = s.report := by
  unfold State.onCore; split
  · rfl
  · split <;> rfl

@[simp] theorem State.onCore_phase (s : State) (n : Nat) (f : Core → Core) : (s.onCore n f).phase = s.phase := by
  unfold State.onCore; split
  · rfl
  · split <;> rfl

@[simp] theorem State.onCore_failed (s : State) (n : Nat) (f : Core → Core) : (s.onCore n f).failed = s.failed := by
  unfold State.onCore; split
  · rfl
  · split <;> rfl

@[simp] theorem State.onCore_answers (s : State) (n : Nat) (f : Core → Core) : (s.onCore n f).answers = s.answers := by
  unfold State.onCore; split
  · rfl
  · split <;> rfl

@[simp] theorem State.onCore_withdrawn (s : State) (n : Nat) (f : Core → Core) : (s.onCore n f).withdrawn = s.withdrawn := by
  unfold State.onCore; split
  · rfl
  · split <;> rfl

@[simp] theorem State.onCore_endpoints (s : State) (n : Nat) (f : Core → Core) : (s.onCore n f).endpoints = s.endpoints := by
  unfold State.onCore; split
  · rfl
  · split <;> rfl

@[simp] theorem State.onCore_appKnow (s : State) (n : Nat) (f : Core → Core) : (s.onCore n f).appKnow = s.appKnow := by
  unfold State.onCore; split
  · rfl
  · split <;> rfl

@[simp] theorem State.onCore_nextId (s : State) (n : Nat) (f : Core → Core) : (s.onCore n f).nextId = s.nextId := by
  unfold State.onCore; split
  · rfl
  · split <;> rfl

@[simp] theorem State.onCore_cycleId (s : State) (n : Nat) (f : Core → Core) : (s.onCore n f).cycleId = s.cycleId := by
  unfold State.onCore; split
  · rfl
  · split <;> rfl

@[simp] theorem State.onCore_free (s : State) (n : Nat) (f : Core → Core) : (s.onCore n f).free = s.free := by
  unfold State.onCore; split
  · rfl
  · split <;> rfl

@[simp] theorem State.onCore_agenda (s : State) (n : Nat) (f : Core → Core) : (s.onCore n f).agenda = s.agenda := by
  unfold State.onCore; split
  · rfl
  · split <;> rfl

@[simp] theorem State.onCore_turn (s : State) (n : Nat) (f : Core → Core) : (s.onCore n f).turn = s.turn := by
  unfold State.onCore; split
  · rfl
  · split <;> rfl

/-! ### Groups -/

@[simp] theorem Group.setLane_key (g : Group) (j : Nat) (l : Lane) : (g.setLane j l).key = g.key := rfl
@[simp] theorem Group.setLane_live (g : Group) (j : Nat) (l : Lane) : (g.setLane j l).live = g.live := rfl
@[simp] theorem Group.setLane_width (g : Group) (j : Nat) (l : Lane) : (g.setLane j l).width = g.width := rfl
@[simp] theorem Group.setLane_s (g : Group) (j : Nat) (l : Lane) : (g.setLane j l).s = g.s := rfl
@[simp] theorem Group.setLane_c (g : Group) (j : Nat) (l : Lane) : (g.setLane j l).c = g.c := rfl
@[simp] theorem Group.setLane_t (g : Group) (j : Nat) (l : Lane) : (g.setLane j l).t = g.t := rfl
@[simp] theorem Group.setLane_q (g : Group) (j : Nat) (l : Lane) : (g.setLane j l).q = g.q := rfl
@[simp] theorem Group.setLane_pc (g : Group) (j : Nat) (l : Lane) : (g.setLane j l).pc = g.pc := rfl
@[simp] theorem Group.setLane_act (g : Group) (j : Nat) (l : Lane) : (g.setLane j l).act = g.act := rfl
@[simp] theorem Group.setLane_exited (g : Group) (j : Nat) (l : Lane) : (g.setLane j l).exited = g.exited := rfl
@[simp] theorem Group.setLane_stack (g : Group) (j : Nat) (l : Lane) : (g.setLane j l).stack = g.stack := rfl
@[simp] theorem Group.setLane_gstat (g : Group) (j : Nat) (l : Lane) : (g.setLane j l).gstat = g.gstat := rfl
@[simp] theorem Group.setLane_energy0 (g : Group) (j : Nat) (l : Lane) : (g.setLane j l).energy0 = g.energy0 := rfl
@[simp] theorem Group.setLane_trapCause (g : Group) (j : Nat) (l : Lane) : (g.setLane j l).trapCause = g.trapCause := rfl
@[simp] theorem Group.setLane_trapPc (g : Group) (j : Nat) (l : Lane) : (g.setLane j l).trapPc = g.trapPc := rfl
@[simp] theorem Group.setLane_trapVal (g : Group) (j : Nat) (l : Lane) : (g.setLane j l).trapVal = g.trapVal := rfl
@[simp] theorem Group.setLane_trapOrg (g : Group) (j : Nat) (l : Lane) : (g.setLane j l).trapOrg = g.trapOrg := rfl
@[simp] theorem Group.setLane_sup (g : Group) (j : Nat) (l : Lane) : (g.setLane j l).sup = g.sup := rfl
@[simp] theorem Group.setLane_bankS (g : Group) (j : Nat) (l : Lane) : (g.setLane j l).bankS = g.bankS := rfl
@[simp] theorem Group.setLane_bankT (g : Group) (j : Nat) (l : Lane) : (g.setLane j l).bankT = g.bankT := rfl
@[simp] theorem Group.setLane_count (g : Group) (j : Nat) (l : Lane) : (g.setLane j l).count = g.count := rfl
@[simp] theorem Group.setLane_rpc (g : Group) (j : Nat) (l : Lane) : (g.setLane j l).rpc = g.rpc := rfl
@[simp] theorem Group.setLane_ra (g : Group) (j : Nat) (l : Lane) : (g.setLane j l).ra = g.ra := rfl
@[simp] theorem Group.setLane_rdepth (g : Group) (j : Nat) (l : Lane) : (g.setLane j l).rdepth = g.rdepth := rfl
@[simp] theorem Group.setLane_restart (g : Group) (j : Nat) (l : Lane) : (g.setLane j l).restart = g.restart := rfl
@[simp] theorem Group.setLane_nopre (g : Group) (j : Nat) (l : Lane) : (g.setLane j l).nopre = g.nopre := rfl
@[simp] theorem Group.setLane_run (g : Group) (j : Nat) (l : Lane) : (g.setLane j l).run = g.run := rfl
@[simp] theorem Group.setLane_sched (g : Group) (j : Nat) (l : Lane) : (g.setLane j l).sched = g.sched := rfl
@[simp] theorem Group.setLane_gaveWay (g : Group) (j : Nat) (l : Lane) : (g.setLane j l).gaveWay = g.gaveWay := rfl
@[simp] theorem Group.setLane_pend (g : Group) (j : Nat) (l : Lane) : (g.setLane j l).pend = g.pend := rfl
@[simp] theorem Group.setLane_wait (g : Group) (j : Nat) (l : Lane) : (g.setLane j l).wait = g.wait := rfl
@[simp] theorem Group.setLane_waitSp (g : Group) (j : Nat) (l : Lane) : (g.setLane j l).waitSp = g.waitSp := rfl
@[simp] theorem Group.setLane_held (g : Group) (j : Nat) (l : Lane) : (g.setLane j l).held = g.held := rfl
@[simp] theorem Group.setLane_liveAt (g : Group) (j : Nat) (l : Lane) : (g.setLane j l).liveAt = g.liveAt := rfl
@[simp] theorem Group.setLane_safe (g : Group) (j : Nat) (l : Lane) : (g.setLane j l).safe = g.safe := rfl
@[simp] theorem Group.setLane_parked (g : Group) (j : Nat) (l : Lane) : (g.setLane j l).parked = g.parked := rfl
@[simp] theorem Group.setLane_known (g : Group) (j : Nat) (l : Lane) : (g.setLane j l).known = g.known := rfl
@[simp] theorem Group.setLane_seen (g : Group) (j : Nat) (l : Lane) : (g.setLane j l).seen = g.seen := rfl
@[simp] theorem Group.setLane_fenceRel (g : Group) (j : Nat) (l : Lane) : (g.setLane j l).fenceRel = g.fenceRel := rfl
@[simp] theorem Group.setLane_fenceAcq (g : Group) (j : Nat) (l : Lane) : (g.setLane j l).fenceAcq = g.fenceAcq := rfl
@[simp] theorem Group.setLane_dirtyBad (g : Group) (j : Nat) (l : Lane) : (g.setLane j l).dirtyBad = g.dirtyBad := rfl
@[simp] theorem Group.setLane_dirty (g : Group) (j : Nat) (l : Lane) : (g.setLane j l).dirty = g.dirty := rfl
@[simp] theorem Group.setLane_fbuf (g : Group) (j : Nat) (l : Lane) : (g.setLane j l).fbuf = g.fbuf := rfl
@[simp] theorem Group.setLane_slot (g : Group) (j : Nat) (l : Lane) : (g.setLane j l).slot = g.slot := rfl
@[simp] theorem Group.setLane_fault (g : Group) (j : Nat) (l : Lane) : (g.setLane j l).fault = g.fault := rfl
@[simp] theorem Group.setLane_matBad (g : Group) (j : Nat) (l : Lane) : (g.setLane j l).matBad = g.matBad := rfl
@[simp] theorem Group.setLane_whole (g : Group) (j : Nat) (l : Lane) : (g.setLane j l).whole = g.whole := rfl
@[simp] theorem Group.vset_key (g : Group) (j r : Nat) (x : Word) : (g.vset j r x).key = g.key := rfl
@[simp] theorem Group.vset_live (g : Group) (j r : Nat) (x : Word) : (g.vset j r x).live = g.live := rfl
@[simp] theorem Group.vset_width (g : Group) (j r : Nat) (x : Word) : (g.vset j r x).width = g.width := rfl
@[simp] theorem Group.vset_s (g : Group) (j r : Nat) (x : Word) : (g.vset j r x).s = g.s := rfl
@[simp] theorem Group.vset_c (g : Group) (j r : Nat) (x : Word) : (g.vset j r x).c = g.c := rfl
@[simp] theorem Group.vset_t (g : Group) (j r : Nat) (x : Word) : (g.vset j r x).t = g.t := rfl
@[simp] theorem Group.vset_q (g : Group) (j r : Nat) (x : Word) : (g.vset j r x).q = g.q := rfl
@[simp] theorem Group.vset_pc (g : Group) (j r : Nat) (x : Word) : (g.vset j r x).pc = g.pc := rfl
@[simp] theorem Group.vset_act (g : Group) (j r : Nat) (x : Word) : (g.vset j r x).act = g.act := rfl
@[simp] theorem Group.vset_exited (g : Group) (j r : Nat) (x : Word) : (g.vset j r x).exited = g.exited := rfl
@[simp] theorem Group.vset_stack (g : Group) (j r : Nat) (x : Word) : (g.vset j r x).stack = g.stack := rfl
@[simp] theorem Group.vset_gstat (g : Group) (j r : Nat) (x : Word) : (g.vset j r x).gstat = g.gstat := rfl
@[simp] theorem Group.vset_energy0 (g : Group) (j r : Nat) (x : Word) : (g.vset j r x).energy0 = g.energy0 := rfl
@[simp] theorem Group.vset_trapCause (g : Group) (j r : Nat) (x : Word) : (g.vset j r x).trapCause = g.trapCause := rfl
@[simp] theorem Group.vset_trapPc (g : Group) (j r : Nat) (x : Word) : (g.vset j r x).trapPc = g.trapPc := rfl
@[simp] theorem Group.vset_trapVal (g : Group) (j r : Nat) (x : Word) : (g.vset j r x).trapVal = g.trapVal := rfl
@[simp] theorem Group.vset_trapOrg (g : Group) (j r : Nat) (x : Word) : (g.vset j r x).trapOrg = g.trapOrg := rfl
@[simp] theorem Group.vset_sup (g : Group) (j r : Nat) (x : Word) : (g.vset j r x).sup = g.sup := rfl
@[simp] theorem Group.vset_bankS (g : Group) (j r : Nat) (x : Word) : (g.vset j r x).bankS = g.bankS := rfl
@[simp] theorem Group.vset_bankT (g : Group) (j r : Nat) (x : Word) : (g.vset j r x).bankT = g.bankT := rfl
@[simp] theorem Group.vset_count (g : Group) (j r : Nat) (x : Word) : (g.vset j r x).count = g.count := rfl
@[simp] theorem Group.vset_rpc (g : Group) (j r : Nat) (x : Word) : (g.vset j r x).rpc = g.rpc := rfl
@[simp] theorem Group.vset_ra (g : Group) (j r : Nat) (x : Word) : (g.vset j r x).ra = g.ra := rfl
@[simp] theorem Group.vset_rdepth (g : Group) (j r : Nat) (x : Word) : (g.vset j r x).rdepth = g.rdepth := rfl
@[simp] theorem Group.vset_restart (g : Group) (j r : Nat) (x : Word) : (g.vset j r x).restart = g.restart := rfl
@[simp] theorem Group.vset_nopre (g : Group) (j r : Nat) (x : Word) : (g.vset j r x).nopre = g.nopre := rfl
@[simp] theorem Group.vset_run (g : Group) (j r : Nat) (x : Word) : (g.vset j r x).run = g.run := rfl
@[simp] theorem Group.vset_sched (g : Group) (j r : Nat) (x : Word) : (g.vset j r x).sched = g.sched := rfl
@[simp] theorem Group.vset_gaveWay (g : Group) (j r : Nat) (x : Word) : (g.vset j r x).gaveWay = g.gaveWay := rfl
@[simp] theorem Group.vset_pend (g : Group) (j r : Nat) (x : Word) : (g.vset j r x).pend = g.pend := rfl
@[simp] theorem Group.vset_wait (g : Group) (j r : Nat) (x : Word) : (g.vset j r x).wait = g.wait := rfl
@[simp] theorem Group.vset_waitSp (g : Group) (j r : Nat) (x : Word) : (g.vset j r x).waitSp = g.waitSp := rfl
@[simp] theorem Group.vset_held (g : Group) (j r : Nat) (x : Word) : (g.vset j r x).held = g.held := rfl
@[simp] theorem Group.vset_liveAt (g : Group) (j r : Nat) (x : Word) : (g.vset j r x).liveAt = g.liveAt := rfl
@[simp] theorem Group.vset_safe (g : Group) (j r : Nat) (x : Word) : (g.vset j r x).safe = g.safe := rfl
@[simp] theorem Group.vset_parked (g : Group) (j r : Nat) (x : Word) : (g.vset j r x).parked = g.parked := rfl
@[simp] theorem Group.vset_known (g : Group) (j r : Nat) (x : Word) : (g.vset j r x).known = g.known := rfl
@[simp] theorem Group.vset_seen (g : Group) (j r : Nat) (x : Word) : (g.vset j r x).seen = g.seen := rfl
@[simp] theorem Group.vset_fenceRel (g : Group) (j r : Nat) (x : Word) : (g.vset j r x).fenceRel = g.fenceRel := rfl
@[simp] theorem Group.vset_fenceAcq (g : Group) (j r : Nat) (x : Word) : (g.vset j r x).fenceAcq = g.fenceAcq := rfl
@[simp] theorem Group.vset_dirtyBad (g : Group) (j r : Nat) (x : Word) : (g.vset j r x).dirtyBad = g.dirtyBad := rfl
@[simp] theorem Group.vset_dirty (g : Group) (j r : Nat) (x : Word) : (g.vset j r x).dirty = g.dirty := rfl
@[simp] theorem Group.vset_fbuf (g : Group) (j r : Nat) (x : Word) : (g.vset j r x).fbuf = g.fbuf := rfl
@[simp] theorem Group.vset_slot (g : Group) (j r : Nat) (x : Word) : (g.vset j r x).slot = g.slot := rfl
@[simp] theorem Group.vset_fault (g : Group) (j r : Nat) (x : Word) : (g.vset j r x).fault = g.fault := rfl
@[simp] theorem Group.vset_matBad (g : Group) (j r : Nat) (x : Word) : (g.vset j r x).matBad = g.matBad := rfl
@[simp] theorem Group.vset_whole (g : Group) (j r : Nat) (x : Word) : (g.vset j r x).whole = g.whole := rfl
@[simp] theorem Group.vset64_key (g : Group) (j r : Nat) (x : DWord) : (g.vset64 j r x).key = g.key := rfl
@[simp] theorem Group.vset64_live (g : Group) (j r : Nat) (x : DWord) : (g.vset64 j r x).live = g.live := rfl
@[simp] theorem Group.vset64_width (g : Group) (j r : Nat) (x : DWord) : (g.vset64 j r x).width = g.width := rfl
@[simp] theorem Group.vset64_s (g : Group) (j r : Nat) (x : DWord) : (g.vset64 j r x).s = g.s := rfl
@[simp] theorem Group.vset64_c (g : Group) (j r : Nat) (x : DWord) : (g.vset64 j r x).c = g.c := rfl
@[simp] theorem Group.vset64_t (g : Group) (j r : Nat) (x : DWord) : (g.vset64 j r x).t = g.t := rfl
@[simp] theorem Group.vset64_q (g : Group) (j r : Nat) (x : DWord) : (g.vset64 j r x).q = g.q := rfl
@[simp] theorem Group.vset64_pc (g : Group) (j r : Nat) (x : DWord) : (g.vset64 j r x).pc = g.pc := rfl
@[simp] theorem Group.vset64_act (g : Group) (j r : Nat) (x : DWord) : (g.vset64 j r x).act = g.act := rfl
@[simp] theorem Group.vset64_exited (g : Group) (j r : Nat) (x : DWord) : (g.vset64 j r x).exited = g.exited := rfl
@[simp] theorem Group.vset64_stack (g : Group) (j r : Nat) (x : DWord) : (g.vset64 j r x).stack = g.stack := rfl
@[simp] theorem Group.vset64_gstat (g : Group) (j r : Nat) (x : DWord) : (g.vset64 j r x).gstat = g.gstat := rfl
@[simp] theorem Group.vset64_energy0 (g : Group) (j r : Nat) (x : DWord) : (g.vset64 j r x).energy0 = g.energy0 := rfl
@[simp] theorem Group.vset64_trapCause (g : Group) (j r : Nat) (x : DWord) : (g.vset64 j r x).trapCause = g.trapCause := rfl
@[simp] theorem Group.vset64_trapPc (g : Group) (j r : Nat) (x : DWord) : (g.vset64 j r x).trapPc = g.trapPc := rfl
@[simp] theorem Group.vset64_trapVal (g : Group) (j r : Nat) (x : DWord) : (g.vset64 j r x).trapVal = g.trapVal := rfl
@[simp] theorem Group.vset64_trapOrg (g : Group) (j r : Nat) (x : DWord) : (g.vset64 j r x).trapOrg = g.trapOrg := rfl
@[simp] theorem Group.vset64_sup (g : Group) (j r : Nat) (x : DWord) : (g.vset64 j r x).sup = g.sup := rfl
@[simp] theorem Group.vset64_bankS (g : Group) (j r : Nat) (x : DWord) : (g.vset64 j r x).bankS = g.bankS := rfl
@[simp] theorem Group.vset64_bankT (g : Group) (j r : Nat) (x : DWord) : (g.vset64 j r x).bankT = g.bankT := rfl
@[simp] theorem Group.vset64_count (g : Group) (j r : Nat) (x : DWord) : (g.vset64 j r x).count = g.count := rfl
@[simp] theorem Group.vset64_rpc (g : Group) (j r : Nat) (x : DWord) : (g.vset64 j r x).rpc = g.rpc := rfl
@[simp] theorem Group.vset64_ra (g : Group) (j r : Nat) (x : DWord) : (g.vset64 j r x).ra = g.ra := rfl
@[simp] theorem Group.vset64_rdepth (g : Group) (j r : Nat) (x : DWord) : (g.vset64 j r x).rdepth = g.rdepth := rfl
@[simp] theorem Group.vset64_restart (g : Group) (j r : Nat) (x : DWord) : (g.vset64 j r x).restart = g.restart := rfl
@[simp] theorem Group.vset64_nopre (g : Group) (j r : Nat) (x : DWord) : (g.vset64 j r x).nopre = g.nopre := rfl
@[simp] theorem Group.vset64_run (g : Group) (j r : Nat) (x : DWord) : (g.vset64 j r x).run = g.run := rfl
@[simp] theorem Group.vset64_sched (g : Group) (j r : Nat) (x : DWord) : (g.vset64 j r x).sched = g.sched := rfl
@[simp] theorem Group.vset64_gaveWay (g : Group) (j r : Nat) (x : DWord) : (g.vset64 j r x).gaveWay = g.gaveWay := rfl
@[simp] theorem Group.vset64_pend (g : Group) (j r : Nat) (x : DWord) : (g.vset64 j r x).pend = g.pend := rfl
@[simp] theorem Group.vset64_wait (g : Group) (j r : Nat) (x : DWord) : (g.vset64 j r x).wait = g.wait := rfl
@[simp] theorem Group.vset64_waitSp (g : Group) (j r : Nat) (x : DWord) : (g.vset64 j r x).waitSp = g.waitSp := rfl
@[simp] theorem Group.vset64_held (g : Group) (j r : Nat) (x : DWord) : (g.vset64 j r x).held = g.held := rfl
@[simp] theorem Group.vset64_liveAt (g : Group) (j r : Nat) (x : DWord) : (g.vset64 j r x).liveAt = g.liveAt := rfl
@[simp] theorem Group.vset64_safe (g : Group) (j r : Nat) (x : DWord) : (g.vset64 j r x).safe = g.safe := rfl
@[simp] theorem Group.vset64_parked (g : Group) (j r : Nat) (x : DWord) : (g.vset64 j r x).parked = g.parked := rfl
@[simp] theorem Group.vset64_known (g : Group) (j r : Nat) (x : DWord) : (g.vset64 j r x).known = g.known := rfl
@[simp] theorem Group.vset64_seen (g : Group) (j r : Nat) (x : DWord) : (g.vset64 j r x).seen = g.seen := rfl
@[simp] theorem Group.vset64_fenceRel (g : Group) (j r : Nat) (x : DWord) : (g.vset64 j r x).fenceRel = g.fenceRel := rfl
@[simp] theorem Group.vset64_fenceAcq (g : Group) (j r : Nat) (x : DWord) : (g.vset64 j r x).fenceAcq = g.fenceAcq := rfl
@[simp] theorem Group.vset64_dirtyBad (g : Group) (j r : Nat) (x : DWord) : (g.vset64 j r x).dirtyBad = g.dirtyBad := rfl
@[simp] theorem Group.vset64_dirty (g : Group) (j r : Nat) (x : DWord) : (g.vset64 j r x).dirty = g.dirty := rfl
@[simp] theorem Group.vset64_fbuf (g : Group) (j r : Nat) (x : DWord) : (g.vset64 j r x).fbuf = g.fbuf := rfl
@[simp] theorem Group.vset64_slot (g : Group) (j r : Nat) (x : DWord) : (g.vset64 j r x).slot = g.slot := rfl
@[simp] theorem Group.vset64_fault (g : Group) (j r : Nat) (x : DWord) : (g.vset64 j r x).fault = g.fault := rfl
@[simp] theorem Group.vset64_matBad (g : Group) (j r : Nat) (x : DWord) : (g.vset64 j r x).matBad = g.matBad := rfl
@[simp] theorem Group.vset64_whole (g : Group) (j r : Nat) (x : DWord) : (g.vset64 j r x).whole = g.whole := rfl
@[simp] theorem Group.pset_key (g : Group) (j i : Nat) (b : Bool) : (g.pset j i b).key = g.key := by unfold Group.pset; split <;> rfl
@[simp] theorem Group.pset_live (g : Group) (j i : Nat) (b : Bool) : (g.pset j i b).live = g.live := by unfold Group.pset; split <;> rfl
@[simp] theorem Group.pset_width (g : Group) (j i : Nat) (b : Bool) : (g.pset j i b).width = g.width := by unfold Group.pset; split <;> rfl
@[simp] theorem Group.pset_s (g : Group) (j i : Nat) (b : Bool) : (g.pset j i b).s = g.s := by unfold Group.pset; split <;> rfl
@[simp] theorem Group.pset_c (g : Group) (j i : Nat) (b : Bool) : (g.pset j i b).c = g.c := by unfold Group.pset; split <;> rfl
@[simp] theorem Group.pset_t (g : Group) (j i : Nat) (b : Bool) : (g.pset j i b).t = g.t := by unfold Group.pset; split <;> rfl
@[simp] theorem Group.pset_q (g : Group) (j i : Nat) (b : Bool) : (g.pset j i b).q = g.q := by unfold Group.pset; split <;> rfl
@[simp] theorem Group.pset_pc (g : Group) (j i : Nat) (b : Bool) : (g.pset j i b).pc = g.pc := by unfold Group.pset; split <;> rfl
@[simp] theorem Group.pset_act (g : Group) (j i : Nat) (b : Bool) : (g.pset j i b).act = g.act := by unfold Group.pset; split <;> rfl
@[simp] theorem Group.pset_exited (g : Group) (j i : Nat) (b : Bool) : (g.pset j i b).exited = g.exited := by unfold Group.pset; split <;> rfl
@[simp] theorem Group.pset_stack (g : Group) (j i : Nat) (b : Bool) : (g.pset j i b).stack = g.stack := by unfold Group.pset; split <;> rfl
@[simp] theorem Group.pset_gstat (g : Group) (j i : Nat) (b : Bool) : (g.pset j i b).gstat = g.gstat := by unfold Group.pset; split <;> rfl
@[simp] theorem Group.pset_energy0 (g : Group) (j i : Nat) (b : Bool) : (g.pset j i b).energy0 = g.energy0 := by unfold Group.pset; split <;> rfl
@[simp] theorem Group.pset_trapCause (g : Group) (j i : Nat) (b : Bool) : (g.pset j i b).trapCause = g.trapCause := by unfold Group.pset; split <;> rfl
@[simp] theorem Group.pset_trapPc (g : Group) (j i : Nat) (b : Bool) : (g.pset j i b).trapPc = g.trapPc := by unfold Group.pset; split <;> rfl
@[simp] theorem Group.pset_trapVal (g : Group) (j i : Nat) (b : Bool) : (g.pset j i b).trapVal = g.trapVal := by unfold Group.pset; split <;> rfl
@[simp] theorem Group.pset_trapOrg (g : Group) (j i : Nat) (b : Bool) : (g.pset j i b).trapOrg = g.trapOrg := by unfold Group.pset; split <;> rfl
@[simp] theorem Group.pset_sup (g : Group) (j i : Nat) (b : Bool) : (g.pset j i b).sup = g.sup := by unfold Group.pset; split <;> rfl
@[simp] theorem Group.pset_bankS (g : Group) (j i : Nat) (b : Bool) : (g.pset j i b).bankS = g.bankS := by unfold Group.pset; split <;> rfl
@[simp] theorem Group.pset_bankT (g : Group) (j i : Nat) (b : Bool) : (g.pset j i b).bankT = g.bankT := by unfold Group.pset; split <;> rfl
@[simp] theorem Group.pset_count (g : Group) (j i : Nat) (b : Bool) : (g.pset j i b).count = g.count := by unfold Group.pset; split <;> rfl
@[simp] theorem Group.pset_rpc (g : Group) (j i : Nat) (b : Bool) : (g.pset j i b).rpc = g.rpc := by unfold Group.pset; split <;> rfl
@[simp] theorem Group.pset_ra (g : Group) (j i : Nat) (b : Bool) : (g.pset j i b).ra = g.ra := by unfold Group.pset; split <;> rfl
@[simp] theorem Group.pset_rdepth (g : Group) (j i : Nat) (b : Bool) : (g.pset j i b).rdepth = g.rdepth := by unfold Group.pset; split <;> rfl
@[simp] theorem Group.pset_restart (g : Group) (j i : Nat) (b : Bool) : (g.pset j i b).restart = g.restart := by unfold Group.pset; split <;> rfl
@[simp] theorem Group.pset_nopre (g : Group) (j i : Nat) (b : Bool) : (g.pset j i b).nopre = g.nopre := by unfold Group.pset; split <;> rfl
@[simp] theorem Group.pset_run (g : Group) (j i : Nat) (b : Bool) : (g.pset j i b).run = g.run := by unfold Group.pset; split <;> rfl
@[simp] theorem Group.pset_sched (g : Group) (j i : Nat) (b : Bool) : (g.pset j i b).sched = g.sched := by unfold Group.pset; split <;> rfl
@[simp] theorem Group.pset_gaveWay (g : Group) (j i : Nat) (b : Bool) : (g.pset j i b).gaveWay = g.gaveWay := by unfold Group.pset; split <;> rfl
@[simp] theorem Group.pset_pend (g : Group) (j i : Nat) (b : Bool) : (g.pset j i b).pend = g.pend := by unfold Group.pset; split <;> rfl
@[simp] theorem Group.pset_wait (g : Group) (j i : Nat) (b : Bool) : (g.pset j i b).wait = g.wait := by unfold Group.pset; split <;> rfl
@[simp] theorem Group.pset_waitSp (g : Group) (j i : Nat) (b : Bool) : (g.pset j i b).waitSp = g.waitSp := by unfold Group.pset; split <;> rfl
@[simp] theorem Group.pset_held (g : Group) (j i : Nat) (b : Bool) : (g.pset j i b).held = g.held := by unfold Group.pset; split <;> rfl
@[simp] theorem Group.pset_liveAt (g : Group) (j i : Nat) (b : Bool) : (g.pset j i b).liveAt = g.liveAt := by unfold Group.pset; split <;> rfl
@[simp] theorem Group.pset_safe (g : Group) (j i : Nat) (b : Bool) : (g.pset j i b).safe = g.safe := by unfold Group.pset; split <;> rfl
@[simp] theorem Group.pset_parked (g : Group) (j i : Nat) (b : Bool) : (g.pset j i b).parked = g.parked := by unfold Group.pset; split <;> rfl
@[simp] theorem Group.pset_known (g : Group) (j i : Nat) (b : Bool) : (g.pset j i b).known = g.known := by unfold Group.pset; split <;> rfl
@[simp] theorem Group.pset_seen (g : Group) (j i : Nat) (b : Bool) : (g.pset j i b).seen = g.seen := by unfold Group.pset; split <;> rfl
@[simp] theorem Group.pset_fenceRel (g : Group) (j i : Nat) (b : Bool) : (g.pset j i b).fenceRel = g.fenceRel := by unfold Group.pset; split <;> rfl
@[simp] theorem Group.pset_fenceAcq (g : Group) (j i : Nat) (b : Bool) : (g.pset j i b).fenceAcq = g.fenceAcq := by unfold Group.pset; split <;> rfl
@[simp] theorem Group.pset_dirtyBad (g : Group) (j i : Nat) (b : Bool) : (g.pset j i b).dirtyBad = g.dirtyBad := by unfold Group.pset; split <;> rfl
@[simp] theorem Group.pset_dirty (g : Group) (j i : Nat) (b : Bool) : (g.pset j i b).dirty = g.dirty := by unfold Group.pset; split <;> rfl
@[simp] theorem Group.pset_fbuf (g : Group) (j i : Nat) (b : Bool) : (g.pset j i b).fbuf = g.fbuf := by unfold Group.pset; split <;> rfl
@[simp] theorem Group.pset_slot (g : Group) (j i : Nat) (b : Bool) : (g.pset j i b).slot = g.slot := by unfold Group.pset; split <;> rfl
@[simp] theorem Group.pset_fault (g : Group) (j i : Nat) (b : Bool) : (g.pset j i b).fault = g.fault := by unfold Group.pset; split <;> rfl
@[simp] theorem Group.pset_matBad (g : Group) (j i : Nat) (b : Bool) : (g.pset j i b).matBad = g.matBad := by unfold Group.pset; split <;> rfl
@[simp] theorem Group.pset_whole (g : Group) (j i : Nat) (b : Bool) : (g.pset j i b).whole = g.whole := by unfold Group.pset; split <;> rfl
@[simp] theorem Group.cset_key (g : Group) (i : Nat) (b : Bool) : (g.cset i b).key = g.key := by unfold Group.cset; split <;> rfl
@[simp] theorem Group.cset_live (g : Group) (i : Nat) (b : Bool) : (g.cset i b).live = g.live := by unfold Group.cset; split <;> rfl
@[simp] theorem Group.cset_width (g : Group) (i : Nat) (b : Bool) : (g.cset i b).width = g.width := by unfold Group.cset; split <;> rfl
@[simp] theorem Group.cset_lanes (g : Group) (i : Nat) (b : Bool) : (g.cset i b).lanes = g.lanes := by unfold Group.cset; split <;> rfl
@[simp] theorem Group.cset_s (g : Group) (i : Nat) (b : Bool) : (g.cset i b).s = g.s := by unfold Group.cset; split <;> rfl
@[simp] theorem Group.cset_t (g : Group) (i : Nat) (b : Bool) : (g.cset i b).t = g.t := by unfold Group.cset; split <;> rfl
@[simp] theorem Group.cset_q (g : Group) (i : Nat) (b : Bool) : (g.cset i b).q = g.q := by unfold Group.cset; split <;> rfl
@[simp] theorem Group.cset_pc (g : Group) (i : Nat) (b : Bool) : (g.cset i b).pc = g.pc := by unfold Group.cset; split <;> rfl
@[simp] theorem Group.cset_act (g : Group) (i : Nat) (b : Bool) : (g.cset i b).act = g.act := by unfold Group.cset; split <;> rfl
@[simp] theorem Group.cset_exited (g : Group) (i : Nat) (b : Bool) : (g.cset i b).exited = g.exited := by unfold Group.cset; split <;> rfl
@[simp] theorem Group.cset_stack (g : Group) (i : Nat) (b : Bool) : (g.cset i b).stack = g.stack := by unfold Group.cset; split <;> rfl
@[simp] theorem Group.cset_gstat (g : Group) (i : Nat) (b : Bool) : (g.cset i b).gstat = g.gstat := by unfold Group.cset; split <;> rfl
@[simp] theorem Group.cset_energy0 (g : Group) (i : Nat) (b : Bool) : (g.cset i b).energy0 = g.energy0 := by unfold Group.cset; split <;> rfl
@[simp] theorem Group.cset_trapCause (g : Group) (i : Nat) (b : Bool) : (g.cset i b).trapCause = g.trapCause := by unfold Group.cset; split <;> rfl
@[simp] theorem Group.cset_trapPc (g : Group) (i : Nat) (b : Bool) : (g.cset i b).trapPc = g.trapPc := by unfold Group.cset; split <;> rfl
@[simp] theorem Group.cset_trapVal (g : Group) (i : Nat) (b : Bool) : (g.cset i b).trapVal = g.trapVal := by unfold Group.cset; split <;> rfl
@[simp] theorem Group.cset_trapOrg (g : Group) (i : Nat) (b : Bool) : (g.cset i b).trapOrg = g.trapOrg := by unfold Group.cset; split <;> rfl
@[simp] theorem Group.cset_sup (g : Group) (i : Nat) (b : Bool) : (g.cset i b).sup = g.sup := by unfold Group.cset; split <;> rfl
@[simp] theorem Group.cset_bankS (g : Group) (i : Nat) (b : Bool) : (g.cset i b).bankS = g.bankS := by unfold Group.cset; split <;> rfl
@[simp] theorem Group.cset_bankT (g : Group) (i : Nat) (b : Bool) : (g.cset i b).bankT = g.bankT := by unfold Group.cset; split <;> rfl
@[simp] theorem Group.cset_count (g : Group) (i : Nat) (b : Bool) : (g.cset i b).count = g.count := by unfold Group.cset; split <;> rfl
@[simp] theorem Group.cset_rpc (g : Group) (i : Nat) (b : Bool) : (g.cset i b).rpc = g.rpc := by unfold Group.cset; split <;> rfl
@[simp] theorem Group.cset_ra (g : Group) (i : Nat) (b : Bool) : (g.cset i b).ra = g.ra := by unfold Group.cset; split <;> rfl
@[simp] theorem Group.cset_rdepth (g : Group) (i : Nat) (b : Bool) : (g.cset i b).rdepth = g.rdepth := by unfold Group.cset; split <;> rfl
@[simp] theorem Group.cset_restart (g : Group) (i : Nat) (b : Bool) : (g.cset i b).restart = g.restart := by unfold Group.cset; split <;> rfl
@[simp] theorem Group.cset_nopre (g : Group) (i : Nat) (b : Bool) : (g.cset i b).nopre = g.nopre := by unfold Group.cset; split <;> rfl
@[simp] theorem Group.cset_run (g : Group) (i : Nat) (b : Bool) : (g.cset i b).run = g.run := by unfold Group.cset; split <;> rfl
@[simp] theorem Group.cset_sched (g : Group) (i : Nat) (b : Bool) : (g.cset i b).sched = g.sched := by unfold Group.cset; split <;> rfl
@[simp] theorem Group.cset_gaveWay (g : Group) (i : Nat) (b : Bool) : (g.cset i b).gaveWay = g.gaveWay := by unfold Group.cset; split <;> rfl
@[simp] theorem Group.cset_pend (g : Group) (i : Nat) (b : Bool) : (g.cset i b).pend = g.pend := by unfold Group.cset; split <;> rfl
@[simp] theorem Group.cset_wait (g : Group) (i : Nat) (b : Bool) : (g.cset i b).wait = g.wait := by unfold Group.cset; split <;> rfl
@[simp] theorem Group.cset_waitSp (g : Group) (i : Nat) (b : Bool) : (g.cset i b).waitSp = g.waitSp := by unfold Group.cset; split <;> rfl
@[simp] theorem Group.cset_held (g : Group) (i : Nat) (b : Bool) : (g.cset i b).held = g.held := by unfold Group.cset; split <;> rfl
@[simp] theorem Group.cset_liveAt (g : Group) (i : Nat) (b : Bool) : (g.cset i b).liveAt = g.liveAt := by unfold Group.cset; split <;> rfl
@[simp] theorem Group.cset_safe (g : Group) (i : Nat) (b : Bool) : (g.cset i b).safe = g.safe := by unfold Group.cset; split <;> rfl
@[simp] theorem Group.cset_parked (g : Group) (i : Nat) (b : Bool) : (g.cset i b).parked = g.parked := by unfold Group.cset; split <;> rfl
@[simp] theorem Group.cset_known (g : Group) (i : Nat) (b : Bool) : (g.cset i b).known = g.known := by unfold Group.cset; split <;> rfl
@[simp] theorem Group.cset_seen (g : Group) (i : Nat) (b : Bool) : (g.cset i b).seen = g.seen := by unfold Group.cset; split <;> rfl
@[simp] theorem Group.cset_fenceRel (g : Group) (i : Nat) (b : Bool) : (g.cset i b).fenceRel = g.fenceRel := by unfold Group.cset; split <;> rfl
@[simp] theorem Group.cset_fenceAcq (g : Group) (i : Nat) (b : Bool) : (g.cset i b).fenceAcq = g.fenceAcq := by unfold Group.cset; split <;> rfl
@[simp] theorem Group.cset_dirtyBad (g : Group) (i : Nat) (b : Bool) : (g.cset i b).dirtyBad = g.dirtyBad := by unfold Group.cset; split <;> rfl
@[simp] theorem Group.cset_dirty (g : Group) (i : Nat) (b : Bool) : (g.cset i b).dirty = g.dirty := by unfold Group.cset; split <;> rfl
@[simp] theorem Group.cset_fbuf (g : Group) (i : Nat) (b : Bool) : (g.cset i b).fbuf = g.fbuf := by unfold Group.cset; split <;> rfl
@[simp] theorem Group.cset_slot (g : Group) (i : Nat) (b : Bool) : (g.cset i b).slot = g.slot := by unfold Group.cset; split <;> rfl
@[simp] theorem Group.cset_fault (g : Group) (i : Nat) (b : Bool) : (g.cset i b).fault = g.fault := by unfold Group.cset; split <;> rfl
@[simp] theorem Group.cset_matBad (g : Group) (i : Nat) (b : Bool) : (g.cset i b).matBad = g.matBad := by unfold Group.cset; split <;> rfl
@[simp] theorem Group.cset_whole (g : Group) (i : Nat) (b : Bool) : (g.cset i b).whole = g.whole := by unfold Group.cset; split <;> rfl
@[simp] theorem Group.sset_key (g : Group) (r : Nat) (x : DWord) : (g.sset r x).key = g.key := by
  unfold Group.sset; split
  · rfl
  · split <;> rfl

@[simp] theorem Group.sset_live (g : Group) (r : Nat) (x : DWord) : (g.sset r x).live = g.live := by
  unfold Group.sset; split
  · rfl
  · split <;> rfl

@[simp] theorem Group.sset_width (g : Group) (r : Nat) (x : DWord) : (g.sset r x).width = g.width := by
  unfold Group.sset; split
  · rfl
  · split <;> rfl

@[simp] theorem Group.sset_lanes (g : Group) (r : Nat) (x : DWord) : (g.sset r x).lanes = g.lanes := by
  unfold Group.sset; split
  · rfl
  · split <;> rfl

@[simp] theorem Group.sset_c (g : Group) (r : Nat) (x : DWord) : (g.sset r x).c = g.c := by
  unfold Group.sset; split
  · rfl
  · split <;> rfl

@[simp] theorem Group.sset_t (g : Group) (r : Nat) (x : DWord) : (g.sset r x).t = g.t := by
  unfold Group.sset; split
  · rfl
  · split <;> rfl

@[simp] theorem Group.sset_q (g : Group) (r : Nat) (x : DWord) : (g.sset r x).q = g.q := by
  unfold Group.sset; split
  · rfl
  · split <;> rfl

@[simp] theorem Group.sset_pc (g : Group) (r : Nat) (x : DWord) : (g.sset r x).pc = g.pc := by
  unfold Group.sset; split
  · rfl
  · split <;> rfl

@[simp] theorem Group.sset_act (g : Group) (r : Nat) (x : DWord) : (g.sset r x).act = g.act := by
  unfold Group.sset; split
  · rfl
  · split <;> rfl

@[simp] theorem Group.sset_exited (g : Group) (r : Nat) (x : DWord) : (g.sset r x).exited = g.exited := by
  unfold Group.sset; split
  · rfl
  · split <;> rfl

@[simp] theorem Group.sset_stack (g : Group) (r : Nat) (x : DWord) : (g.sset r x).stack = g.stack := by
  unfold Group.sset; split
  · rfl
  · split <;> rfl

@[simp] theorem Group.sset_gstat (g : Group) (r : Nat) (x : DWord) : (g.sset r x).gstat = g.gstat := by
  unfold Group.sset; split
  · rfl
  · split <;> rfl

@[simp] theorem Group.sset_energy0 (g : Group) (r : Nat) (x : DWord) : (g.sset r x).energy0 = g.energy0 := by
  unfold Group.sset; split
  · rfl
  · split <;> rfl

@[simp] theorem Group.sset_trapCause (g : Group) (r : Nat) (x : DWord) : (g.sset r x).trapCause = g.trapCause := by
  unfold Group.sset; split
  · rfl
  · split <;> rfl

@[simp] theorem Group.sset_trapPc (g : Group) (r : Nat) (x : DWord) : (g.sset r x).trapPc = g.trapPc := by
  unfold Group.sset; split
  · rfl
  · split <;> rfl

@[simp] theorem Group.sset_trapVal (g : Group) (r : Nat) (x : DWord) : (g.sset r x).trapVal = g.trapVal := by
  unfold Group.sset; split
  · rfl
  · split <;> rfl

@[simp] theorem Group.sset_trapOrg (g : Group) (r : Nat) (x : DWord) : (g.sset r x).trapOrg = g.trapOrg := by
  unfold Group.sset; split
  · rfl
  · split <;> rfl

@[simp] theorem Group.sset_sup (g : Group) (r : Nat) (x : DWord) : (g.sset r x).sup = g.sup := by
  unfold Group.sset; split
  · rfl
  · split <;> rfl

@[simp] theorem Group.sset_bankT (g : Group) (r : Nat) (x : DWord) : (g.sset r x).bankT = g.bankT := by
  unfold Group.sset; split
  · rfl
  · split <;> rfl

@[simp] theorem Group.sset_count (g : Group) (r : Nat) (x : DWord) : (g.sset r x).count = g.count := by
  unfold Group.sset; split
  · rfl
  · split <;> rfl

@[simp] theorem Group.sset_rpc (g : Group) (r : Nat) (x : DWord) : (g.sset r x).rpc = g.rpc := by
  unfold Group.sset; split
  · rfl
  · split <;> rfl

@[simp] theorem Group.sset_ra (g : Group) (r : Nat) (x : DWord) : (g.sset r x).ra = g.ra := by
  unfold Group.sset; split
  · rfl
  · split <;> rfl

@[simp] theorem Group.sset_rdepth (g : Group) (r : Nat) (x : DWord) : (g.sset r x).rdepth = g.rdepth := by
  unfold Group.sset; split
  · rfl
  · split <;> rfl

@[simp] theorem Group.sset_restart (g : Group) (r : Nat) (x : DWord) : (g.sset r x).restart = g.restart := by
  unfold Group.sset; split
  · rfl
  · split <;> rfl

@[simp] theorem Group.sset_nopre (g : Group) (r : Nat) (x : DWord) : (g.sset r x).nopre = g.nopre := by
  unfold Group.sset; split
  · rfl
  · split <;> rfl

@[simp] theorem Group.sset_run (g : Group) (r : Nat) (x : DWord) : (g.sset r x).run = g.run := by
  unfold Group.sset; split
  · rfl
  · split <;> rfl

@[simp] theorem Group.sset_sched (g : Group) (r : Nat) (x : DWord) : (g.sset r x).sched = g.sched := by
  unfold Group.sset; split
  · rfl
  · split <;> rfl

@[simp] theorem Group.sset_gaveWay (g : Group) (r : Nat) (x : DWord) : (g.sset r x).gaveWay = g.gaveWay := by
  unfold Group.sset; split
  · rfl
  · split <;> rfl

@[simp] theorem Group.sset_pend (g : Group) (r : Nat) (x : DWord) : (g.sset r x).pend = g.pend := by
  unfold Group.sset; split
  · rfl
  · split <;> rfl

@[simp] theorem Group.sset_wait (g : Group) (r : Nat) (x : DWord) : (g.sset r x).wait = g.wait := by
  unfold Group.sset; split
  · rfl
  · split <;> rfl

@[simp] theorem Group.sset_waitSp (g : Group) (r : Nat) (x : DWord) : (g.sset r x).waitSp = g.waitSp := by
  unfold Group.sset; split
  · rfl
  · split <;> rfl

@[simp] theorem Group.sset_held (g : Group) (r : Nat) (x : DWord) : (g.sset r x).held = g.held := by
  unfold Group.sset; split
  · rfl
  · split <;> rfl

@[simp] theorem Group.sset_liveAt (g : Group) (r : Nat) (x : DWord) : (g.sset r x).liveAt = g.liveAt := by
  unfold Group.sset; split
  · rfl
  · split <;> rfl

@[simp] theorem Group.sset_safe (g : Group) (r : Nat) (x : DWord) : (g.sset r x).safe = g.safe := by
  unfold Group.sset; split
  · rfl
  · split <;> rfl

@[simp] theorem Group.sset_parked (g : Group) (r : Nat) (x : DWord) : (g.sset r x).parked = g.parked := by
  unfold Group.sset; split
  · rfl
  · split <;> rfl

@[simp] theorem Group.sset_known (g : Group) (r : Nat) (x : DWord) : (g.sset r x).known = g.known := by
  unfold Group.sset; split
  · rfl
  · split <;> rfl

@[simp] theorem Group.sset_seen (g : Group) (r : Nat) (x : DWord) : (g.sset r x).seen = g.seen := by
  unfold Group.sset; split
  · rfl
  · split <;> rfl

@[simp] theorem Group.sset_fenceRel (g : Group) (r : Nat) (x : DWord) : (g.sset r x).fenceRel = g.fenceRel := by
  unfold Group.sset; split
  · rfl
  · split <;> rfl

@[simp] theorem Group.sset_fenceAcq (g : Group) (r : Nat) (x : DWord) : (g.sset r x).fenceAcq = g.fenceAcq := by
  unfold Group.sset; split
  · rfl
  · split <;> rfl

@[simp] theorem Group.sset_dirtyBad (g : Group) (r : Nat) (x : DWord) : (g.sset r x).dirtyBad = g.dirtyBad := by
  unfold Group.sset; split
  · rfl
  · split <;> rfl

@[simp] theorem Group.sset_dirty (g : Group) (r : Nat) (x : DWord) : (g.sset r x).dirty = g.dirty := by
  unfold Group.sset; split
  · rfl
  · split <;> rfl

@[simp] theorem Group.sset_fbuf (g : Group) (r : Nat) (x : DWord) : (g.sset r x).fbuf = g.fbuf := by
  unfold Group.sset; split
  · rfl
  · split <;> rfl

@[simp] theorem Group.sset_slot (g : Group) (r : Nat) (x : DWord) : (g.sset r x).slot = g.slot := by
  unfold Group.sset; split
  · rfl
  · split <;> rfl

@[simp] theorem Group.sset_fault (g : Group) (r : Nat) (x : DWord) : (g.sset r x).fault = g.fault := by
  unfold Group.sset; split
  · rfl
  · split <;> rfl

@[simp] theorem Group.sset_matBad (g : Group) (r : Nat) (x : DWord) : (g.sset r x).matBad = g.matBad := by
  unfold Group.sset; split
  · rfl
  · split <;> rfl

@[simp] theorem Group.sset_whole (g : Group) (r : Nat) (x : DWord) : (g.sset r x).whole = g.whole := by
  unfold Group.sset; split
  · rfl
  · split <;> rfl

@[simp] theorem Group.tset_key (g : Group) (k : Nat) (x : TReg) : (g.tset k x).key = g.key := by unfold Group.tset; split <;> rfl
@[simp] theorem Group.tset_live (g : Group) (k : Nat) (x : TReg) : (g.tset k x).live = g.live := by unfold Group.tset; split <;> rfl
@[simp] theorem Group.tset_width (g : Group) (k : Nat) (x : TReg) : (g.tset k x).width = g.width := by unfold Group.tset; split <;> rfl
@[simp] theorem Group.tset_lanes (g : Group) (k : Nat) (x : TReg) : (g.tset k x).lanes = g.lanes := by unfold Group.tset; split <;> rfl
@[simp] theorem Group.tset_s (g : Group) (k : Nat) (x : TReg) : (g.tset k x).s = g.s := by unfold Group.tset; split <;> rfl
@[simp] theorem Group.tset_c (g : Group) (k : Nat) (x : TReg) : (g.tset k x).c = g.c := by unfold Group.tset; split <;> rfl
@[simp] theorem Group.tset_q (g : Group) (k : Nat) (x : TReg) : (g.tset k x).q = g.q := by unfold Group.tset; split <;> rfl
@[simp] theorem Group.tset_pc (g : Group) (k : Nat) (x : TReg) : (g.tset k x).pc = g.pc := by unfold Group.tset; split <;> rfl
@[simp] theorem Group.tset_act (g : Group) (k : Nat) (x : TReg) : (g.tset k x).act = g.act := by unfold Group.tset; split <;> rfl
@[simp] theorem Group.tset_exited (g : Group) (k : Nat) (x : TReg) : (g.tset k x).exited = g.exited := by unfold Group.tset; split <;> rfl
@[simp] theorem Group.tset_stack (g : Group) (k : Nat) (x : TReg) : (g.tset k x).stack = g.stack := by unfold Group.tset; split <;> rfl
@[simp] theorem Group.tset_gstat (g : Group) (k : Nat) (x : TReg) : (g.tset k x).gstat = g.gstat := by unfold Group.tset; split <;> rfl
@[simp] theorem Group.tset_energy0 (g : Group) (k : Nat) (x : TReg) : (g.tset k x).energy0 = g.energy0 := by unfold Group.tset; split <;> rfl
@[simp] theorem Group.tset_trapCause (g : Group) (k : Nat) (x : TReg) : (g.tset k x).trapCause = g.trapCause := by unfold Group.tset; split <;> rfl
@[simp] theorem Group.tset_trapPc (g : Group) (k : Nat) (x : TReg) : (g.tset k x).trapPc = g.trapPc := by unfold Group.tset; split <;> rfl
@[simp] theorem Group.tset_trapVal (g : Group) (k : Nat) (x : TReg) : (g.tset k x).trapVal = g.trapVal := by unfold Group.tset; split <;> rfl
@[simp] theorem Group.tset_trapOrg (g : Group) (k : Nat) (x : TReg) : (g.tset k x).trapOrg = g.trapOrg := by unfold Group.tset; split <;> rfl
@[simp] theorem Group.tset_sup (g : Group) (k : Nat) (x : TReg) : (g.tset k x).sup = g.sup := by unfold Group.tset; split <;> rfl
@[simp] theorem Group.tset_bankS (g : Group) (k : Nat) (x : TReg) : (g.tset k x).bankS = g.bankS := by unfold Group.tset; split <;> rfl
@[simp] theorem Group.tset_count (g : Group) (k : Nat) (x : TReg) : (g.tset k x).count = g.count := by unfold Group.tset; split <;> rfl
@[simp] theorem Group.tset_rpc (g : Group) (k : Nat) (x : TReg) : (g.tset k x).rpc = g.rpc := by unfold Group.tset; split <;> rfl
@[simp] theorem Group.tset_ra (g : Group) (k : Nat) (x : TReg) : (g.tset k x).ra = g.ra := by unfold Group.tset; split <;> rfl
@[simp] theorem Group.tset_rdepth (g : Group) (k : Nat) (x : TReg) : (g.tset k x).rdepth = g.rdepth := by unfold Group.tset; split <;> rfl
@[simp] theorem Group.tset_restart (g : Group) (k : Nat) (x : TReg) : (g.tset k x).restart = g.restart := by unfold Group.tset; split <;> rfl
@[simp] theorem Group.tset_nopre (g : Group) (k : Nat) (x : TReg) : (g.tset k x).nopre = g.nopre := by unfold Group.tset; split <;> rfl
@[simp] theorem Group.tset_run (g : Group) (k : Nat) (x : TReg) : (g.tset k x).run = g.run := by unfold Group.tset; split <;> rfl
@[simp] theorem Group.tset_sched (g : Group) (k : Nat) (x : TReg) : (g.tset k x).sched = g.sched := by unfold Group.tset; split <;> rfl
@[simp] theorem Group.tset_gaveWay (g : Group) (k : Nat) (x : TReg) : (g.tset k x).gaveWay = g.gaveWay := by unfold Group.tset; split <;> rfl
@[simp] theorem Group.tset_pend (g : Group) (k : Nat) (x : TReg) : (g.tset k x).pend = g.pend := by unfold Group.tset; split <;> rfl
@[simp] theorem Group.tset_wait (g : Group) (k : Nat) (x : TReg) : (g.tset k x).wait = g.wait := by unfold Group.tset; split <;> rfl
@[simp] theorem Group.tset_waitSp (g : Group) (k : Nat) (x : TReg) : (g.tset k x).waitSp = g.waitSp := by unfold Group.tset; split <;> rfl
@[simp] theorem Group.tset_held (g : Group) (k : Nat) (x : TReg) : (g.tset k x).held = g.held := by unfold Group.tset; split <;> rfl
@[simp] theorem Group.tset_liveAt (g : Group) (k : Nat) (x : TReg) : (g.tset k x).liveAt = g.liveAt := by unfold Group.tset; split <;> rfl
@[simp] theorem Group.tset_safe (g : Group) (k : Nat) (x : TReg) : (g.tset k x).safe = g.safe := by unfold Group.tset; split <;> rfl
@[simp] theorem Group.tset_parked (g : Group) (k : Nat) (x : TReg) : (g.tset k x).parked = g.parked := by unfold Group.tset; split <;> rfl
@[simp] theorem Group.tset_known (g : Group) (k : Nat) (x : TReg) : (g.tset k x).known = g.known := by unfold Group.tset; split <;> rfl
@[simp] theorem Group.tset_seen (g : Group) (k : Nat) (x : TReg) : (g.tset k x).seen = g.seen := by unfold Group.tset; split <;> rfl
@[simp] theorem Group.tset_fenceRel (g : Group) (k : Nat) (x : TReg) : (g.tset k x).fenceRel = g.fenceRel := by unfold Group.tset; split <;> rfl
@[simp] theorem Group.tset_fenceAcq (g : Group) (k : Nat) (x : TReg) : (g.tset k x).fenceAcq = g.fenceAcq := by unfold Group.tset; split <;> rfl
@[simp] theorem Group.tset_dirtyBad (g : Group) (k : Nat) (x : TReg) : (g.tset k x).dirtyBad = g.dirtyBad := by unfold Group.tset; split <;> rfl
@[simp] theorem Group.tset_dirty (g : Group) (k : Nat) (x : TReg) : (g.tset k x).dirty = g.dirty := by unfold Group.tset; split <;> rfl
@[simp] theorem Group.tset_fbuf (g : Group) (k : Nat) (x : TReg) : (g.tset k x).fbuf = g.fbuf := by unfold Group.tset; split <;> rfl
@[simp] theorem Group.tset_slot (g : Group) (k : Nat) (x : TReg) : (g.tset k x).slot = g.slot := by unfold Group.tset; split <;> rfl
@[simp] theorem Group.tset_fault (g : Group) (k : Nat) (x : TReg) : (g.tset k x).fault = g.fault := by unfold Group.tset; split <;> rfl
@[simp] theorem Group.tset_matBad (g : Group) (k : Nat) (x : TReg) : (g.tset k x).matBad = g.matBad := by unfold Group.tset; split <;> rfl
@[simp] theorem Group.tset_whole (g : Group) (k : Nat) (x : TReg) : (g.tset k x).whole = g.whole := by unfold Group.tset; split <;> rfl
@[simp] theorem Group.setQueue_key (g : Group) (j q : Nat) (ws : List Word) : (g.setQueue j q ws).key = g.key := rfl
@[simp] theorem Group.setQueue_live (g : Group) (j q : Nat) (ws : List Word) : (g.setQueue j q ws).live = g.live := rfl
@[simp] theorem Group.setQueue_width (g : Group) (j q : Nat) (ws : List Word) : (g.setQueue j q ws).width = g.width := rfl
@[simp] theorem Group.setQueue_lanes (g : Group) (j q : Nat) (ws : List Word) : (g.setQueue j q ws).lanes = g.lanes := rfl
@[simp] theorem Group.setQueue_s (g : Group) (j q : Nat) (ws : List Word) : (g.setQueue j q ws).s = g.s := rfl
@[simp] theorem Group.setQueue_c (g : Group) (j q : Nat) (ws : List Word) : (g.setQueue j q ws).c = g.c := rfl
@[simp] theorem Group.setQueue_t (g : Group) (j q : Nat) (ws : List Word) : (g.setQueue j q ws).t = g.t := rfl
@[simp] theorem Group.setQueue_pc (g : Group) (j q : Nat) (ws : List Word) : (g.setQueue j q ws).pc = g.pc := rfl
@[simp] theorem Group.setQueue_act (g : Group) (j q : Nat) (ws : List Word) : (g.setQueue j q ws).act = g.act := rfl
@[simp] theorem Group.setQueue_exited (g : Group) (j q : Nat) (ws : List Word) : (g.setQueue j q ws).exited = g.exited := rfl
@[simp] theorem Group.setQueue_stack (g : Group) (j q : Nat) (ws : List Word) : (g.setQueue j q ws).stack = g.stack := rfl
@[simp] theorem Group.setQueue_gstat (g : Group) (j q : Nat) (ws : List Word) : (g.setQueue j q ws).gstat = g.gstat := rfl
@[simp] theorem Group.setQueue_energy0 (g : Group) (j q : Nat) (ws : List Word) : (g.setQueue j q ws).energy0 = g.energy0 := rfl
@[simp] theorem Group.setQueue_trapCause (g : Group) (j q : Nat) (ws : List Word) : (g.setQueue j q ws).trapCause = g.trapCause := rfl
@[simp] theorem Group.setQueue_trapPc (g : Group) (j q : Nat) (ws : List Word) : (g.setQueue j q ws).trapPc = g.trapPc := rfl
@[simp] theorem Group.setQueue_trapVal (g : Group) (j q : Nat) (ws : List Word) : (g.setQueue j q ws).trapVal = g.trapVal := rfl
@[simp] theorem Group.setQueue_trapOrg (g : Group) (j q : Nat) (ws : List Word) : (g.setQueue j q ws).trapOrg = g.trapOrg := rfl
@[simp] theorem Group.setQueue_sup (g : Group) (j q : Nat) (ws : List Word) : (g.setQueue j q ws).sup = g.sup := rfl
@[simp] theorem Group.setQueue_bankS (g : Group) (j q : Nat) (ws : List Word) : (g.setQueue j q ws).bankS = g.bankS := rfl
@[simp] theorem Group.setQueue_bankT (g : Group) (j q : Nat) (ws : List Word) : (g.setQueue j q ws).bankT = g.bankT := rfl
@[simp] theorem Group.setQueue_count (g : Group) (j q : Nat) (ws : List Word) : (g.setQueue j q ws).count = g.count := rfl
@[simp] theorem Group.setQueue_rpc (g : Group) (j q : Nat) (ws : List Word) : (g.setQueue j q ws).rpc = g.rpc := rfl
@[simp] theorem Group.setQueue_ra (g : Group) (j q : Nat) (ws : List Word) : (g.setQueue j q ws).ra = g.ra := rfl
@[simp] theorem Group.setQueue_rdepth (g : Group) (j q : Nat) (ws : List Word) : (g.setQueue j q ws).rdepth = g.rdepth := rfl
@[simp] theorem Group.setQueue_restart (g : Group) (j q : Nat) (ws : List Word) : (g.setQueue j q ws).restart = g.restart := rfl
@[simp] theorem Group.setQueue_nopre (g : Group) (j q : Nat) (ws : List Word) : (g.setQueue j q ws).nopre = g.nopre := rfl
@[simp] theorem Group.setQueue_run (g : Group) (j q : Nat) (ws : List Word) : (g.setQueue j q ws).run = g.run := rfl
@[simp] theorem Group.setQueue_sched (g : Group) (j q : Nat) (ws : List Word) : (g.setQueue j q ws).sched = g.sched := rfl
@[simp] theorem Group.setQueue_gaveWay (g : Group) (j q : Nat) (ws : List Word) : (g.setQueue j q ws).gaveWay = g.gaveWay := rfl
@[simp] theorem Group.setQueue_pend (g : Group) (j q : Nat) (ws : List Word) : (g.setQueue j q ws).pend = g.pend := rfl
@[simp] theorem Group.setQueue_wait (g : Group) (j q : Nat) (ws : List Word) : (g.setQueue j q ws).wait = g.wait := rfl
@[simp] theorem Group.setQueue_waitSp (g : Group) (j q : Nat) (ws : List Word) : (g.setQueue j q ws).waitSp = g.waitSp := rfl
@[simp] theorem Group.setQueue_held (g : Group) (j q : Nat) (ws : List Word) : (g.setQueue j q ws).held = g.held := rfl
@[simp] theorem Group.setQueue_liveAt (g : Group) (j q : Nat) (ws : List Word) : (g.setQueue j q ws).liveAt = g.liveAt := rfl
@[simp] theorem Group.setQueue_safe (g : Group) (j q : Nat) (ws : List Word) : (g.setQueue j q ws).safe = g.safe := rfl
@[simp] theorem Group.setQueue_parked (g : Group) (j q : Nat) (ws : List Word) : (g.setQueue j q ws).parked = g.parked := rfl
@[simp] theorem Group.setQueue_known (g : Group) (j q : Nat) (ws : List Word) : (g.setQueue j q ws).known = g.known := rfl
@[simp] theorem Group.setQueue_seen (g : Group) (j q : Nat) (ws : List Word) : (g.setQueue j q ws).seen = g.seen := rfl
@[simp] theorem Group.setQueue_fenceRel (g : Group) (j q : Nat) (ws : List Word) : (g.setQueue j q ws).fenceRel = g.fenceRel := rfl
@[simp] theorem Group.setQueue_fenceAcq (g : Group) (j q : Nat) (ws : List Word) : (g.setQueue j q ws).fenceAcq = g.fenceAcq := rfl
@[simp] theorem Group.setQueue_dirtyBad (g : Group) (j q : Nat) (ws : List Word) : (g.setQueue j q ws).dirtyBad = g.dirtyBad := rfl
@[simp] theorem Group.setQueue_dirty (g : Group) (j q : Nat) (ws : List Word) : (g.setQueue j q ws).dirty = g.dirty := rfl
@[simp] theorem Group.setQueue_fbuf (g : Group) (j q : Nat) (ws : List Word) : (g.setQueue j q ws).fbuf = g.fbuf := rfl
@[simp] theorem Group.setQueue_slot (g : Group) (j q : Nat) (ws : List Word) : (g.setQueue j q ws).slot = g.slot := rfl
@[simp] theorem Group.setQueue_fault (g : Group) (j q : Nat) (ws : List Word) : (g.setQueue j q ws).fault = g.fault := rfl
@[simp] theorem Group.setQueue_matBad (g : Group) (j q : Nat) (ws : List Word) : (g.setQueue j q ws).matBad = g.matBad := rfl
@[simp] theorem Group.setQueue_whole (g : Group) (j q : Nat) (ws : List Word) : (g.setQueue j q ws).whole = g.whole := rfl
@[simp] theorem Group.flag_key (g : Group) (f : DWord) : (g.flag f).key = g.key := rfl
@[simp] theorem Group.flag_live (g : Group) (f : DWord) : (g.flag f).live = g.live := rfl
@[simp] theorem Group.flag_width (g : Group) (f : DWord) : (g.flag f).width = g.width := rfl
@[simp] theorem Group.flag_lanes (g : Group) (f : DWord) : (g.flag f).lanes = g.lanes := rfl
@[simp] theorem Group.flag_s (g : Group) (f : DWord) : (g.flag f).s = g.s := rfl
@[simp] theorem Group.flag_c (g : Group) (f : DWord) : (g.flag f).c = g.c := rfl
@[simp] theorem Group.flag_t (g : Group) (f : DWord) : (g.flag f).t = g.t := rfl
@[simp] theorem Group.flag_q (g : Group) (f : DWord) : (g.flag f).q = g.q := rfl
@[simp] theorem Group.flag_pc (g : Group) (f : DWord) : (g.flag f).pc = g.pc := rfl
@[simp] theorem Group.flag_act (g : Group) (f : DWord) : (g.flag f).act = g.act := rfl
@[simp] theorem Group.flag_exited (g : Group) (f : DWord) : (g.flag f).exited = g.exited := rfl
@[simp] theorem Group.flag_stack (g : Group) (f : DWord) : (g.flag f).stack = g.stack := rfl
@[simp] theorem Group.flag_energy0 (g : Group) (f : DWord) : (g.flag f).energy0 = g.energy0 := rfl
@[simp] theorem Group.flag_trapCause (g : Group) (f : DWord) : (g.flag f).trapCause = g.trapCause := rfl
@[simp] theorem Group.flag_trapPc (g : Group) (f : DWord) : (g.flag f).trapPc = g.trapPc := rfl
@[simp] theorem Group.flag_trapVal (g : Group) (f : DWord) : (g.flag f).trapVal = g.trapVal := rfl
@[simp] theorem Group.flag_trapOrg (g : Group) (f : DWord) : (g.flag f).trapOrg = g.trapOrg := rfl
@[simp] theorem Group.flag_sup (g : Group) (f : DWord) : (g.flag f).sup = g.sup := rfl
@[simp] theorem Group.flag_bankS (g : Group) (f : DWord) : (g.flag f).bankS = g.bankS := rfl
@[simp] theorem Group.flag_bankT (g : Group) (f : DWord) : (g.flag f).bankT = g.bankT := rfl
@[simp] theorem Group.flag_count (g : Group) (f : DWord) : (g.flag f).count = g.count := rfl
@[simp] theorem Group.flag_rpc (g : Group) (f : DWord) : (g.flag f).rpc = g.rpc := rfl
@[simp] theorem Group.flag_ra (g : Group) (f : DWord) : (g.flag f).ra = g.ra := rfl
@[simp] theorem Group.flag_rdepth (g : Group) (f : DWord) : (g.flag f).rdepth = g.rdepth := rfl
@[simp] theorem Group.flag_restart (g : Group) (f : DWord) : (g.flag f).restart = g.restart := rfl
@[simp] theorem Group.flag_nopre (g : Group) (f : DWord) : (g.flag f).nopre = g.nopre := rfl
@[simp] theorem Group.flag_run (g : Group) (f : DWord) : (g.flag f).run = g.run := rfl
@[simp] theorem Group.flag_sched (g : Group) (f : DWord) : (g.flag f).sched = g.sched := rfl
@[simp] theorem Group.flag_gaveWay (g : Group) (f : DWord) : (g.flag f).gaveWay = g.gaveWay := rfl
@[simp] theorem Group.flag_pend (g : Group) (f : DWord) : (g.flag f).pend = g.pend := rfl
@[simp] theorem Group.flag_wait (g : Group) (f : DWord) : (g.flag f).wait = g.wait := rfl
@[simp] theorem Group.flag_waitSp (g : Group) (f : DWord) : (g.flag f).waitSp = g.waitSp := rfl
@[simp] theorem Group.flag_held (g : Group) (f : DWord) : (g.flag f).held = g.held := rfl
@[simp] theorem Group.flag_liveAt (g : Group) (f : DWord) : (g.flag f).liveAt = g.liveAt := rfl
@[simp] theorem Group.flag_safe (g : Group) (f : DWord) : (g.flag f).safe = g.safe := rfl
@[simp] theorem Group.flag_parked (g : Group) (f : DWord) : (g.flag f).parked = g.parked := rfl
@[simp] theorem Group.flag_known (g : Group) (f : DWord) : (g.flag f).known = g.known := rfl
@[simp] theorem Group.flag_seen (g : Group) (f : DWord) : (g.flag f).seen = g.seen := rfl
@[simp] theorem Group.flag_fenceRel (g : Group) (f : DWord) : (g.flag f).fenceRel = g.fenceRel := rfl
@[simp] theorem Group.flag_fenceAcq (g : Group) (f : DWord) : (g.flag f).fenceAcq = g.fenceAcq := rfl
@[simp] theorem Group.flag_dirtyBad (g : Group) (f : DWord) : (g.flag f).dirtyBad = g.dirtyBad := rfl
@[simp] theorem Group.flag_dirty (g : Group) (f : DWord) : (g.flag f).dirty = g.dirty := rfl
@[simp] theorem Group.flag_fbuf (g : Group) (f : DWord) : (g.flag f).fbuf = g.fbuf := rfl
@[simp] theorem Group.flag_slot (g : Group) (f : DWord) : (g.flag f).slot = g.slot := rfl
@[simp] theorem Group.flag_fault (g : Group) (f : DWord) : (g.flag f).fault = g.fault := rfl
@[simp] theorem Group.flag_matBad (g : Group) (f : DWord) : (g.flag f).matBad = g.matBad := rfl
@[simp] theorem Group.flag_whole (g : Group) (f : DWord) : (g.flag f).whole = g.whole := rfl
@[simp] theorem Group.flag_gstat (g : Group) (f : DWord) : (g.flag f).gstat = g.gstat ||| f := rfl
@[simp] theorem Group.lastRef_key (g : Group) (code : Nat) : (g.lastRef code).key = g.key := rfl
@[simp] theorem Group.lastRef_live (g : Group) (code : Nat) : (g.lastRef code).live = g.live := rfl
@[simp] theorem Group.lastRef_width (g : Group) (code : Nat) : (g.lastRef code).width = g.width := rfl
@[simp] theorem Group.lastRef_lanes (g : Group) (code : Nat) : (g.lastRef code).lanes = g.lanes := rfl
@[simp] theorem Group.lastRef_s (g : Group) (code : Nat) : (g.lastRef code).s = g.s := rfl
@[simp] theorem Group.lastRef_c (g : Group) (code : Nat) : (g.lastRef code).c = g.c := rfl
@[simp] theorem Group.lastRef_t (g : Group) (code : Nat) : (g.lastRef code).t = g.t := rfl
@[simp] theorem Group.lastRef_q (g : Group) (code : Nat) : (g.lastRef code).q = g.q := rfl
@[simp] theorem Group.lastRef_pc (g : Group) (code : Nat) : (g.lastRef code).pc = g.pc := rfl
@[simp] theorem Group.lastRef_act (g : Group) (code : Nat) : (g.lastRef code).act = g.act := rfl
@[simp] theorem Group.lastRef_exited (g : Group) (code : Nat) : (g.lastRef code).exited = g.exited := rfl
@[simp] theorem Group.lastRef_stack (g : Group) (code : Nat) : (g.lastRef code).stack = g.stack := rfl
@[simp] theorem Group.lastRef_energy0 (g : Group) (code : Nat) : (g.lastRef code).energy0 = g.energy0 := rfl
@[simp] theorem Group.lastRef_trapCause (g : Group) (code : Nat) : (g.lastRef code).trapCause = g.trapCause := rfl
@[simp] theorem Group.lastRef_trapPc (g : Group) (code : Nat) : (g.lastRef code).trapPc = g.trapPc := rfl
@[simp] theorem Group.lastRef_trapVal (g : Group) (code : Nat) : (g.lastRef code).trapVal = g.trapVal := rfl
@[simp] theorem Group.lastRef_trapOrg (g : Group) (code : Nat) : (g.lastRef code).trapOrg = g.trapOrg := rfl
@[simp] theorem Group.lastRef_sup (g : Group) (code : Nat) : (g.lastRef code).sup = g.sup := rfl
@[simp] theorem Group.lastRef_bankS (g : Group) (code : Nat) : (g.lastRef code).bankS = g.bankS := rfl
@[simp] theorem Group.lastRef_bankT (g : Group) (code : Nat) : (g.lastRef code).bankT = g.bankT := rfl
@[simp] theorem Group.lastRef_count (g : Group) (code : Nat) : (g.lastRef code).count = g.count := rfl
@[simp] theorem Group.lastRef_rpc (g : Group) (code : Nat) : (g.lastRef code).rpc = g.rpc := rfl
@[simp] theorem Group.lastRef_ra (g : Group) (code : Nat) : (g.lastRef code).ra = g.ra := rfl
@[simp] theorem Group.lastRef_rdepth (g : Group) (code : Nat) : (g.lastRef code).rdepth = g.rdepth := rfl
@[simp] theorem Group.lastRef_restart (g : Group) (code : Nat) : (g.lastRef code).restart = g.restart := rfl
@[simp] theorem Group.lastRef_nopre (g : Group) (code : Nat) : (g.lastRef code).nopre = g.nopre := rfl
@[simp] theorem Group.lastRef_run (g : Group) (code : Nat) : (g.lastRef code).run = g.run := rfl
@[simp] theorem Group.lastRef_sched (g : Group) (code : Nat) : (g.lastRef code).sched = g.sched := rfl
@[simp] theorem Group.lastRef_gaveWay (g : Group) (code : Nat) : (g.lastRef code).gaveWay = g.gaveWay := rfl
@[simp] theorem Group.lastRef_pend (g : Group) (code : Nat) : (g.lastRef code).pend = g.pend := rfl
@[simp] theorem Group.lastRef_wait (g : Group) (code : Nat) : (g.lastRef code).wait = g.wait := rfl
@[simp] theorem Group.lastRef_waitSp (g : Group) (code : Nat) : (g.lastRef code).waitSp = g.waitSp := rfl
@[simp] theorem Group.lastRef_held (g : Group) (code : Nat) : (g.lastRef code).held = g.held := rfl
@[simp] theorem Group.lastRef_liveAt (g : Group) (code : Nat) : (g.lastRef code).liveAt = g.liveAt := rfl
@[simp] theorem Group.lastRef_safe (g : Group) (code : Nat) : (g.lastRef code).safe = g.safe := rfl
@[simp] theorem Group.lastRef_parked (g : Group) (code : Nat) : (g.lastRef code).parked = g.parked := rfl
@[simp] theorem Group.lastRef_known (g : Group) (code : Nat) : (g.lastRef code).known = g.known := rfl
@[simp] theorem Group.lastRef_seen (g : Group) (code : Nat) : (g.lastRef code).seen = g.seen := rfl
@[simp] theorem Group.lastRef_fenceRel (g : Group) (code : Nat) : (g.lastRef code).fenceRel = g.fenceRel := rfl
@[simp] theorem Group.lastRef_fenceAcq (g : Group) (code : Nat) : (g.lastRef code).fenceAcq = g.fenceAcq := rfl
@[simp] theorem Group.lastRef_dirtyBad (g : Group) (code : Nat) : (g.lastRef code).dirtyBad = g.dirtyBad := rfl
@[simp] theorem Group.lastRef_dirty (g : Group) (code : Nat) : (g.lastRef code).dirty = g.dirty := rfl
@[simp] theorem Group.lastRef_fbuf (g : Group) (code : Nat) : (g.lastRef code).fbuf = g.fbuf := rfl
@[simp] theorem Group.lastRef_slot (g : Group) (code : Nat) : (g.lastRef code).slot = g.slot := rfl
@[simp] theorem Group.lastRef_fault (g : Group) (code : Nat) : (g.lastRef code).fault = g.fault := rfl
@[simp] theorem Group.lastRef_matBad (g : Group) (code : Nat) : (g.lastRef code).matBad = g.matBad := rfl
@[simp] theorem Group.lastRef_whole (g : Group) (code : Nat) : (g.lastRef code).whole = g.whole := rfl
@[simp] theorem Group.countWindow_key (g : Group) (m : Mask) : (g.countWindow m).key = g.key := rfl
@[simp] theorem Group.countWindow_live (g : Group) (m : Mask) : (g.countWindow m).live = g.live := rfl
@[simp] theorem Group.countWindow_width (g : Group) (m : Mask) : (g.countWindow m).width = g.width := rfl
@[simp] theorem Group.countWindow_lanes (g : Group) (m : Mask) : (g.countWindow m).lanes = g.lanes := rfl
@[simp] theorem Group.countWindow_s (g : Group) (m : Mask) : (g.countWindow m).s = g.s := rfl
@[simp] theorem Group.countWindow_c (g : Group) (m : Mask) : (g.countWindow m).c = g.c := rfl
@[simp] theorem Group.countWindow_t (g : Group) (m : Mask) : (g.countWindow m).t = g.t := rfl
@[simp] theorem Group.countWindow_q (g : Group) (m : Mask) : (g.countWindow m).q = g.q := rfl
@[simp] theorem Group.countWindow_pc (g : Group) (m : Mask) : (g.countWindow m).pc = g.pc := rfl
@[simp] theorem Group.countWindow_act (g : Group) (m : Mask) : (g.countWindow m).act = g.act := rfl
@[simp] theorem Group.countWindow_exited (g : Group) (m : Mask) : (g.countWindow m).exited = g.exited := rfl
@[simp] theorem Group.countWindow_stack (g : Group) (m : Mask) : (g.countWindow m).stack = g.stack := rfl
@[simp] theorem Group.countWindow_gstat (g : Group) (m : Mask) : (g.countWindow m).gstat = g.gstat := rfl
@[simp] theorem Group.countWindow_energy0 (g : Group) (m : Mask) : (g.countWindow m).energy0 = g.energy0 := rfl
@[simp] theorem Group.countWindow_trapCause (g : Group) (m : Mask) : (g.countWindow m).trapCause = g.trapCause := rfl
@[simp] theorem Group.countWindow_trapPc (g : Group) (m : Mask) : (g.countWindow m).trapPc = g.trapPc := rfl
@[simp] theorem Group.countWindow_trapVal (g : Group) (m : Mask) : (g.countWindow m).trapVal = g.trapVal := rfl
@[simp] theorem Group.countWindow_trapOrg (g : Group) (m : Mask) : (g.countWindow m).trapOrg = g.trapOrg := rfl
@[simp] theorem Group.countWindow_sup (g : Group) (m : Mask) : (g.countWindow m).sup = g.sup := rfl
@[simp] theorem Group.countWindow_bankS (g : Group) (m : Mask) : (g.countWindow m).bankS = g.bankS := rfl
@[simp] theorem Group.countWindow_bankT (g : Group) (m : Mask) : (g.countWindow m).bankT = g.bankT := rfl
@[simp] theorem Group.countWindow_count (g : Group) (m : Mask) : (g.countWindow m).count = g.count := rfl
@[simp] theorem Group.countWindow_rpc (g : Group) (m : Mask) : (g.countWindow m).rpc = g.rpc := rfl
@[simp] theorem Group.countWindow_ra (g : Group) (m : Mask) : (g.countWindow m).ra = g.ra := rfl
@[simp] theorem Group.countWindow_rdepth (g : Group) (m : Mask) : (g.countWindow m).rdepth = g.rdepth := rfl
@[simp] theorem Group.countWindow_restart (g : Group) (m : Mask) : (g.countWindow m).restart = g.restart := rfl
@[simp] theorem Group.countWindow_nopre (g : Group) (m : Mask) : (g.countWindow m).nopre = g.nopre := rfl
@[simp] theorem Group.countWindow_run (g : Group) (m : Mask) : (g.countWindow m).run = g.run := rfl
@[simp] theorem Group.countWindow_sched (g : Group) (m : Mask) : (g.countWindow m).sched = g.sched := rfl
@[simp] theorem Group.countWindow_gaveWay (g : Group) (m : Mask) : (g.countWindow m).gaveWay = g.gaveWay := rfl
@[simp] theorem Group.countWindow_wait (g : Group) (m : Mask) : (g.countWindow m).wait = g.wait := rfl
@[simp] theorem Group.countWindow_waitSp (g : Group) (m : Mask) : (g.countWindow m).waitSp = g.waitSp := rfl
@[simp] theorem Group.countWindow_held (g : Group) (m : Mask) : (g.countWindow m).held = g.held := rfl
@[simp] theorem Group.countWindow_liveAt (g : Group) (m : Mask) : (g.countWindow m).liveAt = g.liveAt := rfl
@[simp] theorem Group.countWindow_safe (g : Group) (m : Mask) : (g.countWindow m).safe = g.safe := rfl
@[simp] theorem Group.countWindow_parked (g : Group) (m : Mask) : (g.countWindow m).parked = g.parked := rfl
@[simp] theorem Group.countWindow_known (g : Group) (m : Mask) : (g.countWindow m).known = g.known := rfl
@[simp] theorem Group.countWindow_seen (g : Group) (m : Mask) : (g.countWindow m).seen = g.seen := rfl
@[simp] theorem Group.countWindow_fenceRel (g : Group) (m : Mask) : (g.countWindow m).fenceRel = g.fenceRel := rfl
@[simp] theorem Group.countWindow_fenceAcq (g : Group) (m : Mask) : (g.countWindow m).fenceAcq = g.fenceAcq := rfl
@[simp] theorem Group.countWindow_dirtyBad (g : Group) (m : Mask) : (g.countWindow m).dirtyBad = g.dirtyBad := rfl
@[simp] theorem Group.countWindow_dirty (g : Group) (m : Mask) : (g.countWindow m).dirty = g.dirty := rfl
@[simp] theorem Group.countWindow_fbuf (g : Group) (m : Mask) : (g.countWindow m).fbuf = g.fbuf := rfl
@[simp] theorem Group.countWindow_slot (g : Group) (m : Mask) : (g.countWindow m).slot = g.slot := rfl
@[simp] theorem Group.countWindow_fault (g : Group) (m : Mask) : (g.countWindow m).fault = g.fault := rfl
@[simp] theorem Group.countWindow_matBad (g : Group) (m : Mask) : (g.countWindow m).matBad = g.matBad := rfl
@[simp] theorem Group.countWindow_whole (g : Group) (m : Mask) : (g.countWindow m).whole = g.whole := rfl
@[simp] theorem Group.complete_key (g : Group) (m : Mask) (sp : Bool) (pc : DWord) : (g.complete m sp pc).key = g.key := rfl
@[simp] theorem Group.complete_live (g : Group) (m : Mask) (sp : Bool) (pc : DWord) : (g.complete m sp pc).live = g.live := rfl
@[simp] theorem Group.complete_width (g : Group) (m : Mask) (sp : Bool) (pc : DWord) : (g.complete m sp pc).width = g.width := rfl
@[simp] theorem Group.complete_lanes (g : Group) (m : Mask) (sp : Bool) (pc : DWord) : (g.complete m sp pc).lanes = g.lanes := rfl
@[simp] theorem Group.complete_s (g : Group) (m : Mask) (sp : Bool) (pc : DWord) : (g.complete m sp pc).s = g.s := rfl
@[simp] theorem Group.complete_c (g : Group) (m : Mask) (sp : Bool) (pc : DWord) : (g.complete m sp pc).c = g.c := rfl
@[simp] theorem Group.complete_t (g : Group) (m : Mask) (sp : Bool) (pc : DWord) : (g.complete m sp pc).t = g.t := rfl
@[simp] theorem Group.complete_q (g : Group) (m : Mask) (sp : Bool) (pc : DWord) : (g.complete m sp pc).q = g.q := rfl
@[simp] theorem Group.complete_act (g : Group) (m : Mask) (sp : Bool) (pc : DWord) : (g.complete m sp pc).act = g.act := rfl
@[simp] theorem Group.complete_exited (g : Group) (m : Mask) (sp : Bool) (pc : DWord) : (g.complete m sp pc).exited = g.exited := rfl
@[simp] theorem Group.complete_stack (g : Group) (m : Mask) (sp : Bool) (pc : DWord) : (g.complete m sp pc).stack = g.stack := rfl
@[simp] theorem Group.complete_gstat (g : Group) (m : Mask) (sp : Bool) (pc : DWord) : (g.complete m sp pc).gstat = g.gstat := rfl
@[simp] theorem Group.complete_energy0 (g : Group) (m : Mask) (sp : Bool) (pc : DWord) : (g.complete m sp pc).energy0 = g.energy0 := rfl
@[simp] theorem Group.complete_trapCause (g : Group) (m : Mask) (sp : Bool) (pc : DWord) : (g.complete m sp pc).trapCause = g.trapCause := rfl
@[simp] theorem Group.complete_trapPc (g : Group) (m : Mask) (sp : Bool) (pc : DWord) : (g.complete m sp pc).trapPc = g.trapPc := rfl
@[simp] theorem Group.complete_trapVal (g : Group) (m : Mask) (sp : Bool) (pc : DWord) : (g.complete m sp pc).trapVal = g.trapVal := rfl
@[simp] theorem Group.complete_trapOrg (g : Group) (m : Mask) (sp : Bool) (pc : DWord) : (g.complete m sp pc).trapOrg = g.trapOrg := rfl
@[simp] theorem Group.complete_sup (g : Group) (m : Mask) (sp : Bool) (pc : DWord) : (g.complete m sp pc).sup = g.sup := rfl
@[simp] theorem Group.complete_bankS (g : Group) (m : Mask) (sp : Bool) (pc : DWord) : (g.complete m sp pc).bankS = g.bankS := rfl
@[simp] theorem Group.complete_bankT (g : Group) (m : Mask) (sp : Bool) (pc : DWord) : (g.complete m sp pc).bankT = g.bankT := rfl
@[simp] theorem Group.complete_count (g : Group) (m : Mask) (sp : Bool) (pc : DWord) : (g.complete m sp pc).count = g.count := rfl
@[simp] theorem Group.complete_rpc (g : Group) (m : Mask) (sp : Bool) (pc : DWord) : (g.complete m sp pc).rpc = g.rpc := rfl
@[simp] theorem Group.complete_ra (g : Group) (m : Mask) (sp : Bool) (pc : DWord) : (g.complete m sp pc).ra = g.ra := rfl
@[simp] theorem Group.complete_rdepth (g : Group) (m : Mask) (sp : Bool) (pc : DWord) : (g.complete m sp pc).rdepth = g.rdepth := rfl
@[simp] theorem Group.complete_restart (g : Group) (m : Mask) (sp : Bool) (pc : DWord) : (g.complete m sp pc).restart = g.restart := rfl
@[simp] theorem Group.complete_nopre (g : Group) (m : Mask) (sp : Bool) (pc : DWord) : (g.complete m sp pc).nopre = g.nopre := rfl
@[simp] theorem Group.complete_waitSp (g : Group) (m : Mask) (sp : Bool) (pc : DWord) : (g.complete m sp pc).waitSp = g.waitSp := rfl
@[simp] theorem Group.complete_held (g : Group) (m : Mask) (sp : Bool) (pc : DWord) : (g.complete m sp pc).held = g.held := rfl
@[simp] theorem Group.complete_parked (g : Group) (m : Mask) (sp : Bool) (pc : DWord) : (g.complete m sp pc).parked = g.parked := rfl
@[simp] theorem Group.complete_known (g : Group) (m : Mask) (sp : Bool) (pc : DWord) : (g.complete m sp pc).known = g.known := rfl
@[simp] theorem Group.complete_seen (g : Group) (m : Mask) (sp : Bool) (pc : DWord) : (g.complete m sp pc).seen = g.seen := rfl
@[simp] theorem Group.complete_fenceRel (g : Group) (m : Mask) (sp : Bool) (pc : DWord) : (g.complete m sp pc).fenceRel = g.fenceRel := rfl
@[simp] theorem Group.complete_fenceAcq (g : Group) (m : Mask) (sp : Bool) (pc : DWord) : (g.complete m sp pc).fenceAcq = g.fenceAcq := rfl
@[simp] theorem Group.complete_dirtyBad (g : Group) (m : Mask) (sp : Bool) (pc : DWord) : (g.complete m sp pc).dirtyBad = g.dirtyBad := rfl
@[simp] theorem Group.complete_dirty (g : Group) (m : Mask) (sp : Bool) (pc : DWord) : (g.complete m sp pc).dirty = g.dirty := rfl
@[simp] theorem Group.complete_fbuf (g : Group) (m : Mask) (sp : Bool) (pc : DWord) : (g.complete m sp pc).fbuf = g.fbuf := rfl
@[simp] theorem Group.complete_slot (g : Group) (m : Mask) (sp : Bool) (pc : DWord) : (g.complete m sp pc).slot = g.slot := rfl
@[simp] theorem Group.complete_fault (g : Group) (m : Mask) (sp : Bool) (pc : DWord) : (g.complete m sp pc).fault = g.fault := rfl
@[simp] theorem Group.complete_matBad (g : Group) (m : Mask) (sp : Bool) (pc : DWord) : (g.complete m sp pc).matBad = g.matBad := rfl
@[simp] theorem Group.complete_whole (g : Group) (m : Mask) (sp : Bool) (pc : DWord) : (g.complete m sp pc).whole = g.whole := rfl
@[simp] theorem Group.complete_pc (g : Group) (m : Mask) (sp : Bool) (pc : DWord) : (g.complete m sp pc).pc = pc := rfl
@[simp] theorem Group.complete_run (g : Group) (m : Mask) (sp : Bool) (pc : DWord) : (g.complete m sp pc).run = .none := rfl
@[simp] theorem Group.complete_wait (g : Group) (m : Mask) (sp : Bool) (pc : DWord) : (g.complete m sp pc).wait = .none := rfl
@[simp] theorem Group.complete_safe (g : Group) (m : Mask) (sp : Bool) (pc : DWord) :
    (g.complete m sp pc).safe = (sp && !g.sup) := rfl

@[simp] theorem Group.enterHandler_key (g : Group) (c : CoreSetup) (cause code : Nat) (val tpc org : DWord) : (g.enterHandler c cause code val tpc org).key = g.key := rfl
@[simp] theorem Group.enterHandler_live (g : Group) (c : CoreSetup) (cause code : Nat) (val tpc org : DWord) : (g.enterHandler c cause code val tpc org).live = g.live := rfl
@[simp] theorem Group.enterHandler_width (g : Group) (c : CoreSetup) (cause code : Nat) (val tpc org : DWord) : (g.enterHandler c cause code val tpc org).width = g.width := rfl
@[simp] theorem Group.enterHandler_lanes (g : Group) (c : CoreSetup) (cause code : Nat) (val tpc org : DWord) : (g.enterHandler c cause code val tpc org).lanes = g.lanes := rfl
@[simp] theorem Group.enterHandler_s (g : Group) (c : CoreSetup) (cause code : Nat) (val tpc org : DWord) : (g.enterHandler c cause code val tpc org).s = g.s := rfl
@[simp] theorem Group.enterHandler_c (g : Group) (c : CoreSetup) (cause code : Nat) (val tpc org : DWord) : (g.enterHandler c cause code val tpc org).c = g.c := rfl
@[simp] theorem Group.enterHandler_t (g : Group) (c : CoreSetup) (cause code : Nat) (val tpc org : DWord) : (g.enterHandler c cause code val tpc org).t = g.t := rfl
@[simp] theorem Group.enterHandler_q (g : Group) (c : CoreSetup) (cause code : Nat) (val tpc org : DWord) : (g.enterHandler c cause code val tpc org).q = g.q := rfl
@[simp] theorem Group.enterHandler_act (g : Group) (c : CoreSetup) (cause code : Nat) (val tpc org : DWord) : (g.enterHandler c cause code val tpc org).act = g.act := rfl
@[simp] theorem Group.enterHandler_exited (g : Group) (c : CoreSetup) (cause code : Nat) (val tpc org : DWord) : (g.enterHandler c cause code val tpc org).exited = g.exited := rfl
@[simp] theorem Group.enterHandler_stack (g : Group) (c : CoreSetup) (cause code : Nat) (val tpc org : DWord) : (g.enterHandler c cause code val tpc org).stack = g.stack := rfl
@[simp] theorem Group.enterHandler_gstat (g : Group) (c : CoreSetup) (cause code : Nat) (val tpc org : DWord) : (g.enterHandler c cause code val tpc org).gstat = g.gstat := rfl
@[simp] theorem Group.enterHandler_energy0 (g : Group) (c : CoreSetup) (cause code : Nat) (val tpc org : DWord) : (g.enterHandler c cause code val tpc org).energy0 = g.energy0 := rfl
@[simp] theorem Group.enterHandler_count (g : Group) (c : CoreSetup) (cause code : Nat) (val tpc org : DWord) : (g.enterHandler c cause code val tpc org).count = g.count := rfl
@[simp] theorem Group.enterHandler_rpc (g : Group) (c : CoreSetup) (cause code : Nat) (val tpc org : DWord) : (g.enterHandler c cause code val tpc org).rpc = g.rpc := rfl
@[simp] theorem Group.enterHandler_ra (g : Group) (c : CoreSetup) (cause code : Nat) (val tpc org : DWord) : (g.enterHandler c cause code val tpc org).ra = g.ra := rfl
@[simp] theorem Group.enterHandler_rdepth (g : Group) (c : CoreSetup) (cause code : Nat) (val tpc org : DWord) : (g.enterHandler c cause code val tpc org).rdepth = g.rdepth := rfl
@[simp] theorem Group.enterHandler_restart (g : Group) (c : CoreSetup) (cause code : Nat) (val tpc org : DWord) : (g.enterHandler c cause code val tpc org).restart = g.restart := rfl
@[simp] theorem Group.enterHandler_sched (g : Group) (c : CoreSetup) (cause code : Nat) (val tpc org : DWord) : (g.enterHandler c cause code val tpc org).sched = g.sched := rfl
@[simp] theorem Group.enterHandler_gaveWay (g : Group) (c : CoreSetup) (cause code : Nat) (val tpc org : DWord) : (g.enterHandler c cause code val tpc org).gaveWay = g.gaveWay := rfl
@[simp] theorem Group.enterHandler_waitSp (g : Group) (c : CoreSetup) (cause code : Nat) (val tpc org : DWord) : (g.enterHandler c cause code val tpc org).waitSp = g.waitSp := rfl
@[simp] theorem Group.enterHandler_held (g : Group) (c : CoreSetup) (cause code : Nat) (val tpc org : DWord) : (g.enterHandler c cause code val tpc org).held = g.held := rfl
@[simp] theorem Group.enterHandler_liveAt (g : Group) (c : CoreSetup) (cause code : Nat) (val tpc org : DWord) : (g.enterHandler c cause code val tpc org).liveAt = g.liveAt := rfl
@[simp] theorem Group.enterHandler_parked (g : Group) (c : CoreSetup) (cause code : Nat) (val tpc org : DWord) : (g.enterHandler c cause code val tpc org).parked = g.parked := rfl
@[simp] theorem Group.enterHandler_known (g : Group) (c : CoreSetup) (cause code : Nat) (val tpc org : DWord) : (g.enterHandler c cause code val tpc org).known = g.known := rfl
@[simp] theorem Group.enterHandler_seen (g : Group) (c : CoreSetup) (cause code : Nat) (val tpc org : DWord) : (g.enterHandler c cause code val tpc org).seen = g.seen := rfl
@[simp] theorem Group.enterHandler_fenceRel (g : Group) (c : CoreSetup) (cause code : Nat) (val tpc org : DWord) : (g.enterHandler c cause code val tpc org).fenceRel = g.fenceRel := rfl
@[simp] theorem Group.enterHandler_fenceAcq (g : Group) (c : CoreSetup) (cause code : Nat) (val tpc org : DWord) : (g.enterHandler c cause code val tpc org).fenceAcq = g.fenceAcq := rfl
@[simp] theorem Group.enterHandler_dirtyBad (g : Group) (c : CoreSetup) (cause code : Nat) (val tpc org : DWord) : (g.enterHandler c cause code val tpc org).dirtyBad = g.dirtyBad := rfl
@[simp] theorem Group.enterHandler_dirty (g : Group) (c : CoreSetup) (cause code : Nat) (val tpc org : DWord) : (g.enterHandler c cause code val tpc org).dirty = g.dirty := rfl
@[simp] theorem Group.enterHandler_slot (g : Group) (c : CoreSetup) (cause code : Nat) (val tpc org : DWord) : (g.enterHandler c cause code val tpc org).slot = g.slot := rfl
@[simp] theorem Group.enterHandler_fault (g : Group) (c : CoreSetup) (cause code : Nat) (val tpc org : DWord) : (g.enterHandler c cause code val tpc org).fault = g.fault := rfl
@[simp] theorem Group.enterHandler_matBad (g : Group) (c : CoreSetup) (cause code : Nat) (val tpc org : DWord) : (g.enterHandler c cause code val tpc org).matBad = g.matBad := rfl
@[simp] theorem Group.enterHandler_whole (g : Group) (c : CoreSetup) (cause code : Nat) (val tpc org : DWord) : (g.enterHandler c cause code val tpc org).whole = g.whole := rfl
@[simp] theorem Group.enterHandler_trapCause (g : Group) (c : CoreSetup) (cause code : Nat) (val tpc org : DWord) :
    (g.enterHandler c cause code val tpc org).trapCause = trapCauseWord cause code := rfl

@[simp] theorem Group.enterHandler_trapPc (g : Group) (c : CoreSetup) (cause code : Nat) (val tpc org : DWord) :
    (g.enterHandler c cause code val tpc org).trapPc = tpc := rfl

@[simp] theorem Group.enterHandler_trapVal (g : Group) (c : CoreSetup) (cause code : Nat) (val tpc org : DWord) :
    (g.enterHandler c cause code val tpc org).trapVal = val := rfl

@[simp] theorem Group.enterHandler_trapOrg (g : Group) (c : CoreSetup) (cause code : Nat) (val tpc org : DWord) :
    (g.enterHandler c cause code val tpc org).trapOrg = org := rfl

@[simp] theorem Group.enterHandler_sup (g : Group) (c : CoreSetup) (cause code : Nat) (val tpc org : DWord) :
    (g.enterHandler c cause code val tpc org).sup = true := rfl

@[simp] theorem Group.enterHandler_pc (g : Group) (c : CoreSetup) (cause code : Nat) (val tpc org : DWord) :
    (g.enterHandler c cause code val tpc org).pc = .ofNat 64 c.handler := rfl

@[simp] theorem Group.enterHandler_nopre (g : Group) (c : CoreSetup) (cause code : Nat) (val tpc org : DWord) :
    (g.enterHandler c cause code val tpc org).nopre = none := rfl

@[simp] theorem Group.enterHandler_wait (g : Group) (c : CoreSetup) (cause code : Nat) (val tpc org : DWord) :
    (g.enterHandler c cause code val tpc org).wait = .none := rfl

@[simp] theorem Group.returnFromTrap_key (g : Group) : (g.returnFromTrap).key = g.key := rfl
@[simp] theorem Group.returnFromTrap_live (g : Group) : (g.returnFromTrap).live = g.live := rfl
@[simp] theorem Group.returnFromTrap_width (g : Group) : (g.returnFromTrap).width = g.width := rfl
@[simp] theorem Group.returnFromTrap_lanes (g : Group) : (g.returnFromTrap).lanes = g.lanes := rfl
@[simp] theorem Group.returnFromTrap_s (g : Group) : (g.returnFromTrap).s = g.s := rfl
@[simp] theorem Group.returnFromTrap_c (g : Group) : (g.returnFromTrap).c = g.c := rfl
@[simp] theorem Group.returnFromTrap_t (g : Group) : (g.returnFromTrap).t = g.t := rfl
@[simp] theorem Group.returnFromTrap_q (g : Group) : (g.returnFromTrap).q = g.q := rfl
@[simp] theorem Group.returnFromTrap_act (g : Group) : (g.returnFromTrap).act = g.act := rfl
@[simp] theorem Group.returnFromTrap_exited (g : Group) : (g.returnFromTrap).exited = g.exited := rfl
@[simp] theorem Group.returnFromTrap_stack (g : Group) : (g.returnFromTrap).stack = g.stack := rfl
@[simp] theorem Group.returnFromTrap_gstat (g : Group) : (g.returnFromTrap).gstat = g.gstat := rfl
@[simp] theorem Group.returnFromTrap_energy0 (g : Group) : (g.returnFromTrap).energy0 = g.energy0 := rfl
@[simp] theorem Group.returnFromTrap_trapCause (g : Group) : (g.returnFromTrap).trapCause = g.trapCause := rfl
@[simp] theorem Group.returnFromTrap_trapPc (g : Group) : (g.returnFromTrap).trapPc = g.trapPc := rfl
@[simp] theorem Group.returnFromTrap_trapVal (g : Group) : (g.returnFromTrap).trapVal = g.trapVal := rfl
@[simp] theorem Group.returnFromTrap_trapOrg (g : Group) : (g.returnFromTrap).trapOrg = g.trapOrg := rfl
@[simp] theorem Group.returnFromTrap_count (g : Group) : (g.returnFromTrap).count = g.count := rfl
@[simp] theorem Group.returnFromTrap_rpc (g : Group) : (g.returnFromTrap).rpc = g.rpc := rfl
@[simp] theorem Group.returnFromTrap_ra (g : Group) : (g.returnFromTrap).ra = g.ra := rfl
@[simp] theorem Group.returnFromTrap_rdepth (g : Group) : (g.returnFromTrap).rdepth = g.rdepth := rfl
@[simp] theorem Group.returnFromTrap_restart (g : Group) : (g.returnFromTrap).restart = g.restart := rfl
@[simp] theorem Group.returnFromTrap_nopre (g : Group) : (g.returnFromTrap).nopre = g.nopre := rfl
@[simp] theorem Group.returnFromTrap_sched (g : Group) : (g.returnFromTrap).sched = g.sched := rfl
@[simp] theorem Group.returnFromTrap_gaveWay (g : Group) : (g.returnFromTrap).gaveWay = g.gaveWay := rfl
@[simp] theorem Group.returnFromTrap_wait (g : Group) : (g.returnFromTrap).wait = g.wait := rfl
@[simp] theorem Group.returnFromTrap_waitSp (g : Group) : (g.returnFromTrap).waitSp = g.waitSp := rfl
@[simp] theorem Group.returnFromTrap_held (g : Group) : (g.returnFromTrap).held = g.held := rfl
@[simp] theorem Group.returnFromTrap_liveAt (g : Group) : (g.returnFromTrap).liveAt = g.liveAt := rfl
@[simp] theorem Group.returnFromTrap_parked (g : Group) : (g.returnFromTrap).parked = g.parked := rfl
@[simp] theorem Group.returnFromTrap_known (g : Group) : (g.returnFromTrap).known = g.known := rfl
@[simp] theorem Group.returnFromTrap_seen (g : Group) : (g.returnFromTrap).seen = g.seen := rfl
@[simp] theorem Group.returnFromTrap_fenceRel (g : Group) : (g.returnFromTrap).fenceRel = g.fenceRel := rfl
@[simp] theorem Group.returnFromTrap_fenceAcq (g : Group) : (g.returnFromTrap).fenceAcq = g.fenceAcq := rfl
@[simp] theorem Group.returnFromTrap_dirtyBad (g : Group) : (g.returnFromTrap).dirtyBad = g.dirtyBad := rfl
@[simp] theorem Group.returnFromTrap_dirty (g : Group) : (g.returnFromTrap).dirty = g.dirty := rfl
@[simp] theorem Group.returnFromTrap_slot (g : Group) : (g.returnFromTrap).slot = g.slot := rfl
@[simp] theorem Group.returnFromTrap_fault (g : Group) : (g.returnFromTrap).fault = g.fault := rfl
@[simp] theorem Group.returnFromTrap_matBad (g : Group) : (g.returnFromTrap).matBad = g.matBad := rfl
@[simp] theorem Group.returnFromTrap_whole (g : Group) : (g.returnFromTrap).whole = g.whole := rfl

end Sys2Proof.Machine
end

