-- ==== Sys2Proof/Safety.lean ====
section
/-!
DEFINITION. Safety.lean: what a safe run is, and the terms in which claims speak of a word's issue.
-/

namespace Sys2Proof.Machine

/-! ### A safe run -/

/-- A step goes on: it neither faults nor is refused. -/
def State.Goes (s : State) : Prop := ∃ t, step s = .next t

/-- The invariant of every state: memory in its canonical form, and the time base a 64-bit count (R20). -/
def State.Inv (s : State) : Prop := Memory.wf s.mem = true ∧ s.time.now < 2 ^ 64

/-! ### The issue of a word -/

/-- A form accepts the IMM of a run (R32): none for a word marked "no IMM"; for a word whose b it replaces, with the b field 0. -/
def ImmUse.accepts (u : ImmUse) (v : Option (BitVec 24)) : Prop :=
  match u with
  | .none => v = .none
  | .replaces b => v = .none ∨ b = 0
  | .takes => True

/-- The current group issues the word of i, of this form: the checks of R30 and R263 pass; where its guard lets it act, slice code may
use it (R240) and the hold of R251 does not stop it; no fence still holds back a word that touches memory or an engine (R200). -/
structure Clears (s : State) (i : Instr) (imm : ImmUse) (mods : Nat) (sx slice held : Bool) : Prop where
  live    : s.cur.live = true
  hints   : s.cur.run.bad = none
  immOk   : imm.accepts s.cur.run.imm
  modOk   : ∀ m, s.cur.run.mod = some m → takesNoMod (wordOf i) mods = false ∧ modPairBad m.toNat mods sx = false
  sliceOk : s.cur.acts (wordOf i) = true → s.cur.key.shadow = true → slice = true
  heldOk  : s.cur.acts (wordOf i) = true → s.cur.held = true → s.cur.sup = true ∨ held = true
  clear   : fenced (wordOf i) = true → ∀ e ∈ s.cur.pend, e.act.isFence = false

/-- And the address space goes on after it (R14), so that it can complete in sequence. -/
structure Issues (s : State) (i : Instr) (imm : ImmUse) (mods : Nat) (sx slice held : Bool) : Prop
    extends Clears s i imm mods sx slice held where
  fits : canonical (s.cur.pc + 4) = true

/-- The lanes that act, and what they ask for is there: the registers are the group's (R5, R6), none is poisoned (R319), and no
queue that is read is empty (R241). -/
def State.lanesReady (s : State) (on : List Nat) (dsts srcs : List VReg) : Prop :=
  on ≠ [] → s.regFault dsts srcs = none ∧ s.poisonReg on srcs = none ∧
    ∀ q ∈ s.queuesOf srcs, ∀ j ∈ on, s.entries j q ≠ []

/-- The state with the entries that a word reads popped from the queues (R241). -/
def State.popped (s : State) (on : List Nat) (srcs : List VReg) : State :=
  if on = [] ∨ s.queuesOf srcs = [] then s else s.popQueues on (s.queuesOf srcs)

/-- A word completes in sequence: the group f of the state t, at the next word (R14, R26, R28, R31). -/
def State.after (s : State) (sp : Bool) (t : State) (g : Group) : State := t.setCur (g.complete s.cur.act sp (s.cur.pc + 4))

/-- A lane with a pair written (R5). -/
def Lane.vset64 (l : Lane) (d : Nat) (x : DWord) : Lane := (l.vset d (x.setWidth 32)).vset (d + 1) ((x >>> 32).setWidth 32)

/-- A lane with a predicate written; p0 discards it (R4). -/
def Lane.pset (l : Lane) (i : Nat) (b : Bool) : Lane := if i = 0 then l else { l with p := setBit l.p i b }

/-! ### The shapes of words that act in each lane (R24, R52) -/

/-- What a lane word does: its form, its registers, the new lane of every lane that acts, the flags of that lane, and what else it
asks for. -/
structure LaneWord where
  ctl   : Ctl
  imm   : ImmUse
  mods  : Nat
  sx    : Bool
  slice : Bool
  dsts  : List VReg
  srcs  : State → List VReg
  lane  : State → Nat → Lane → Lane
  flags : State → Nat → DWord
  also  : State → Prop

/-- The word completes: in every lane that acts the new lane stands and one entry of every queue it read is gone (of its own group's
queues; a shadow reads those of the group it accompanies), the flags are in GSTAT, and nothing else has changed. -/
def LaneWord.Does (i : Instr) (x : LaneWord) : Prop :=
  ∀ s : State, Issues s i x.imm x.mods x.sx x.slice true → wellFormed i = true → x.also s →
    s.lanesReady (s.cur.on x.ctl) x.dsts (x.srcs s) →
    ∃ g : Group,
      exec i s = .next (s.after x.ctl.sp (s.popped (s.cur.on x.ctl) (x.srcs s)) g) ∧
      g = { (s.popped (s.cur.on x.ctl) (x.srcs s)).cur with
        lanes := g.lanes, gstat := s.cur.gstat ||| flagsOf ((s.cur.on x.ctl).map (x.flags s)) } ∧
      (∀ j, g.lane j = if j ∈ s.cur.on x.ctl then x.lane s j (s.cur.lane j) else s.cur.lane j) ∧
      ∀ j q, q < 8 → (s.popped (s.cur.on x.ctl) (x.srcs s)).entries j q =
        if j ∈ s.cur.on x.ctl ∧ q ∈ s.queuesOf (x.srcs s) then (s.entries j q).tail else s.entries j q

/-- d := f of the operands of one, two or three sources, on 32-bit lanes, with flags. -/
def w1 (c : Ctl) (d a : BitVec 6) (mods : Nat) (slice : Bool) (f : Run → Word → Word × DWord) : LaneWord :=
  { ctl := c, imm := .none, mods := mods, sx := false, slice := slice, dsts := [(d.toNat, 1)], srcs := fun _ => [(a.toNat, 1)],
    lane := fun s j l => l.vset d.toNat (f s.cur.run (s.src j a.toNat)).1,
    flags := fun s j => (f s.cur.run (s.src j a.toNat)).2, also := fun _ => True }

def w2 (c : Ctl) (d a b : BitVec 6) (mods : Nat) (sx slice : Bool) (f : Run → Word → Word → Word × DWord) : LaneWord :=
  { ctl := c, imm := .replaces b.toNat, mods := mods, sx := sx, slice := slice, dsts := [(d.toNat, 1)],
    srcs := fun s => (a.toNat, 1) :: s.bSrc b.toNat 1,
    lane := fun s j l => l.vset d.toNat (f s.cur.run (s.src j a.toNat) (s.bLane j b.toNat)).1,
    flags := fun s j => (f s.cur.run (s.src j a.toNat) (s.bLane j b.toNat)).2, also := fun _ => True }

def w3 (c : Ctl) (d a b : BitVec 6) (mods : Nat) (sx slice : Bool) (f : Run → Word → Word → Word → Word × DWord) : LaneWord :=
  { ctl := c, imm := .replaces b.toNat, mods := mods, sx := sx, slice := slice, dsts := [(d.toNat, 1)],
    srcs := fun s => (a.toNat, 1) :: (s.bSrc b.toNat 1 ++ [(s.zReg d.toNat, 1)]),
    lane := fun s j l => l.vset d.toNat (f s.cur.run (s.src j a.toNat) (s.bLane j b.toNat) (s.src j (s.zReg d.toNat))).1,
    flags := fun s j => (f s.cur.run (s.src j a.toNat) (s.bLane j b.toNat) (s.src j (s.zReg d.toNat))).2,
    also := fun _ => True }

/-- The same on pairs (R5, R55). -/
def d1 (c : Ctl) (d a : BitVec 6) (mods : Nat) (slice : Bool) (f : Run → DWord → DWord × DWord) : LaneWord :=
  { ctl := c, imm := .none, mods := mods, sx := false, slice := slice, dsts := [(d.toNat, 2)], srcs := fun _ => [(a.toNat, 2)],
    lane := fun s j l => l.vset64 d.toNat (f s.cur.run (s.src64 j a.toNat)).1,
    flags := fun s j => (f s.cur.run (s.src64 j a.toNat)).2, also := fun _ => True }

def d2 (c : Ctl) (d a b : BitVec 6) (mods : Nat) (sx slice : Bool) (f : Run → DWord → DWord → DWord × DWord) : LaneWord :=
  { ctl := c, imm := .replaces b.toNat, mods := mods, sx := sx, slice := slice, dsts := [(d.toNat, 2)],
    srcs := fun s => (a.toNat, 2) :: s.bSrc b.toNat 2,
    lane := fun s j l => l.vset64 d.toNat (f s.cur.run (s.src64 j a.toNat) (s.bPair j b.toNat)).1,
    flags := fun s j => (f s.cur.run (s.src64 j a.toNat) (s.bPair j b.toNat)).2, also := fun _ => True }

def d3 (c : Ctl) (d a b : BitVec 6) (mods : Nat) (sx slice : Bool) (f : Run → DWord → DWord → DWord → DWord × DWord) : LaneWord :=
  { ctl := c, imm := .replaces b.toNat, mods := mods, sx := sx, slice := slice, dsts := [(d.toNat, 2)],
    srcs := fun s => (a.toNat, 2) :: (s.bSrc b.toNat 2 ++ [(s.zReg d.toNat, 2)]),
    lane := fun s j l => l.vset64 d.toNat (f s.cur.run (s.src64 j a.toNat) (s.bPair j b.toNat) (s.src64 j (s.zReg d.toNat))).1,
    flags := fun s j => (f s.cur.run (s.src64 j a.toNat) (s.bPair j b.toNat) (s.src64 j (s.zReg d.toNat))).2,
    also := fun _ => True }

/-- A function without flags, of one, two or three values. -/
def quiet1 {w : Nat} (f : Run → BitVec w → BitVec w) : Run → BitVec w → BitVec w × DWord := fun r x => (f r x, 0)
def quiet2 {w : Nat} (f : Run → BitVec w → BitVec w → BitVec w) : Run → BitVec w → BitVec w → BitVec w × DWord :=
  fun r x y => (f r x y, 0)

def quiet3 {w : Nat} (f : Run → BitVec w → BitVec w → BitVec w → BitVec w) :
    Run → BitVec w → BitVec w → BitVec w → BitVec w × DWord := fun r x y z => (f r x y z, 0)

/-! ### The shapes of words that act once for the group (R24) -/

/-- What a group's word does: its form, when it acts, the s registers it names (slice code has s0 to s15, R239), what it needs
when it acts (and in also, always), the state it leaves before its completion, and where its group goes on. -/
structure GroupWord where
  sp    : Bool
  acts  : State → Bool
  imm   : ImmUse
  mods  : Nat
  sx    : Bool
  slice : Bool
  held  : Bool
  regs  : State → List Nat
  ready : State → Prop
  out   : State → State
  goes  : State → DWord
  also  : State → Prop := fun _ => True

/-- The word completes: where it acts, with the state of out at the address of goes; otherwise with nothing changed, at the next word. -/
def GroupWord.Does (i : Instr) (x : GroupWord) : Prop :=
  ∀ s : State, Issues s i x.imm x.mods x.sx x.slice x.held → wellFormed i = true → x.also s →
    (x.acts s = true → x.ready s ∧ (s.cur.key.shadow = true → ∀ r ∈ x.regs s, r < 16)) →
    exec i s = .next (if x.acts s = true then (x.out s).setCur ((x.out s).cur.complete s.cur.act x.sp (x.goes s))
      else s.after x.sp s s.cur)

/-- A word under the uniform guard that takes neither IMM nor MOD and goes on in sequence. -/
def g0 (c : Ctl) (slice held : Bool) (regs : List Nat) (ready : State → Prop) (out : State → State) : GroupWord :=
  { sp := c.sp, acts := fun s => s.cur.guard c, imm := .none, mods := 0, sx := false, slice := slice, held := held,
    regs := fun _ => regs, ready := ready, out := out, goes := fun s => s.cur.pc + 4 }

/-- The uniform registers that b names: none under IMM (R32). -/
def State.bReg (s : State) (b : BitVec 6) : List Nat := if s.cur.run.imm.isNone then [b.toNat] else []

/-- s(d) := f of one, two or three uniform operands (R56): a value of s0 reads 0 and a write to it is discarded (R4). -/
def u1 (c : Ctl) (d a : BitVec 6) (mods : Nat) (f : Run → DWord → DWord) : GroupWord :=
  { g0 c true true [d.toNat, a.toNat] (fun _ => True) (fun s => s.setCur (s.cur.sset d.toNat (f s.cur.run (s.cur.sget a.toNat))))
      with mods := mods }

def u2 (c : Ctl) (d a b : BitVec 6) (mods : Nat) (sx : Bool) (f : Run → DWord → DWord → DWord) : GroupWord :=
  { g0 c true true [] (fun _ => True)
      (fun s => s.setCur (s.cur.sset d.toNat (f s.cur.run (s.cur.sget a.toNat) (s.bUni b.toNat))))
      with imm := .replaces b.toNat, mods := mods, sx := sx, regs := fun s => d.toNat :: a.toNat :: s.bReg b }

def u3 (c : Ctl) (d a b : BitVec 6) (mods : Nat) (sx : Bool) (f : Run → DWord → DWord → DWord → DWord) : GroupWord :=
  { g0 c true true [] (fun _ => True)
      (fun s => s.setCur (s.cur.sset d.toNat
        (f s.cur.run (s.cur.sget a.toNat) (s.bUni b.toNat) (s.cur.sget (s.zReg d.toNat)))))
      with imm := .replaces b.toNat, mods := mods, sx := sx,
           regs := fun s => d.toNat :: a.toNat :: s.zReg d.toNat :: s.bReg b }

end Sys2Proof.Machine
end

