-- ==== Sys2Proof/Laws/Ops.lean ====
section
/-!
SUPPORT. Laws/Ops.lean: registers read after they are written; what the loops over lanes leave in each lane.
-/

namespace Sys2Proof.Machine

/-! ### One register -/

@[simp] theorem Group.lane_setLane (g : Group) (i j : Nat) (l : Lane) :
    (g.setLane i l).lane j = if j = i then l else g.lane j := mapGet_mapSet _ _ _ _ _

theorem Group.lane_vset (g : Group) (i j r : Nat) (x : Word) :
    (g.vset i r x).lane j = if j = i then (g.lane i).vset r x else g.lane j := Group.lane_setLane ..

theorem Lane.v_vset (l : Lane) (r q : Nat) (x : Word) :
    mapGet 0 (l.vset r x).v q = if q = r then x else mapGet 0 l.v q := mapGet_mapSet _ _ _ _ _

@[simp] theorem Lane.vset_p (l : Lane) (r : Nat) (x : Word) : (l.vset r x).p = l.p := rfl
@[simp] theorem Lane.vset_thread (l : Lane) (r : Nat) (x : Word) : (l.vset r x).thread = l.thread := rfl

/-- A vector register after a write of one (R4). -/
theorem Group.vget_vset (g : Group) (i j r q : Nat) (x : Word) :
    (g.vset i r x).vget j q = if j = i ∧ q = r then x else g.vget j q := by
  unfold Group.vget
  rw [Group.lane_vset]
  by_cases h : j = i
  · subst h; simp only [if_true, true_and]; exact Lane.v_vset ..
  · simp only [h, if_false, false_and]

/-- s0 reads zero whatever is written to it (R4). -/
@[simp] theorem Group.sget_zero (g : Group) : g.sget 0 = 0 := rfl
@[simp] theorem Group.sset_zero (g : Group) (x : DWord) : g.sset 0 x = g := rfl

/-- A uniform register after a write of one: s0 discards it; in supervisor mode s56 to s63 are the bank's (R4, R17). -/
theorem Group.sget_sset (g : Group) (r q : Nat) (x : DWord) :
    (g.sset r x).sget q = if q = r ∧ r ≠ 0 then x else g.sget q := by
  by_cases h0 : r = 0
  · subst h0; simp
  · by_cases hb : (g.sup && decide (56 ≤ r)) = true
    · have e : g.sset r x = { g with bankS := mapSet 0 g.bankS r x } := by simp [Group.sset, h0, hb]
      rw [e]; unfold Group.sget
      simp only [mapGet_mapSet]
      by_cases hq : q = r
      · subst hq; rw [if_neg h0, if_pos hb, if_pos rfl, if_pos ⟨rfl, h0⟩]
      · simp only [hq, if_false, false_and]
    · have e : g.sset r x = { g with s := mapSet 0 g.s r x } := by simp [Group.sset, h0, hb]
      rw [e]; unfold Group.sget
      simp only [mapGet_mapSet]
      by_cases hq : q = r
      · subst hq; rw [if_neg h0, if_neg hb, if_pos rfl, if_pos ⟨rfl, h0⟩]
      · simp only [hq, if_false, false_and]

theorem getLsbD_setBit {w : Nat} (m : BitVec w) (i j : Nat) (b : Bool) (hj : j < w) :
    (setBit m i b).getLsbD j = if j = i then b else m.getLsbD j := by
  unfold setBit
  cases b <;> by_cases h : j = i
  · subst h; simp [hj]
  · have hne : i ≠ j := fun e => h e.symm
    simp [h, hj]; omega
  · subst h; simp [hj]
  · simp [h]; omega

/-- c(i) after a write of one: c0 discards it (R4). -/
theorem Group.cget_cset (g : Group) (i j : Nat) (b : Bool) (hj : j < 8) :
    (g.cset i b).cget j = if j = i ∧ i ≠ 0 then b else g.cget j := by
  unfold Group.cset Group.cget
  split
  · rename_i h; subst h; by_cases hj0 : j = 0 <;> simp [hj0]
  · rename_i h
    simp only [getLsbD_setBit _ _ _ _ hj]
    by_cases hji : j = i
    · subst hji; simp [h]
    · simp [hji]

/-- p(i) of a lane after a write of one: p0 discards it (R4). -/
theorem Group.pget_pset (g : Group) (l i k j : Nat) (b : Bool) (hj : j < 8) :
    (g.pset l i b).pget k j = if k = l ∧ j = i ∧ i ≠ 0 then b else g.pget k j := by
  unfold Group.pset Group.pget
  split
  · rename_i h; subst h; by_cases hj0 : j = 0 <;> simp [hj0]
  · rename_i h
    by_cases hk : k = l
    · subst hk
      simp only [Group.lane_setLane, if_true, getLsbD_setBit _ _ _ _ hj]
      by_cases hji : j = i
      · subst hji; simp [h]
      · simp [hji]
    · simp [hk]

/-! ### Loops over lanes -/

theorem Group.lanesOn_nodup (g : Group) : g.lanesOn.Nodup := (List.nodup_range).filter _
theorem Group.on_nodup (g : Group) (c : Ctl) : (g.on c).Nodup := (g.lanesOn_nodup).filter _

/-- A loop that rewrites each of its lanes from what it held leaves every other lane as it was. -/
theorem Group.foldl_lane (u : Nat → Lane → Lane) (step : Group → Nat → Group)
    (hs : ∀ g j i, (step g j).lane i = if i = j then u j (g.lane j) else g.lane i) (js : List Nat) :
    js.Nodup → ∀ g i, (js.foldl step g).lane i = if i ∈ js then u i (g.lane i) else g.lane i := by
  induction js with
  | nil => intro _ g i; simp
  | cons j js ih =>
    intro hn g i
    obtain ⟨hj, hn⟩ := List.nodup_cons.mp hn
    simp only [List.foldl_cons, ih hn, hs, List.mem_cons]
    by_cases h : i = j
    · subst h; simp [hj]
    · simp [h]

/-- A loop of updates that each leave a field alone leaves it alone. -/
theorem foldl_keeps {α β γ : Type} (f : α → γ) (step : α → β → α) (h : ∀ a b, f (step a b) = f a) (bs : List β) :
    ∀ a, f (bs.foldl step a) = f a := by
  induction bs with
  | nil => intro a; rfl
  | cons b bs ih => intro a; rw [List.foldl_cons, ih, h]

theorem Group.putLanes_lane (g : Group) {on : List Nat} (hn : on.Nodup) (d : Nat) (f : Nat → Word) (i : Nat) :
    (g.putLanes on d f).lane i = if i ∈ on then (g.lane i).vset d (f i) else g.lane i :=
  Group.foldl_lane (fun j l => l.vset d (f j)) _ (fun g j i => Group.lane_vset g j i d (f j)) on hn g i

theorem Group.putPairs_lane (g : Group) {on : List Nat} (hn : on.Nodup) (d : Nat) (f : Nat → DWord) (i : Nat) :
    (g.putPairs on d f).lane i = if i ∈ on then (g.lane i).vset64 d (f i) else g.lane i := by
  refine Group.foldl_lane (fun j l => l.vset64 d (f j)) _ (fun g j i => ?_) on hn g i
  simp only [Group.vset64, Group.lane_vset]
  split <;> simp [Lane.vset64]

theorem Group.putPreds_lane (g : Group) {on : List Nat} (hn : on.Nodup) (d : Nat) (f : Nat → Bool) (i : Nat) :
    (g.putPreds on d f).lane i = if i ∈ on then (g.lane i).pset d (f i) else g.lane i := by
  refine Group.foldl_lane (fun j l => l.pset d (f j)) _ (fun g j i => ?_) on hn g i
  unfold Group.pset Lane.pset
  split
  · split <;> simp_all
  · simp

/-- A loop of lane updates changes the lanes of the group and nothing else. -/
theorem Group.foldl_onlyLanes (step : Group → Nat → Group) (hs : ∀ g j, ∃ l, step g j = { g with lanes := l }) (js : List Nat) :
    ∀ g, ∃ l, js.foldl step g = { g with lanes := l } := by
  induction js with
  | nil => intro g; exact ⟨g.lanes, rfl⟩
  | cons j js ih =>
    intro g
    obtain ⟨l, hl⟩ := hs g j
    obtain ⟨l', hl'⟩ := ih (step g j)
    exact ⟨l', by rw [List.foldl_cons, hl', hl]⟩

theorem Group.putLanes_only (g : Group) (on : List Nat) (d : Nat) (f : Nat → Word) :
    ∃ l, g.putLanes on d f = { g with lanes := l } := Group.foldl_onlyLanes _ (fun _ _ => ⟨_, rfl⟩) on g

theorem Group.putPairs_only (g : Group) (on : List Nat) (d : Nat) (f : Nat → DWord) :
    ∃ l, g.putPairs on d f = { g with lanes := l } := Group.foldl_onlyLanes _ (fun _ _ => ⟨_, rfl⟩) on g

theorem Group.putPreds_only (g : Group) (on : List Nat) (d : Nat) (f : Nat → Bool) :
    ∃ l, g.putPreds on d f = { g with lanes := l } := by
  refine Group.foldl_onlyLanes _ (fun g j => ?_) on g
  unfold Group.pset; split
  · exact ⟨g.lanes, rfl⟩
  · exact ⟨_, rfl⟩

end Sys2Proof.Machine
end

