-- ==== Sys2Proof/Laws/Issue.lean ====
section
/-!
SUPPORT. Laws/Issue.lean: what the issue of a word comes to (R24, R30, R251), how it completes, and what each operand shape
does once its checks pass.
-/

namespace Sys2Proof.Machine

/-! ### Issue -/

/-- The checks of R30 and R263 pass. -/
theorem Group.runCheck_none {g : Group} {f : Form} (hb : g.run.bad = none) (hl : f.legal = true) (hi : f.imm.accepts g.run.imm)
    (hm : ∀ m, g.run.mod = some m → takesNoMod f.word f.mods = false ∧ modPairBad m.toNat f.mods f.sxSat = false) :
    g.runCheck f = none := by
  unfold Group.runCheck
  simp only [hb, hl, Bool.not_true, Bool.false_eq_true, if_false]
  unfold ImmUse.accepts at hi
  cases hv : g.run.imm <;> cases hu : f.imm <;> cases hk : g.run.mod <;> simp_all

/-- A live group's word always answers a next state. -/
theorem issue_answers (f : Form) (sp : Bool) (s : State) (body : State → Eff) (hl : s.cur.live = true) :
    ∃ t, issue f sp s body = .next t := by
  unfold issue
  rw [hl]
  simp only [Bool.not_true, Bool.false_eq_true, if_false]
  repeat' (first | exact ⟨_, rfl⟩ | split)

/-- Without a live group a word stops. -/
theorem issue_dead (f : Form) (sp : Bool) (s : State) (body : State → Eff) (hl : s.cur.live = false) :
    issue f sp s body = .fault .noGroup := by simp [issue, hl]

/-- What lets a word that passes the checks of R30 come to its body: where it acts, slice code may use it (R240), the hold of R251
does not stop it, and it waits for no fence (R200). -/
structure Free (f : Form) (s : State) : Prop where
  slice : s.cur.acts f.word = true → (s.cur.key.shadow && !f.sliceOk) = false
  held  : s.cur.acts f.word = true → (s.cur.held && !s.cur.sup && !f.heldOk) = false
  clear : (fenced f.word && s.cur.pend.any (fun e => e.act.isFence)) = false

/-- A word whose checks pass has its body's effect. -/
theorem issue_body {f : Form} {sp : Bool} {s : State} {body : State → Eff} (hl : s.cur.live = true)
    (hc : s.cur.runCheck f = none) (hf : Free f s) : issue f sp s body = .next (commit s sp (body s)) := by
  unfold issue
  rw [hl, hc]
  cases ha : s.cur.acts f.word
  · rfl
  · simp only [hf.slice ha, hf.held ha, hf.clear, Bool.not_true, Bool.false_eq_true, if_false]

/-- A word whose guard lets nothing act comes to its body too: neither slice, hold nor fence stops it (R24, R264). -/
theorem issue_idle {f : Form} {sp : Bool} {s : State} {body : State → Eff} (hl : s.cur.live = true)
    (hc : s.cur.runCheck f = none) (ha : s.cur.acts f.word = false) : issue f sp s body = .next (commit s sp (body s)) := by
  unfold issue
  rw [hl, hc, ha]
  rfl

/-- A word whose checks fail traps ILLEGAL with the offending word (R30). -/
theorem issue_illegal {f : Form} {sp : Bool} {s : State} {body : State → Eff} {w : DWord} (hl : s.cur.live = true)
    (hc : s.cur.runCheck f = some w) :
    issue f sp s body = .next (s.raise causeIllegal 0 w s.cur.runFirst s.cur.runFirst s.cur.runFirst) := by
  unfold issue
  rw [hl, hc]
  rfl

/-- A held group's word that acts waits for the next step (R251). -/
theorem issue_held {f : Form} {sp : Bool} {s : State} {body : State → Eff} (hl : s.cur.live = true)
    (hc : s.cur.runCheck f = none) (ha : s.cur.acts f.word = true) (hs : (s.cur.key.shadow && !f.sliceOk) = false)
    (hh : (s.cur.held && !s.cur.sup && !f.heldOk) = true) :
    issue f sp s body = .next (commit s (sp && waitingWord f.word) (.wait (.step s.wg.core (s.core.pace s.launch.uid).step) s)) := by
  unfold issue
  rw [hl, hc]
  simp only [ha, hs, hh, Bool.not_true, Bool.false_eq_true, if_false, if_true]

/-- A hint word of a live group always answers a next state. -/
theorem hint_answers (s : State) (f : Group → Group) (hl : s.cur.live = true) : ∃ t, hint s f = .next t := by
  simp only [hint, hl, Bool.not_true, Bool.false_eq_true, if_false]
  split <;> exact ⟨_, rfl⟩

/-- The issue of a word of an accepted form. -/
theorem issue_form {i : Instr} {f : Form} {sp : Bool} {s : State} {body : State → Eff}
    (h : Clears s i f.imm f.mods f.sxSat f.sliceOk f.heldOk) (hw : f.word = wordOf i) (hl : f.legal = true) :
    issue f sp s body = .next (commit s sp (body s)) := by
  refine issue_body h.live (Group.runCheck_none h.hints hl h.immOk (by rw [hw]; exact h.modOk)) ⟨?_, ?_, ?_⟩
  · intro ha
    rw [hw] at ha
    cases hs : s.cur.key.shadow
    · rfl
    · simp [h.sliceOk ha hs]
  · intro ha
    rw [hw] at ha
    cases hh : s.cur.held
    · rfl
    · rcases h.heldOk ha hh with h | h <;> simp [h]
  · rw [hw]
    cases hf : fenced (wordOf i)
    · rfl
    · rw [Bool.true_and, List.any_eq_false]
      intro e he
      rw [h.clear hf e he]
      exact Bool.false_ne_true

/-! ### Completion -/

theorem commit_next {s t : State} {sp : Bool} (ht : t.cur.live = true) (hc : canonical (s.cur.pc + 4) = true) :
    commit s sp (.next t) = t.setCur (t.cur.complete s.cur.act sp (s.cur.pc + 4)) := by
  simp only [commit, ht, hc, Bool.not_true, Bool.false_eq_true, if_false, if_true]

theorem commit_jump {s t : State} {sp r : Bool} {a : DWord} (hc : canonical a = true) (hr : r = true → a.toNat % 4 = 0) :
    commit s sp (.jump a r t) = t.setCur (t.cur.complete s.cur.act sp a) := by
  have : (r && decide (a.toNat % 4 ≠ 0)) = false := by cases r <;> simp_all
  simp only [commit, hc, this, Bool.not_true, Bool.false_eq_true, if_false]

theorem commit_trap (s t : State) (sp : Bool) (cause code : Nat) (v : DWord) :
    commit s sp (.trap cause code v t) = t.raise cause code v s.cur.runFirst s.cur.runFirst s.cur.runFirst := rfl

theorem commit_settled (s t : State) (sp : Bool) : commit s sp (.settled t) = t := rfl

theorem underGuard_on {c : Ctl} {s : State} (body : State → Eff) (h : s.cur.guard c = true) : underGuard c body s = body s := by
  simp [underGuard, h]

theorem underGuard_off {c : Ctl} {s : State} (body : State → Eff) (h : s.cur.guard c = false) : underGuard c body s = .next s := by
  simp [underGuard, h]

/-! ### Lane words -/

theorem laneBody_off {dsts srcs : List VReg} (body : State → State → Eff) (s : State) : laneBody [] dsts srcs body s = .next s := rfl

theorem laneBody_on {on : List Nat} {dsts srcs : List VReg} {s : State} (body : State → State → Eff) (h0 : on ≠ [])
    (h : s.lanesReady on dsts srcs) : laneBody on dsts srcs body s = body s (s.popped on srcs) := by
  obtain ⟨h1, h2, h3⟩ := h h0
  have hf : (s.queuesOf srcs).find? (fun q => on.any (fun j => (s.entries j q).isEmpty)) = none := by
    rw [List.find?_eq_none]
    intro q hq hany
    obtain ⟨j, hj, he⟩ := List.any_eq_true.mp hany
    exact h3 q hq j hj (List.isEmpty_iff.mp he)
  have h0' : on.isEmpty = false := by simpa using h0
  unfold laneBody laneStart State.popped
  simp only [h0', h1, h2, hf, Bool.false_eq_true, if_false, poisonFirst, h0, false_or]
  by_cases hq : s.queuesOf srcs = []
  · simp [hq]
  · simp [hq]

/-- Popping queues changes the queues and nothing else. -/
theorem Group.popQueues_only (g : Group) (on qs : List Nat) : ∃ q, g.popQueues on qs = { g with q := q } := by
  unfold Group.popQueues
  induction qs generalizing g with
  | nil => exact ⟨g.q, rfl⟩
  | cons k ks ih =>
    have inner : ∀ (js : List Nat) (g : Group), ∃ q, js.foldl (fun g j => g.setQueue j k (g.queue j k).tail) g = { g with q := q } := by
      intro js
      induction js with
      | nil => intro g; exact ⟨g.q, rfl⟩
      | cons j js ihj =>
        intro g
        obtain ⟨q, hq⟩ := ihj (g.setQueue j k (g.queue j k).tail)
        exact ⟨q, hq⟩
    obtain ⟨q, hq⟩ := inner on g
    obtain ⟨q', hq'⟩ := ih (on.foldl (fun g j => g.setQueue j k (g.queue j k).tail) g)
    exact ⟨q', by rw [List.foldl_cons, hq', hq]⟩

@[simp] theorem Group.queue_setQueue_eq (g : Group) (i q j r : Nat) (ws : List Word) (hq : q < 8) (hr : r < 8) :
    (g.setQueue i q ws).queue j r = if j = i ∧ r = q then ws else g.queue j r := by
  unfold Group.setQueue Group.queue
  simp only [mapGet_mapSet]
  by_cases h : 8 * j + r = 8 * i + q
  · rw [if_pos h, if_pos (by omega)]
  · rw [if_neg h, if_neg (by omega)]

/-- Where the loop over queues and lanes has been, one entry is gone (R241). -/
theorem Group.popQueues_queue (g : Group) {on qs : List Nat} (ho : on.Nodup) (hq : qs.Nodup) (hl : ∀ q ∈ qs, q < 8)
    (j r : Nat) (hr : r < 8) :
    (g.popQueues on qs).queue j r = if j ∈ on ∧ r ∈ qs then (g.queue j r).tail else g.queue j r := by
  unfold Group.popQueues
  induction qs generalizing g with
  | nil => simp
  | cons k ks ih =>
    obtain ⟨hk, hks⟩ := List.nodup_cons.mp hq
    have hk8 : k < 8 := hl k (by simp)
    have inner : ∀ (js : List Nat), js.Nodup → ∀ (g : Group) (j r : Nat), r < 8 →
        (js.foldl (fun g j => g.setQueue j k (g.queue j k).tail) g).queue j r =
          if j ∈ js ∧ r = k then (g.queue j r).tail else g.queue j r := by
      intro js
      induction js with
      | nil => intro _ g j r _; simp
      | cons i js ihj =>
        intro hn g j r hr
        obtain ⟨hi, hn⟩ := List.nodup_cons.mp hn
        rw [List.foldl_cons, ihj hn _ _ _ hr, Group.queue_setQueue_eq _ _ _ _ _ _ hk8 hr]
        by_cases hji : j = i
        · subst hji
          by_cases hrk : r = k <;> simp [hi, hrk]
        · simp [hji]
    rw [List.foldl_cons, ih _ hks (fun q h => hl q (by simp [h])), inner on ho _ _ _ hr]
    by_cases hj : j ∈ on <;> by_cases hrk : r = k <;> simp_all

/-- Where the groups are changed under one key, which their owner keeps, one of them is found as it was, or changed. -/
theorem State.findGroup_onGroup (s : State) (k : GKey) (f : Group → Group) (hk : ∀ g, (f g).key = g.key)
    (hl : ∀ g, (f g).live = g.live) : (s.onGroup k f).findGroup k = (s.findGroup k).map f := by
  have hm : ∀ l : List Group,
      ((l.map (fun g => if g.live && g.key == k then f g else g)).filter (·.live)).find? (fun g => g.key == k) =
        ((l.filter (·.live)).find? (fun g => g.key == k)).map f := by
    intro l
    induction l with
    | nil => rfl
    | cons g l ih =>
      rw [List.map_cons]
      cases hg : g.live
      · rw [if_neg (by simp), List.filter_cons_of_neg (by simp [hg]), List.filter_cons_of_neg (by simp [hg])]
        exact ih
      · cases hgk : g.key == k
        · rw [if_neg (by simp), List.filter_cons_of_pos hg, List.filter_cons_of_pos hg, List.find?_cons_of_neg (by simp [hgk]),
            List.find?_cons_of_neg (by simp [hgk])]
          exact ih
        · rw [if_pos (by simp), List.filter_cons_of_pos (by rw [hl, hg]), List.filter_cons_of_pos hg,
            List.find?_cons_of_pos (by rw [hk, hgk]), List.find?_cons_of_pos (p := fun g : Group => g.key == k) hgk]
          rfl
  exact hm (s.cur :: s.groups)

/-- After a word has popped its queues one entry of each that it reads is gone (R241). -/
theorem State.popped_entries (s : State) {on : List Nat} {srcs : List VReg} (ho : on.Nodup) (hq : (s.queuesOf srcs).Nodup)
    (hl : ∀ q ∈ s.queuesOf srcs, q < 8) (j r : Nat) (hr : r < 8) :
    (s.popped on srcs).entries j r = if j ∈ on ∧ r ∈ s.queuesOf srcs then (s.entries j r).tail else s.entries j r := by
  by_cases h : on = [] ∨ s.queuesOf srcs = []
  · have : ¬ (j ∈ on ∧ r ∈ s.queuesOf srcs) := by rcases h with h | h <;> simp [h]
    rw [State.popped, if_pos h, if_neg this]
  · rw [State.popped, if_neg h]
    cases hs : s.cur.key.shadow
    · have : ∀ g : Group, g.key = s.cur.key → (s.setCur g).entries j r = g.queue j r := by
        intro g hg; simp [State.entries, hg, hs]
      simp only [State.popQueues, hs, Bool.false_eq_true, if_false]
      obtain ⟨q, hq'⟩ := Group.popQueues_only s.cur on (s.queuesOf srcs)
      rw [this _ (by rw [hq']), Group.popQueues_queue _ ho hq hl _ _ hr]
      simp [State.entries, hs]
    · have hc : (s.popQueues on (s.queuesOf srcs)).cur.key = s.cur.key := by
        simp only [State.popQueues, hs, if_true, State.onGroup, State.onGroups]
        split
        · obtain ⟨q, hq'⟩ := Group.popQueues_only s.cur on (s.queuesOf srcs)
          rw [hq']
        · rfl
      have hf := s.findGroup_onGroup { s.cur.key with shadow := false } (fun g => g.popQueues on (s.queuesOf srcs))
        (fun g => by obtain ⟨q, hq'⟩ := Group.popQueues_only g on (s.queuesOf srcs); rw [hq'])
        (fun g => by obtain ⟨q, hq'⟩ := Group.popQueues_only g on (s.queuesOf srcs); rw [hq'])
      have hp : s.popQueues on (s.queuesOf srcs) =
          s.onGroup { s.cur.key with shadow := false } (fun g => g.popQueues on (s.queuesOf srcs)) := by
        simp [State.popQueues, hs]
      unfold State.entries
      rw [hc, hs, if_pos rfl, if_pos rfl, hp, hf]
      cases s.findGroup { s.cur.key with shadow := false } with
      | none => simp
      | some g => simpa using Group.popQueues_queue g ho hq hl j r hr

theorem uniBody_ok {rs : List Nat} {s : State} (body : State → Eff) (h : s.cur.key.shadow = true → ∀ r ∈ rs, r < 16) :
    uniBody rs body s = body s := by
  have : s.sBad rs = none := by
    unfold State.sBad
    split
    · rename_i hs
      rw [List.find?_eq_none]
      intro r hr
      have := h hs r hr
      simp; omega
    · rfl
  simp [uniBody, this]

end Sys2Proof.Machine
end

