-- ==== Sys2Proof/Laws/Shapes.lean ====
section
/-!
SUPPORT. Laws/Shapes.lean: each shape of lane word completes as Safety.lean says.
-/

namespace Sys2Proof.Machine

theorem flagsOf_zero {α : Type} (l : List α) : flagsOf (l.map (fun _ => (0 : DWord))) = 0 := by
  unfold flagsOf
  induction l with
  | nil => rfl
  | cons a l ih => simpa using ih

theorem eraseDups_nodup (n : Nat) : ∀ l : List Nat, l.length ≤ n → l.eraseDups.Nodup := by
  induction n with
  | zero => intro l h; have : l = [] := List.length_eq_zero_iff.mp (by omega); subst this; simp
  | succ n ih =>
    intro l h
    cases l with
    | nil => simp
    | cons a l =>
      rw [List.eraseDups_cons, List.nodup_cons]
      refine ⟨?_, ih _ ?_⟩
      · rw [List.mem_eraseDups]; simp
      · have := List.length_filter_le (fun b => !b == a) l
        simp at h; omega

theorem State.queuesOf_nodup (s : State) (r : List VReg) : (s.queuesOf r).Nodup := eraseDups_nodup _ _ le_rfl

/-- The queues that six-bit register fields name are 0 to 7. -/
theorem State.queuesOf_lt (s : State) (r : List VReg) (hr : ∀ x ∈ r, x.1 < 64) : ∀ q ∈ s.queuesOf r, q < 8 := by
  intro q hq
  unfold State.queuesOf at hq
  rw [List.mem_eraseDups] at hq
  simp only [List.mem_map, List.mem_filter] at hq
  obtain ⟨x, ⟨hx, hq'⟩, rfl⟩ := hq
  have := hr x hx
  simp only [State.isQueue, Bool.and_eq_true, decide_eq_true_eq] at hq'
  omega

/-- Popping the queues changes nothing of the current group but its queues. -/
theorem State.popped_cur (s : State) (on : List Nat) (srcs : List VReg) :
    ∃ q, (s.popped on srcs).cur = { s.cur with q := q } := by
  unfold State.popped
  split
  · exact ⟨s.cur.q, rfl⟩
  · unfold State.popQueues
    split
    · unfold State.onGroup State.onGroups
      dsimp only
      split
      · exact Group.popQueues_only ..
      · exact ⟨s.cur.q, rfl⟩
    · exact Group.popQueues_only ..

/-- A word whose body rewrites the lanes that act, and flags them, completes as LaneWord.Does says. -/
theorem LaneWord.does_of {i : Instr} {x : LaneWord} (f : State → Form) (grp : State → Group → Group) {body : State → State → Eff}
    (he : ∀ s, exec i s = issue (f s) x.ctl.sp s (body s))
    (hb : ∀ s, body s s = laneBody (s.cur.on x.ctl) x.dsts (x.srcs s) (fun s t => .next (t.setCur (grp s t.cur))) s)
    (hf : ∀ s, x.also s → wellFormed i = true → (f s).imm = x.imm ∧ (f s).mods = x.mods ∧ (f s).sxSat = x.sx ∧
      (f s).sliceOk = x.slice ∧ (f s).heldOk = true ∧ (f s).legal = true ∧ (f s).word = wordOf i)
    (hr : ∀ s, ∀ r ∈ x.srcs s, r.1 < 64)
    (hg : ∀ s g, ∃ l, grp s g = { g with lanes := l, gstat := g.gstat ||| flagsOf ((s.cur.on x.ctl).map (x.flags s)) })
    (hl : ∀ s g j, (grp s g).lane j = if j ∈ s.cur.on x.ctl then x.lane s j (g.lane j) else g.lane j) : x.Does i := by
  intro s hi hw ha hlr
  obtain ⟨f1, f2, f3, f4, f5, f6, f7⟩ := hf s ha hw
  have hI : Issues s i (f s).imm (f s).mods (f s).sxSat (f s).sliceOk (f s).heldOk := by rw [f1, f2, f3, f4, f5]; exact hi
  have hpop := fun j r hr8 => s.popped_entries (Group.on_nodup s.cur x.ctl) (State.queuesOf_nodup s (x.srcs s))
    (State.queuesOf_lt _ _ (hr s)) j r hr8
  rw [he, issue_form hI.toClears f7 f6, hb]
  by_cases h0 : s.cur.on x.ctl = []
  · have hb : laneBody (s.cur.on x.ctl) x.dsts (x.srcs s) (fun s t => .next (t.setCur (grp s t.cur))) s = .next s := by
      rw [h0]; rfl
    have hp : s.popped (s.cur.on x.ctl) (x.srcs s) = s := if_pos (.inl h0)
    refine ⟨s.cur, ?_, ?_, ?_, hpop⟩
    · rw [hb, hp, commit_next hi.live hi.fits]; rfl
    · rw [hp, h0]; simp [flagsOf]
    · intro j; simp [h0]
  · have hb : laneBody (s.cur.on x.ctl) x.dsts (x.srcs s) (fun s t => .next (t.setCur (grp s t.cur))) s =
        .next ((s.popped (s.cur.on x.ctl) (x.srcs s)).setCur (grp s (s.popped (s.cur.on x.ctl) (x.srcs s)).cur)) := by
      rw [laneBody_on _ h0 hlr]
    obtain ⟨q, hq⟩ := s.popped_cur (s.cur.on x.ctl) (x.srcs s)
    obtain ⟨l, hl'⟩ := hg s (s.popped (s.cur.on x.ctl) (x.srcs s)).cur
    refine ⟨grp s (s.popped (s.cur.on x.ctl) (x.srcs s)).cur, ?_, ?_, ?_, hpop⟩
    · rw [hb, commit_next (by rw [State.setCur_cur, hl', hq]; exact hi.live) hi.fits]; rfl
    · rw [hl', hq]
    · intro j; rw [hl, hq]; rfl

theorem Group.flag_only {g' g : Group} (f : DWord) (h : ∃ l, g' = { g with lanes := l }) :
    ∃ l, g'.flag f = { g with lanes := l, gstat := g.gstat ||| f } := by
  obtain ⟨l, rfl⟩ := h; exact ⟨l, rfl⟩

theorem Group.noFlag_only {g' g : Group} {α : Type} (js : List α) (h : ∃ l, g' = { g with lanes := l }) :
    ∃ l, g' = { g with lanes := l, gstat := g.gstat ||| flagsOf (js.map fun _ => 0) } := by
  obtain ⟨l, rfl⟩ := h; rw [flagsOf_zero]; exact ⟨l, by simp⟩

theorem State.bSrc_lt (s : State) (b : BitVec 6) (n : Nat) : ∀ r ∈ s.bSrc b.toNat n, r.1 < 64 := by
  intro r hr
  unfold State.bSrc at hr
  have := b.isLt
  split at hr
  · simp at hr; subst hr; exact this
  · split at hr
    · simp at hr; subst hr; exact this
    · simp at hr

theorem State.zReg_lt (s : State) (d : BitVec 6) : s.zReg d.toNat < 64 := by
  unfold State.zReg; split
  · unfold Run.add fld; omega
  · exact d.isLt

/-- The sources of a three-operand word are six-bit numbers. -/
theorem State.srcs3_lt (s : State) (a b d : BitVec 6) (n m : Nat) :
    ∀ r ∈ ((a.toNat, n) :: (s.bSrc b.toNat n ++ [(s.zReg d.toNat, m)]) : List VReg), r.1 < 64 := by
  intro r hr
  rcases List.mem_cons.mp hr with h | h
  · subst h; exact a.isLt
  · rcases List.mem_append.mp h with h | h
    · exact State.bSrc_lt _ _ _ _ h
    · simp at h; subst h; exact State.zReg_lt _ _

theorem State.srcs2_lt (s : State) (a b : BitVec 6) (n : Nat) :
    ∀ r ∈ ((a.toNat, n) :: s.bSrc b.toNat n : List VReg), r.1 < 64 := by
  intro r hr
  rcases List.mem_cons.mp hr with h | h
  · subst h; exact a.isLt
  · exact State.bSrc_lt _ _ _ _ h

theorem srcs1_lt (a : BitVec 6) (n : Nat) : ∀ r ∈ ([(a.toNat, n)] : List VReg), r.1 < 64 := by
  intro r hr; simp at hr; subst hr; exact a.isLt

/-! ### One lemma per shape -/

section
variable {i : Instr} {c : Ctl} {d a b : BitVec 6} {mods : Nat} {sx slice : Bool}

theorem lane1_does {f : Run → Word → Word}
    (he : ∀ s, exec i s = issue (laneNoImm i mods slice) c.sp s (lane1 c d.toNat a.toNat (f s.cur.run))) :
    (w1 c d a mods slice (quiet1 f)).Does i :=
  LaneWord.does_of (fun _ => laneNoImm i mods slice)
    (fun s g => g.putLanes (s.cur.on c) d.toNat (fun j => f s.cur.run (s.src j a.toNat)))
    he (fun _ => rfl) (fun _ _ hw => ⟨rfl, rfl, rfl, rfl, rfl, hw, rfl⟩) (fun _ => srcs1_lt a 1)
    (fun _ _ => Group.noFlag_only _ (Group.putLanes_only ..)) (fun _ _ _ => Group.putLanes_lane _ (Group.on_nodup ..) _ _ _)

theorem lane2_does {f : Run → Word → Word → Word}
    (he : ∀ s, exec i s = issue { laneForm i b.toNat mods slice with sxSat := sx } c.sp s (lane2 c d.toNat a.toNat b.toNat (f s.cur.run))) :
    (w2 c d a b mods sx slice (quiet2 f)).Does i :=
  LaneWord.does_of (fun _ => { laneForm i b.toNat mods slice with sxSat := sx })
    (fun s g => g.putLanes (s.cur.on c) d.toNat (fun j => f s.cur.run (s.src j a.toNat) (s.bLane j b.toNat)))
    he (fun _ => rfl) (fun _ _ hw => ⟨rfl, rfl, rfl, rfl, rfl, hw, rfl⟩) (fun s => s.srcs2_lt a b 1)
    (fun _ _ => Group.noFlag_only _ (Group.putLanes_only ..)) (fun _ _ _ => Group.putLanes_lane _ (Group.on_nodup ..) _ _ _)

theorem lane3_does {f : Run → Word → Word → Word → Word}
    (he : ∀ s, exec i s = issue { laneForm i b.toNat mods slice with sxSat := sx } c.sp s (lane3 c d.toNat a.toNat b.toNat (f s.cur.run))) :
    (w3 c d a b mods sx slice (quiet3 f)).Does i :=
  LaneWord.does_of (fun _ => { laneForm i b.toNat mods slice with sxSat := sx })
    (fun s g => g.putLanes (s.cur.on c) d.toNat (fun j => f s.cur.run (s.src j a.toNat) (s.bLane j b.toNat) (s.src j (s.zReg d.toNat))))
    he (fun _ => rfl) (fun _ _ hw => ⟨rfl, rfl, rfl, rfl, rfl, hw, rfl⟩) (fun s => s.srcs3_lt a b d 1 1)
    (fun _ _ => Group.noFlag_only _ (Group.putLanes_only ..)) (fun _ _ _ => Group.putLanes_lane _ (Group.on_nodup ..) _ _ _)

theorem pair1_does {f : Run → DWord → DWord}
    (he : ∀ s, exec i s = issue (laneNoImm i mods slice) c.sp s (pair1 c d.toNat a.toNat (f s.cur.run))) :
    (d1 c d a mods slice (quiet1 f)).Does i :=
  LaneWord.does_of (fun _ => laneNoImm i mods slice)
    (fun s g => g.putPairs (s.cur.on c) d.toNat (fun j => f s.cur.run (s.src64 j a.toNat)))
    he (fun _ => rfl) (fun _ _ hw => ⟨rfl, rfl, rfl, rfl, rfl, hw, rfl⟩) (fun _ => srcs1_lt a 2)
    (fun _ _ => Group.noFlag_only _ (Group.putPairs_only ..)) (fun _ _ _ => Group.putPairs_lane _ (Group.on_nodup ..) _ _ _)

theorem pair2_does {f : Run → DWord → DWord → DWord}
    (he : ∀ s, exec i s = issue { laneForm i b.toNat mods slice with sxSat := sx } c.sp s (pair2 c d.toNat a.toNat b.toNat (f s.cur.run))) :
    (d2 c d a b mods sx slice (quiet2 f)).Does i :=
  LaneWord.does_of (fun _ => { laneForm i b.toNat mods slice with sxSat := sx })
    (fun s g => g.putPairs (s.cur.on c) d.toNat (fun j => f s.cur.run (s.src64 j a.toNat) (s.bPair j b.toNat)))
    he (fun _ => rfl) (fun _ _ hw => ⟨rfl, rfl, rfl, rfl, rfl, hw, rfl⟩) (fun s => s.srcs2_lt a b 2)
    (fun _ _ => Group.noFlag_only _ (Group.putPairs_only ..)) (fun _ _ _ => Group.putPairs_lane _ (Group.on_nodup ..) _ _ _)

theorem pair3_does {f : Run → DWord → DWord → DWord → DWord}
    (he : ∀ s, exec i s = issue { laneForm i b.toNat mods slice with sxSat := sx } c.sp s (pair3 c d.toNat a.toNat b.toNat (f s.cur.run))) :
    (d3 c d a b mods sx slice (quiet3 f)).Does i :=
  LaneWord.does_of (fun _ => { laneForm i b.toNat mods slice with sxSat := sx })
    (fun s g => g.putPairs (s.cur.on c) d.toNat (fun j => f s.cur.run (s.src64 j a.toNat) (s.bPair j b.toNat) (s.src64 j (s.zReg d.toNat))))
    he (fun _ => rfl) (fun _ _ hw => ⟨rfl, rfl, rfl, rfl, rfl, hw, rfl⟩) (fun s => s.srcs3_lt a b d 2 2)
    (fun _ _ => Group.noFlag_only _ (Group.putPairs_only ..)) (fun _ _ _ => Group.putPairs_lane _ (Group.on_nodup ..) _ _ _)

theorem flagged1_does {f : Run → Word → Word × DWord}
    (he : ∀ s, exec i s = issue (laneNoImm i mods slice) c.sp s (flagged1 c d.toNat a.toNat (f s.cur.run))) :
    (w1 c d a mods slice f).Does i :=
  LaneWord.does_of (fun _ => laneNoImm i mods slice)
    (fun s g => (g.putLanes (s.cur.on c) d.toNat (fun j => (f s.cur.run (s.src j a.toNat)).1)).flag
      (flagsOf ((s.cur.on c).map (fun j => (f s.cur.run (s.src j a.toNat)).2))))
    he (fun _ => rfl) (fun _ _ hw => ⟨rfl, rfl, rfl, rfl, rfl, hw, rfl⟩) (fun _ => srcs1_lt a 1)
    (fun _ _ => Group.flag_only _ (Group.putLanes_only ..)) (fun _ _ _ => Group.putLanes_lane _ (Group.on_nodup ..) _ _ _)

theorem flagged2_does {f : Run → Word → Word → Word × DWord}
    (he : ∀ s, exec i s = issue { laneForm i b.toNat mods slice with sxSat := sx } c.sp s (flagged2 c d.toNat a.toNat b.toNat (f s.cur.run))) :
    (w2 c d a b mods sx slice f).Does i :=
  LaneWord.does_of (fun _ => { laneForm i b.toNat mods slice with sxSat := sx })
    (fun s g => (g.putLanes (s.cur.on c) d.toNat (fun j => (f s.cur.run (s.src j a.toNat) (s.bLane j b.toNat)).1)).flag
      (flagsOf ((s.cur.on c).map (fun j => (f s.cur.run (s.src j a.toNat) (s.bLane j b.toNat)).2))))
    he (fun _ => rfl) (fun _ _ hw => ⟨rfl, rfl, rfl, rfl, rfl, hw, rfl⟩) (fun s => s.srcs2_lt a b 1)
    (fun _ _ => Group.flag_only _ (Group.putLanes_only ..)) (fun _ _ _ => Group.putLanes_lane _ (Group.on_nodup ..) _ _ _)

theorem flagged3_does {f : Run → Word → Word → Word → Word × DWord}
    (he : ∀ s, exec i s = issue { laneForm i b.toNat mods slice with sxSat := sx } c.sp s (flagged3 c d.toNat a.toNat b.toNat (f s.cur.run))) :
    (w3 c d a b mods sx slice f).Does i :=
  LaneWord.does_of (fun _ => { laneForm i b.toNat mods slice with sxSat := sx })
    (fun s g => (g.putLanes (s.cur.on c) d.toNat
      (fun j => (f s.cur.run (s.src j a.toNat) (s.bLane j b.toNat) (s.src j (s.zReg d.toNat))).1)).flag
      (flagsOf ((s.cur.on c).map (fun j => (f s.cur.run (s.src j a.toNat) (s.bLane j b.toNat) (s.src j (s.zReg d.toNat))).2))))
    he (fun _ => rfl) (fun _ _ hw => ⟨rfl, rfl, rfl, rfl, rfl, hw, rfl⟩) (fun s => s.srcs3_lt a b d 1 1)
    (fun _ _ => Group.flag_only _ (Group.putLanes_only ..)) (fun _ _ _ => Group.putLanes_lane _ (Group.on_nodup ..) _ _ _)

theorem flaggedP1_does {f : Run → DWord → DWord × DWord}
    (he : ∀ s, exec i s = issue (laneNoImm i mods slice) c.sp s (flaggedP1 c d.toNat a.toNat (f s.cur.run))) :
    (d1 c d a mods slice f).Does i :=
  LaneWord.does_of (fun _ => laneNoImm i mods slice)
    (fun s g => (g.putPairs (s.cur.on c) d.toNat (fun j => (f s.cur.run (s.src64 j a.toNat)).1)).flag
      (flagsOf ((s.cur.on c).map (fun j => (f s.cur.run (s.src64 j a.toNat)).2))))
    he (fun _ => rfl) (fun _ _ hw => ⟨rfl, rfl, rfl, rfl, rfl, hw, rfl⟩) (fun _ => srcs1_lt a 2)
    (fun _ _ => Group.flag_only _ (Group.putPairs_only ..)) (fun _ _ _ => Group.putPairs_lane _ (Group.on_nodup ..) _ _ _)

theorem flaggedP2_does {f : Run → DWord → DWord → DWord × DWord}
    (he : ∀ s, exec i s = issue { laneForm i b.toNat mods slice with sxSat := sx } c.sp s (flaggedP2 c d.toNat a.toNat b.toNat (f s.cur.run))) :
    (d2 c d a b mods sx slice f).Does i :=
  LaneWord.does_of (fun _ => { laneForm i b.toNat mods slice with sxSat := sx })
    (fun s g => (g.putPairs (s.cur.on c) d.toNat (fun j => (f s.cur.run (s.src64 j a.toNat) (s.bPair j b.toNat)).1)).flag
      (flagsOf ((s.cur.on c).map (fun j => (f s.cur.run (s.src64 j a.toNat) (s.bPair j b.toNat)).2))))
    he (fun _ => rfl) (fun _ _ hw => ⟨rfl, rfl, rfl, rfl, rfl, hw, rfl⟩) (fun s => s.srcs2_lt a b 2)
    (fun _ _ => Group.flag_only _ (Group.putPairs_only ..)) (fun _ _ _ => Group.putPairs_lane _ (Group.on_nodup ..) _ _ _)

theorem flaggedP3_does {f : Run → DWord → DWord → DWord → DWord × DWord}
    (he : ∀ s, exec i s = issue { laneForm i b.toNat mods slice with sxSat := sx } c.sp s (flaggedP3 c d.toNat a.toNat b.toNat (f s.cur.run))) :
    (d3 c d a b mods sx slice f).Does i :=
  LaneWord.does_of (fun _ => { laneForm i b.toNat mods slice with sxSat := sx })
    (fun s g => (g.putPairs (s.cur.on c) d.toNat
      (fun j => (f s.cur.run (s.src64 j a.toNat) (s.bPair j b.toNat) (s.src64 j (s.zReg d.toNat))).1)).flag
      (flagsOf ((s.cur.on c).map (fun j => (f s.cur.run (s.src64 j a.toNat) (s.bPair j b.toNat) (s.src64 j (s.zReg d.toNat))).2))))
    he (fun _ => rfl) (fun _ _ hw => ⟨rfl, rfl, rfl, rfl, rfl, hw, rfl⟩) (fun s => s.srcs3_lt a b d 2 2)
    (fun _ _ => Group.flag_only _ (Group.putPairs_only ..)) (fun _ _ _ => Group.putPairs_lane _ (Group.on_nodup ..) _ _ _)
end

/-! ### Words that act once for the group -/

theorem GroupWord.does_of {i : Instr} {x : GroupWord} (f : State → Form) (body : State → State → Eff)
    (he : ∀ s, exec i s = issue (f s) x.sp s (body s))
    (hf : ∀ s, x.also s → wellFormed i = true → (f s).imm = x.imm ∧ (f s).mods = x.mods ∧ (f s).sxSat = x.sx ∧
      (f s).sliceOk = x.slice ∧ (f s).heldOk = x.held ∧ (f s).legal = true ∧ (f s).word = wordOf i)
    (hon : ∀ s, s.cur.live = true → canonical (s.cur.pc + 4) = true → x.acts s = true → x.ready s →
      (s.cur.key.shadow = true → ∀ r ∈ x.regs s, r < 16) →
      commit s x.sp (body s s) = (x.out s).setCur ((x.out s).cur.complete s.cur.act x.sp (x.goes s)))
    (hoff : ∀ s, x.acts s = false → body s s = .next s) : x.Does i := by
  intro s hi hw hal hr
  obtain ⟨f1, f2, f3, f4, f5, f6, f7⟩ := hf s hal hw
  have hI : Issues s i (f s).imm (f s).mods (f s).sxSat (f s).sliceOk (f s).heldOk := by rw [f1, f2, f3, f4, f5]; exact hi
  rw [he, issue_form hI.toClears f7 f6]
  cases ha : x.acts s
  · rw [hoff s ha, commit_next hi.live hi.fits]; rfl
  · rw [hon s hi.live hi.fits ha (hr ha).1 (hr ha).2]; rfl

/-- A word under the uniform guard whose body, past the check of its registers, leaves the state of out and goes on in sequence. -/
theorem GroupWord.does_seq {i : Instr} {x : GroupWord} (f : State → Form) (c : Ctl) (body : State → State → Eff)
    (he : ∀ s, exec i s = issue (f s) x.sp s (underGuard c (body s)))
    (hc : ∀ s, x.acts s = s.cur.guard c)
    (hf : ∀ s, x.also s → wellFormed i = true → (f s).imm = x.imm ∧ (f s).mods = x.mods ∧ (f s).sxSat = x.sx ∧
      (f s).sliceOk = x.slice ∧ (f s).heldOk = x.held ∧ (f s).legal = true ∧ (f s).word = wordOf i)
    (hg : ∀ s, x.goes s = s.cur.pc + 4)
    (hl : ∀ s, s.cur.live = true → (x.out s).cur.live = true)
    (hon : ∀ s, s.cur.live = true → x.ready s → (s.cur.key.shadow = true → ∀ r ∈ x.regs s, r < 16) →
      body s s = .next (x.out s)) : x.Does i := by
  refine GroupWord.does_of f (fun s => underGuard c (body s)) he hf ?_ ?_
  · intro s hlv hcan ha hrd hrg
    rw [hc] at ha
    rw [underGuard_on _ ha, hon s hlv hrd hrg, commit_next (hl s hlv) hcan, hg]
  · intro s ha; rw [hc] at ha; exact underGuard_off _ ha

section
variable {i : Instr} {c : Ctl} {d a b : BitVec 6} {mods : Nat} {sx : Bool}

theorem uni1_does {f : Run → DWord → DWord}
    (he : ∀ s, exec i s = issue (laneNoImm i mods true) c.sp s (uni1 c d.toNat a.toNat (f s.cur.run))) :
    (u1 c d a mods f).Does i :=
  GroupWord.does_seq (fun _ => laneNoImm i mods true) c _ he (fun _ => rfl) (fun _ _ hw => ⟨rfl, rfl, rfl, rfl, rfl, hw, rfl⟩)
    (fun _ => rfl) (fun s h => by simpa [u1, g0] using h) (fun _ _ _ h => uniBody_ok _ h)

theorem uni2_does {f : Run → DWord → DWord → DWord}
    (he : ∀ s, exec i s = issue { laneForm i b.toNat mods true with sxSat := sx } c.sp s (uni2 c d.toNat a.toNat b.toNat (f s.cur.run))) :
    (u2 c d a b mods sx f).Does i :=
  GroupWord.does_seq (fun _ => { laneForm i b.toNat mods true with sxSat := sx }) c _ he (fun _ => rfl)
    (fun _ _ hw => ⟨rfl, rfl, rfl, rfl, rfl, hw, rfl⟩)
    (fun _ => rfl) (fun s h => by simpa [u2, g0] using h) (fun _ _ _ h => uniBody_ok _ h)

theorem uni3_does {f : Run → DWord → DWord → DWord → DWord}
    (he : ∀ s, exec i s = issue { laneForm i b.toNat mods true with sxSat := sx } c.sp s (uni3 c d.toNat a.toNat b.toNat (f s.cur.run))) :
    (u3 c d a b mods sx f).Does i :=
  GroupWord.does_seq (fun _ => { laneForm i b.toNat mods true with sxSat := sx }) c _ he (fun _ => rfl)
    (fun _ _ hw => ⟨rfl, rfl, rfl, rfl, rfl, hw, rfl⟩)
    (fun _ => rfl) (fun s h => by simpa [u3, g0] using h) (fun _ _ _ h => uniBody_ok _ h)

/-- A word without IMM and MOD under the uniform guard. -/
theorem group0_does {slice held : Bool} {regs : List Nat} {ready : State → Prop} {out : State → State} (body : State → State → Eff)
    (he : ∀ s, exec i s = issue (bareForm i held slice) c.sp s (underGuard c (body s)))
    (hl : ∀ s, s.cur.live = true → (out s).cur.live = true)
    (hon : ∀ s, s.cur.live = true → ready s → (s.cur.key.shadow = true → ∀ r ∈ regs, r < 16) → body s s = .next (out s)) :
    (g0 c slice held regs ready out).Does i :=
  GroupWord.does_seq (fun _ => bareForm i held slice) c body he (fun _ => rfl) (fun _ _ hw => ⟨rfl, rfl, rfl, rfl, rfl, hw, rfl⟩)
    (fun _ => rfl) hl hon
end

end Sys2Proof.Machine
end

