-- ==== Sys2Proof/Certificates/Slice0/Obligations.lean ====
section
/-!
DEFINITION. Certificates/Slice0/Obligations.lean: the statements for the provers, from the numbered rules of the spec.
-/

namespace Sys2Proof.Machine

/-- Integer and address words on 32-bit lanes (R56 to R58): which function each word computes, and the MOD fields it takes (R53). -/
def intWord : Instr → Option LaneWord
  | .iadd c d a b => some (w2 c d a b (mSAT + mSX + mBU) true true (quiet2 addOp))
  | .isub c d a b => some (w2 c d a b (mSAT + mSX + mBU) true true (quiet2 subOp))
  | .imul c d a b => some (w2 c d a b (mSAT + mSX + mBU) true true (quiet2 mulOp))
  | .imulhS c d a b => some (w2 c d a b mBU false true (quiet2 fun _ => mulhS))
  | .imulhN c d a b => some (w2 c d a b mBU false true (quiet2 fun _ => mulhN))
  | .imad c d a b => some (w3 c d a b (mSAT + mSX + mADD + mBU) true true (quiet3 madOp))
  | .iminS c d a b => some (w2 c d a b mBU false true (quiet2 fun _ => minS))
  | .iminN c d a b => some (w2 c d a b mBU false true (quiet2 fun _ => minN))
  | .imaxS c d a b => some (w2 c d a b mBU false true (quiet2 fun _ => maxS))
  | .imaxN c d a b => some (w2 c d a b mBU false true (quiet2 fun _ => maxN))
  | .idivS c d a b => some (w2 c d a b (mSAT + mBU) false true (quiet2 divS))
  | .idivN c d a b => some (w2 c d a b (mSAT + mBU) false true (quiet2 fun _ => divN))
  | .iremS c d a b => some (w2 c d a b mBU false true (quiet2 fun _ => remS))
  | .iremN c d a b => some (w2 c d a b mBU false true (quiet2 fun _ => remN))
  | .iabs c d a => some (w1 c d a mSAT true (quiet1 absOp))
  | .ineg c d a => some (w1 c d a mSAT true (quiet1 negOp))
  | .lea c k d a b => some (w2 c d a b mBU false true (quiet2 fun _ => leaOp k.toNat))
  | .iaddImm c d a i => some { w1 c d a (mSAT + mSX) true (fun _ _ => (0, 0)) with
      imm := .takes, sx := true, flags := fun _ _ => 0
      lane := fun s j l => l.vset d.toNat (addOp s.cur.run (s.src j a.toNat) (.ofInt 32 (s.imm9 i))) }
  | _ => none

/-- The same on pairs. -/
def intPairWord : Instr → Option LaneWord
  | .iaddPair c d a b => some (d2 c d a b (mSAT + mSX + mBU) true true (quiet2 addOp))
  | .isubPair c d a b => some (d2 c d a b (mSAT + mSX + mBU) true true (quiet2 subOp))
  | .imulPair c d a b => some (d2 c d a b (mSAT + mSX + mBU) true true (quiet2 mulOp))
  | .imulhSPair c d a b => some (d2 c d a b mBU false true (quiet2 fun _ => mulhS))
  | .imulhNPair c d a b => some (d2 c d a b mBU false true (quiet2 fun _ => mulhN))
  | .imadPair c d a b => some (d3 c d a b (mSAT + mSX + mADD + mBU) true true (quiet3 madOp))
  | .iminSPair c d a b => some (d2 c d a b mBU false true (quiet2 fun _ => minS))
  | .iminNPair c d a b => some (d2 c d a b mBU false true (quiet2 fun _ => minN))
  | .imaxSPair c d a b => some (d2 c d a b mBU false true (quiet2 fun _ => maxS))
  | .imaxNPair c d a b => some (d2 c d a b mBU false true (quiet2 fun _ => maxN))
  | .idivSPair c d a b => some (d2 c d a b (mSAT + mBU) false true (quiet2 divS))
  | .idivNPair c d a b => some (d2 c d a b (mSAT + mBU) false true (quiet2 fun _ => divN))
  | .iremSPair c d a b => some (d2 c d a b mBU false true (quiet2 fun _ => remS))
  | .iremNPair c d a b => some (d2 c d a b mBU false true (quiet2 fun _ => remN))
  | .iabsPair c d a => some (d1 c d a mSAT true (quiet1 absOp))
  | .inegPair c d a => some (d1 c d a mSAT true (quiet1 negOp))
  | .iaddImmPair c d a i => some { d1 c d a (mSAT + mSX) true (fun _ _ => (0, 0)) with
      imm := .takes, sx := true, flags := fun _ _ => 0
      lane := fun s j l => l.vset64 d.toNat (addOp s.cur.run (s.src64 j a.toNat) (.ofInt 64 (s.imm9 i))) }
  | _ => none

/-- Comparison, selection, logic, shift, bit-field, move and predicate words on lanes (R59 to R68). -/
def logicWord : Instr → Option LaneWord
  | .and c d a b => some (w2 c d a b mBU false true (quiet2 fun _ => andOp))
  | .or c d a b => some (w2 c d a b mBU false true (quiet2 fun _ => orOp))
  | .xor c d a b => some (w2 c d a b mBU false true (quiet2 fun _ => xorOp))
  | .andn c d a b => some (w2 c d a b mBU false true (quiet2 fun _ => andnOp))
  | .orn c d a b => some (w2 c d a b mBU false true (quiet2 fun _ => ornOp))
  | .shl c d a b => some (w2 c d a b mBU false true (quiet2 fun _ => shlOp))
  | .shrl c d a b => some (w2 c d a b mBU false true (quiet2 fun _ => shrlOp))
  | .shra c d a b => some (w2 c d a b mBU false true (quiet2 fun _ => shraOp))
  | .rotl c d a b => some (w2 c d a b mBU false true (quiet2 fun _ => rotlOp))
  | .bfxN c d a b => some (w2 c d a b mBU false true (quiet2 fun _ => bfxOp false))
  | .bfxS c d a b => some (w2 c d a b mBU false true (quiet2 fun _ => bfxOp true))
  | .bfiB32 c d a b => some (w3 c d a b (mADD + mBU) false true (quiet3 fun _ => bfiOp))
  | .bsel c d a b => some (w3 c d a b (mADD + mBU) false true (quiet3 fun _ => bselOp))
  | .clz c d a => some (w1 c d a 0 true (quiet1 fun _ => clzOp))
  | .ctz c d a => some (w1 c d a 0 true (quiet1 fun _ => ctzOp))
  | .popc c d a => some (w1 c d a 0 true (quiet1 fun _ => popcOp))
  | .brev c d a => some (w1 c d a 0 true (quiet1 fun _ => brevOp))
  | .andPair c d a b => some (d2 c d a b mBU false true (quiet2 fun _ => andOp))
  | .orPair c d a b => some (d2 c d a b mBU false true (quiet2 fun _ => orOp))
  | .xorPair c d a b => some (d2 c d a b mBU false true (quiet2 fun _ => xorOp))
  | .andnPair c d a b => some (d2 c d a b mBU false true (quiet2 fun _ => andnOp))
  | .ornPair c d a b => some (d2 c d a b mBU false true (quiet2 fun _ => ornOp))
  | .shlPair c d a b => some (d2 c d a b mBU false true (quiet2 fun _ => shlOp))
  | .shrlPair c d a b => some (d2 c d a b mBU false true (quiet2 fun _ => shrlOp))
  | .shraPair c d a b => some (d2 c d a b mBU false true (quiet2 fun _ => shraOp))
  | .rotlPair c d a b => some (d2 c d a b mBU false false (quiet2 fun _ => rotlOp))
  | .bfxNPair c d a b => some (d2 c d a b mBU false false (quiet2 fun _ => bfxOp false))
  | .bfxSPair c d a b => some (d2 c d a b mBU false false (quiet2 fun _ => bfxOp true))
  | .bfiB64 c d a b => some (d3 c d a b (mADD + mBU) false true (quiet3 fun _ => bfiOp))
  | .clzPair c d a => some (d1 c d a 0 false (quiet1 fun _ => clzOp))
  | .ctzPair c d a => some (d1 c d a 0 false (quiet1 fun _ => ctzOp))
  | .popcPair c d a => some (d1 c d a 0 false (quiet1 fun _ => popcOp))
  | .brevPair c d a => some (d1 c d a 0 false (quiet1 fun _ => brevOp))
  | .icmp c k w q a b => some {
      ctl := c, imm := .replaces b.toNat, mods := mBU, sx := false, slice := true, dsts := [],
      srcs := fun s => (a.toNat, if w == 1 then 2 else 1) :: s.bSrc b.toNat (if w == 1 then 2 else 1)
      lane := fun s j l => l.pset q.toNat (if w == 1 then icmpOp k.toNat (s.src64 j a.toNat) (s.bPair j b.toNat)
        else icmpOp k.toNat (s.src j a.toNat) (s.bLane j b.toNat))
      flags := fun _ _ => 0, also := fun _ => True }
  | .sel c p d a b => some { w2 c d a b mBU false true (fun _ _ _ => (0, 0)) with
      flags := fun _ _ => 0
      lane := fun s j l => l.vset d.toNat (if s.cur.pget j p.toNat then s.src j a.toNat else s.bLane j b.toNat) }
  | .movB32 c d b => some {
      ctl := c, imm := .replaces b.toNat, mods := mBU, sx := false, slice := true, dsts := [(d.toNat, 1)],
      srcs := fun s => s.bSrc b.toNat 1, lane := fun s j l => l.vset d.toNat (s.bLane j b.toNat)
      flags := fun _ _ => 0, also := fun _ => True }
  | .movB64 c d b => some {
      ctl := c, imm := .replaces b.toNat, mods := mBU, sx := false, slice := true, dsts := [(d.toNat, 2)],
      srcs := fun s => s.bSrc b.toNat 2, lane := fun s j l => l.vset64 d.toNat (s.bPair j b.toNat)
      flags := fun _ _ => 0, also := fun _ => True }
  | .movB128 c d b => some {
      ctl := c, imm := .replaces b.toNat, mods := mBU, sx := false, slice := true, dsts := [(d.toNat, 4)],
      srcs := fun s => s.bSrc b.toNat 4
      lane := fun s j l =>
        let lo : DWord := match s.cur.run.immInt with
          | some v => .ofInt 64 v
          | none => if s.cur.run.bu then s.cur.sget b.toNat else s.src64 j b.toNat
        let hi : DWord := match s.cur.run.immInt with
          | some v => .ofInt 64 (if v < 0 then -1 else 0)
          | none => if s.cur.run.bu then s.cur.sget (b.toNat + 1) else s.src64 j (b.toNat + 2)
        (l.vset64 d.toNat lo).vset64 (d.toNat + 2) hi
      flags := fun _ _ => 0
      also := fun s => s.cur.run.bu = true → s.cur.run.imm = none → b.toNat % 2 = 0 }
  | .movi c d w i => some {
      ctl := c, imm := .takes, mods := 0, sx := false, slice := true, dsts := [(d.toNat, if w == 1 then 2 else 1)],
      srcs := fun _ => []
      lane := fun s _ l => if w == 1 then l.vset64 d.toNat (.ofInt 64 (s.imm9 i)) else l.vset d.toNat (.ofInt 32 (s.imm9 i))
      flags := fun _ _ => 0, also := fun _ => True }
  | .pmovToReg c d => some {
      ctl := c, imm := .none, mods := 0, sx := false, slice := true, dsts := [(d.toNat, 1)], srcs := fun _ => []
      lane := fun s j l => l.vset d.toNat (((s.cur.lane j).p ||| 1).setWidth 32)
      flags := fun _ _ => 0, also := fun _ => True }
  | .pmovToPred c a => some {
      ctl := c, imm := .none, mods := 0, sx := false, slice := true, dsts := [], srcs := fun _ => [(a.toNat, 1)]
      lane := fun s j l => { l with p := (s.src j a.toNat).setWidth 8 ||| 1 }
      flags := fun _ _ => 0, also := fun _ => True }
  | .plut c x d z y f t => if f == 1 then none else some {
      ctl := c, imm := .none, mods := 0, sx := false, slice := true, dsts := [], srcs := fun _ => []
      lane := fun s j l => l.pset d.toNat (plutOp t.toNat (s.cur.pget j x.toNat) (s.cur.pget j y.toNat) (s.cur.pget j z.toNat))
      flags := fun _ _ => 0, also := fun _ => True }
  | _ => none

/-- Floating-point and packed words (R132 to R138). -/
def floatWord : Instr → Option LaneWord
  | .fadd c d a b => some (w2 c d a b (mRM + mSAT + mBU) false false (fun r => fOp2 32 f32 r fAdd))
  | .fsub c d a b => some (w2 c d a b (mRM + mSAT + mBU) false false (fun r => fOp2 32 f32 r fSub))
  | .fmul c d a b => some (w2 c d a b (mRM + mSAT + mBU) false false (fun r => fOp2 32 f32 r fMul))
  | .fdiv c d a b => some (w2 c d a b (mRM + mSAT + mBU) false false (fun r => fOp2 32 f32 r fDiv))
  | .ffma c d a b => some (w3 c d a b (mRM + mSAT + mADD + mBU) false false (fun r => fOp3 32 f32 r))
  | .fmin c d a b => some (w2 c d a b (mMN + mBU) false false (fun r => fMM 32 f32 r false))
  | .fmax c d a b => some (w2 c d a b (mMN + mBU) false false (fun r => fMM 32 f32 r true))
  | .fsqrt c d a => some (w1 c d a (mRM + mSAT) false (fun r => fOp1 32 f32 r (fSqrt f32 (rmOf .rne r.rm))))
  | .frnd c d a => some (w1 c d a mRM false (fun r => fOp1 32 f32 r (fRound f32 (rmOf .rne r.rm))))
  | .frcp c d a => some (w1 c d a mSAT false (fun r => fFn 32 f32 r (fRcp f32 fnRcp)))
  | .frsq c d a => some (w1 c d a mSAT false (fun r => fFn 32 f32 r (fRsq f32 fnRsq)))
  | .fexp2 c d a => some (w1 c d a mSAT false (fun r => fFn 32 f32 r fExp2))
  | .flog2 c d a => some (w1 c d a mSAT false (fun r => fFn 32 f32 r fLog2))
  | .fsin c d a => some (w1 c d a mSAT false (fun r => fFn 32 f32 r (fSinCos false)))
  | .fcos c d a => some (w1 c d a mSAT false (fun r => fFn 32 f32 r (fSinCos true)))
  | .fclass c d a => some (w1 c d a 0 false (quiet1 fun _ x => .ofNat 32 (fClass f32 x.toNat)))
  | .faddF64 c d a b => some (d2 c d a b (mRM + mSAT + mBU) false false (fun r => fOp2 64 f64 r fAdd))
  | .fsubF64 c d a b => some (d2 c d a b (mRM + mSAT + mBU) false false (fun r => fOp2 64 f64 r fSub))
  | .fmulF64 c d a b => some (d2 c d a b (mRM + mSAT + mBU) false false (fun r => fOp2 64 f64 r fMul))
  | .fdivF64 c d a b => some (d2 c d a b (mRM + mSAT + mBU) false false (fun r => fOp2 64 f64 r fDiv))
  | .ffmaF64 c d a b => some (d3 c d a b (mRM + mSAT + mADD + mBU) false false (fun r => fOp3 64 f64 r))
  | .fminF64 c d a b => some (d2 c d a b (mMN + mBU) false false (fun r => fMM 64 f64 r false))
  | .fmaxF64 c d a b => some (d2 c d a b (mMN + mBU) false false (fun r => fMM 64 f64 r true))
  | .fsqrtF64 c d a => some (d1 c d a (mRM + mSAT) false (fun r => fOp1 64 f64 r (fSqrt f64 (rmOf .rne r.rm))))
  | .frndF64 c d a => some (d1 c d a mRM false (fun r => fOp1 64 f64 r (fRound f64 (rmOf .rne r.rm))))
  | .frcpF64 c d a => some (d1 c d a mSAT false (fun r => fFn 64 f64 r (fRcp f64 fnRcp64)))
  | .frsqF64 c d a => some (d1 c d a mSAT false (fun r => fFn 64 f64 r (fRsq f64 fnRsq64)))
  | .fclassF64 c d a => some {
      ctl := c, imm := .none, mods := 0, sx := false, slice := false, dsts := [(d.toNat, 1)], srcs := fun _ => [(a.toNat, 2)]
      lane := fun s j l => l.vset d.toNat (.ofNat 32 (fClass f64 (s.src64 j a.toNat).toNat))
      flags := fun _ _ => 0, also := fun _ => True }
  | .fcmp c k w q a b => some {
      ctl := c, imm := .replaces b.toNat, mods := mBU, sx := false, slice := false, dsts := []
      srcs := fun s => (a.toNat, if w == 1 then 2 else 1) :: s.bSrc b.toNat (if w == 1 then 2 else 1)
      lane := fun s j l => l.pset q.toNat (if w == 1 then fCompare f64 k.toNat (s.src64 j a.toNat).toNat (s.bPair j b.toNat).toNat
        else fCompare f32 k.toNat (s.src j a.toNat).toNat (s.bLane j b.toNat).toNat).1
      flags := fun s j => (if w == 1 then fCompare f64 k.toNat (s.src64 j a.toNat).toNat (s.bPair j b.toNat).toNat
        else fCompare f32 k.toNat (s.src j a.toNat).toNat (s.bLane j b.toNat).toNat).2
      also := fun _ => True }
  | .pkaddF16 c d a b => some (w2 c d a b (mRM + mSAT + mBU) false false (fun r => packed2 f16 r fAdd))
  | .pkmulF16 c d a b => some (w2 c d a b (mRM + mSAT + mBU) false false (fun r => packed2 f16 r fMul))
  | .pkfmaF16 c d a b => some (w3 c d a b (mRM + mSAT + mADD + mBU) false false (fun r => packed3 f16 r))
  | .pkaddBf16 c d a b => some (w2 c d a b (mRM + mSAT + mBU) false false (fun r => packed2 bf16 r fAdd))
  | .pkmulBf16 c d a b => some (w2 c d a b (mRM + mSAT + mBU) false false (fun r => packed2 bf16 r fMul))
  | .pkfmaBf16 c d a b => some (w3 c d a b (mRM + mSAT + mADD + mBU) false false (fun r => packed3 bf16 r))
  | .idp4S8 c d a b => some (w3 c d a b (mSAT + mADD + mBU) false false (quiet3 (idp4 true)))
  | .idp4N8 c d a b => some (w3 c d a b (mSAT + mADD + mBU) false false (quiet3 (idp4 false)))
  | _ => none

/-- The words of major 0x26 that read the pair a, a + 1 as a datum and a scale (R140). -/
def scaledWord (c : Ctl) (d a : BitVec 6) (readsD : Bool) (f : State → Word → Word → Word → Word × DWord) : LaneWord :=
  { ctl := c, imm := .none, mods := mRM + mSAT, sx := false, slice := false, dsts := [(d.toNat, 1)]
    srcs := fun _ => (a.toNat, 2) :: (if readsD then [(d.toNat, 1)] else [])
    lane := fun s j l => l.vset d.toNat (f s (s.cur.vget j a.toNat) (s.cur.vget j (a.toNat + 1)) (s.cur.vget j d.toNat)).1
    flags := fun s j => (f s (s.cur.vget j a.toNat) (s.cur.vget j (a.toNat + 1)) (s.cur.vget j d.toNat)).2
    also := fun _ => True }

/-- CVT of one operand: where a tie of a precision-1 format goes is fixed by the operand (R108), and is the free value of log entry 6. -/
def cvtResult (r : Run) (k code : Nat) (x : DWord) : Nat × DWord := cvtOp r (cvtTie k code x.toNat) k code x.toNat

/-- Conversion, quantisation and scaling words (R98 to R102, R139, R140); SACC on stepping B1 (R36). -/
def convertWord : Instr → Option LaneWord
  | .cvt c k d a f => some {
      ctl := c, imm := .none, mods := mRM + mSAT, sx := false, slice := false
      dsts := [(d.toNat, if cvtWideDst f.toNat then 2 else 1)], srcs := fun _ => [(a.toNat, if cvtWideSrc k.toNat then 2 else 1)]
      lane := fun s j l =>
        let r := cvtResult s.cur.run k.toNat f.toNat (if cvtWideSrc k.toNat then s.src64 j a.toNat else (s.src j a.toNat).setWidth 64)
        if cvtWideDst f.toNat then l.vset64 d.toNat (.ofNat 64 r.1) else l.vset d.toNat (.ofNat 32 r.1)
      flags := fun s j =>
        (cvtResult s.cur.run k.toNat f.toNat (if cvtWideSrc k.toNat then s.src64 j a.toNat else (s.src j a.toNat).setWidth 64)).2
      also := fun _ => True }
  | .qnt c d a f => some (scaledWord c d a true (fun s => qntOp s.cur.run f.toNat))
  | .deq c d a f => some (scaledWord c d a false (fun s x y _ => deqOp s.cur.run f.toNat x y))
  | .scale c d a f => some (w1 c d a 0 false (fun _ x => (.ofNat 32 (scaleOf (b8Of f.toNat) x.toNat).1, (scaleOf (b8Of f.toNat) x.toNat).2)))
  | .sacc c d a f => some { scaledWord c d a true (fun s => saccOp s.cur.run f.toNat) with also := fun s => s.cap.stepping = 0xB1 }
  | _ => none

/-! ### One rounding of the exact value (R90 to R93, R98, R102) -/

/-- A decoded value is this number. -/
def FVal.Is (v : FVal) (x : ℝ) : Prop :=
  match v with
  | .fin n m e => x = (if n then -1 else 1) * (m : ℝ) * (2 : ℝ) ^ e
  | _ => False

/-- M is the number y rounded to an integer in a mode (R91). -/
def RoundsTo (rm : Rm) (y : ℝ) (M : ℤ) : Prop :=
  match rm with
  | .rne => |y - M| < 1 / 2 ∨ (|y - M| = 1 / 2 ∧ Even M)
  | .rna => |y - M| < 1 / 2 ∨ (|y - M| = 1 / 2 ∧ |y| < |(M : ℝ)|)
  | .rz => |(M : ℝ)| ≤ |y| ∧ |y| < |(M : ℝ)| + 1 ∧ 0 ≤ y * M
  | .rd => (M : ℝ) ≤ y ∧ y < M + 1
  | .ru => (M : ℝ) - 1 < y ∧ y ≤ M

/-- The last place 2^q of a significand of p bits of the number x: no lower than 2^lo, where there is a lowest one. -/
def LastPlace (p : ℕ) (lo : Option ℤ) (x : ℝ) (q : ℤ) : Prop :=
  |x| < 2 ^ (q + p) ∧ (∀ l, lo = some l → l ≤ q) ∧ (lo = some q ∨ (2 : ℝ) ^ (q + p - 1) ≤ |x|)

/-- The largest finite number of a format (R89). -/
def FFmt.Top (f : FFmt) (x : ℝ) : Prop := x = (2 ^ (f.mb + 1) - 1) * (2 : ℝ) ^ (f.emin + 2 ^ f.eb - 3)

/-- Bits of a sign and a magnitude. -/
def FFmt.withSign (f : FFmt) (neg : Bool) (bits : ℕ) : ℕ := (if neg then 2 ^ (f.eb + f.mb) else 0) + bits
def FFmt.isNeg (f : FFmt) (a : ℕ) : Bool := a / 2 ^ (f.eb + f.mb) % 2 == 1

/-- What an operation delivers whose exact result is the number x, not 0 (R91, R92): x rounded once; where that exceeds the largest
finite number, what the mode and SAT give; and exactly the flags OF, UF and NX of R92, of which UF looks at x rounded with an unbounded
exponent. -/
def Delivered (f : FFmt) (rm : Rm) (sat : Bool) (x : ℝ) (r : ℕ × DWord) : Prop :=
  ∃ (neg nx uf : Bool) (top : ℝ) (M q N u : ℤ), (neg = true ↔ x < 0) ∧ f.Top top ∧
    LastPlace (f.mb + 1) (some f.emin) x q ∧ RoundsTo rm (x / 2 ^ q) M ∧
    LastPlace (f.mb + 1) none x u ∧ RoundsTo rm (x / 2 ^ u) N ∧
    (top < |M * (2 : ℝ) ^ q| →
      r.1 = f.withSign neg (if sat = false ∧ (rm = .rne ∨ rm = .rna ∨ (rm = .rd ∧ neg) ∨ (rm = .ru ∧ ¬neg)) then (2 ^ f.eb - 1) * 2 ^ f.mb
        else (2 ^ f.eb - 1) * 2 ^ f.mb - 1) ∧
      r.2 = flagOF ||| flagNX) ∧
    (|M * (2 : ℝ) ^ q| ≤ top →
      (f.decode r.1).Is (M * 2 ^ q) ∧ f.isNeg r.1 = neg ∧ (nx = true ↔ (M : ℝ) * 2 ^ q ≠ x) ∧
      (uf = true ↔ (M : ℝ) * 2 ^ q ≠ x ∧ |N * (2 : ℝ) ^ u| < 2 ^ (f.emin + f.mb)) ∧
      r.2 = (if nx then flagNX else 0) ||| (if uf then flagUF else 0))

/-- FADD, FSUB, FMUL, FFMA, FDIV, FSQRT and FRND of one format (R90, R91, R92, R132, R134), and FMIN and FMAX, which never round (R93). -/
structure FloatRule (f : FFmt) : Prop where
  add  : ∀ rm sat a b x y, (f.decode a).Is x → (f.decode b).Is y → x + y ≠ 0 → Delivered f rm sat (x + y) (f.sat sat (fAdd f rm a b))
  sub  : ∀ rm sat a b x y, (f.decode a).Is x → (f.decode b).Is y → x - y ≠ 0 → Delivered f rm sat (x - y) (f.sat sat (fSub f rm a b))
  mul  : ∀ rm sat a b x y, (f.decode a).Is x → (f.decode b).Is y → x * y ≠ 0 → Delivered f rm sat (x * y) (f.sat sat (fMul f rm a b))
  fma  : ∀ rm sat a b c x y z, (f.decode a).Is x → (f.decode b).Is y → (f.decode c).Is z → x * y + z ≠ 0 →
    Delivered f rm sat (x * y + z) (f.sat sat (fFma f rm a b c))
  div  : ∀ rm sat a b x y, (f.decode a).Is x → (f.decode b).Is y → x ≠ 0 → y ≠ 0 → Delivered f rm sat (x / y) (f.sat sat (fDiv f rm a b))
  sqrt : ∀ rm sat a x, (f.decode a).Is x → 0 < x → Delivered f rm sat (Real.sqrt x) (f.sat sat (fSqrt f rm a))
  /-- an exact result of 0 has the sign of IEEE 754 and no flag (R90) -/
  zero : ∀ rm sat a b c x y z, (f.decode a).Is x → (f.decode b).Is y → (f.decode c).Is z →
    let sum := fun (n m : Bool) => (f.withSign (if n = m then n else rm == .rd) 0, (0 : DWord))
    (x + y = 0 → f.sat sat (fAdd f rm a b) = sum (f.isNeg a) (f.isNeg b)) ∧
    (x - y = 0 → f.sat sat (fSub f rm a b) = sum (f.isNeg a) !(f.isNeg b)) ∧
    (x * y = 0 → f.sat sat (fMul f rm a b) = (f.withSign (f.isNeg a ^^ f.isNeg b) 0, 0)) ∧
    (x * y + z = 0 → f.sat sat (fFma f rm a b c) = sum (f.isNeg a ^^ f.isNeg b) (f.isNeg c)) ∧
    (x = 0 → y ≠ 0 → f.sat sat (fDiv f rm a b) = (f.withSign (f.isNeg a ^^ f.isNeg b) 0, 0)) ∧
    (x = 0 → f.sat sat (fSqrt f rm a) = (f.withSign (f.isNeg a) 0, 0))
  /-- what R90 calls invalid gives the canonical NaN and NV; a finite number other than 0 over 0 gives DZ (R92) -/
  odd  : ∀ rm a b x y, (f.decode a).Is x → (f.decode b).Is y →
    (x = 0 → y = 0 → fDiv f rm a b = (f.nanBits, flagNV)) ∧
    (x ≠ 0 → y = 0 → fDiv f rm a b = (f.withSign (f.isNeg a ^^ f.isNeg b) ((2 ^ f.eb - 1) * 2 ^ f.mb), flagDZ)) ∧
    (x < 0 → fSqrt f rm a = (f.nanBits, flagNV)) ∧
    (∀ n c, f.decode c = .inf n → x = 0 → fMul f rm a c = (f.nanBits, flagNV)) ∧
    (∀ n c d, f.decode c = .inf n → f.decode d = .inf !n → fAdd f rm c d = (f.nanBits, flagNV))
  /-- a NaN operand gives the canonical NaN, and NV where it is signalling (R90) -/
  nan  : ∀ rm a b g, f.decode a = .nan g → (f.decode b).isSnan = false →
    let r := (f.nanBits, if g then flagNV else 0)
    fAdd f rm a b = r ∧ fSub f rm a b = r ∧ fMul f rm a b = r ∧ fDiv f rm a b = r ∧ fSqrt f rm a = r ∧ fRound f rm a = r
  /-- FRND: an integral value in the mode, with the sign of the operand and no flag (R134) -/
  rnd  : ∀ rm a x, (f.decode a).Is x → x ≠ 0 → ∃ M : ℤ, RoundsTo rm x M ∧ (f.decode (fRound f rm a).1).Is M ∧
    f.isNeg (fRound f rm a).1 = f.isNeg a ∧ (fRound f rm a).2 = 0
  /-- FMIN and FMAX of numbers deliver one of them, and of -0 and +0 the lesser or greater as R93 counts them -/
  pick : ∀ isMax num a b x y, (f.decode a).Is x → (f.decode b).Is y →
    (fMinMax f isMax num a b).2 = 0 ∧
    (x < y ∨ (x = y ∧ f.isNeg a = true ∧ f.isNeg b = false) → (fMinMax f isMax num a b).1 = if isMax then b else a) ∧
    (y < x ∨ (x = y ∧ f.isNeg a = false ∧ f.isNeg b = true) → (fMinMax f isMax num a b).1 = if isMax then a else b)

/-- Rounding to p significant bits, where of 1 bit a tie of nearest-even between two odd neighbours may go either way (R91, R98; log
entry 6). -/
def RoundsTo8 (p : ℕ) (rm : Rm) (y : ℝ) (M : ℤ) : Prop :=
  if p = 1 ∧ rm = .rne then |y - M| < 1 / 2 ∨ (|y - M| = 1 / 2 ∧ (1 / 2 < |y| ∨ M = 0)) else RoundsTo rm y M

/-- R98 from step 4 on, for a number x other than 0. -/
def Delivered8 (b : B8) (rm : Rm) (sat : Bool) (x : ℝ) (r : ℕ × DWord) : Prop :=
  ∃ (neg nx uf : Bool) (top : ℝ) (M q N u : ℤ), (neg = true ↔ x < 0) ∧ (b.decode b.maxCode).Is top ∧
    LastPlace b.p (some b.emin) x q ∧ RoundsTo8 b.p rm (x / 2 ^ q) M ∧
    LastPlace b.p none x u ∧ RoundsTo8 b.p rm (x / 2 ^ u) N ∧
    (M = 0 → r = (0, flagUF ||| flagNX)) ∧
    (M ≠ 0 → neg = true → b.uns = true → r = if sat then (0, flagNX) else (0xFF, flagNV)) ∧
    (M ≠ 0 → ¬(neg = true ∧ b.uns = true) →
      (top < |M * (2 : ℝ) ^ q| →
        r = ((if neg then 128 else 0) + (if sat = false ∧ b.fin_ = false ∧ (rm = .rne ∨ rm = .rna ∨ (rm = .rd ∧ neg) ∨ (rm = .ru ∧ ¬neg))
            then b.maxCode + 1 else b.maxCode), flagOF ||| flagNX)) ∧
      (|M * (2 : ℝ) ^ q| ≤ top →
        (b.decode r.1).Is (M * 2 ^ q) ∧ r.1 < 256 ∧ (nx = true ↔ (M : ℝ) * 2 ^ q ≠ x) ∧
        (uf = true ↔ (M : ℝ) * 2 ^ q ≠ x ∧ |N * (2 : ℝ) ^ u| < 2 ^ (b.emin + b.p - 1)) ∧
        r.2 = (if nx then flagNX else 0) ||| (if uf then flagUF else 0)))

/-- The four formats of CVT's codes 0x20 to 0x23, and those of its sources 0 to 3 (R37, R38, R139). -/
def fmtTo (code : ℕ) : FFmt := if code = 0x20 then f16 else if code = 0x21 then bf16 else if code = 0x22 then f32 else f64
def fmtFrom (k : ℕ) : FFmt := if k = 0 then f32 else if k = 1 then f64 else if k = 2 then f16 else bf16

/-- The integer of a source register for CVT's sources 4 to 7: s32, n32, s64, n64. -/
def intFrom (k : ℕ) (x : DWord) : ℤ :=
  if k = 4 then (x.setWidth 32).toInt else if k = 5 then (x.toNat % 2 ^ 32 : ℕ) else if k = 6 then x.toInt else x.toNat

/-- The least and the greatest integer of the destination codes 0x24 to 0x2B: s8, n8, s16, n16, s32, n32, s64, n64. -/
def intLow (code : ℕ) : ℤ := if code % 2 = 0 then -(2 ^ (8 * 2 ^ ((code - 0x24) / 2) - 1)) else 0
def intHigh (code : ℕ) : ℤ := if code % 2 = 0 then 2 ^ (8 * 2 ^ ((code - 0x24) / 2) - 1) - 1 else 2 ^ (8 * 2 ^ ((code - 0x24) / 2)) - 1

/-- An integer in the destination register or pair. -/
def intBits (code : ℕ) (i : ℤ) : ℕ := (i % 2 ^ (if code < 0x2A then 32 else 64)).toNat

/-- The number that CVT converts: of a floating-point source, or of an integer one. -/
def sourceIs (k : ℕ) (x : DWord) (v : ℝ) : Prop :=
  if k < 4 then ((fmtFrom k).decode (x.toNat % 2 ^ ((fmtFrom k).eb + (fmtFrom k).mb + 1))).Is v else v = intFrom k x

/-- CVT (R98, R102, R139), by the number k of its source format and its destination code. -/
structure ConversionRule : Prop where
  /-- to a floating-point format: one rounding, by default to nearest even -/
  float : ∀ (r : Run) (tie : Bool) (k code : ℕ) (x : DWord) (v : ℝ), k < 8 → 0x20 ≤ code → code < 0x24 → sourceIs k x v → v ≠ 0 →
    Delivered (fmtTo code) (rmOf .rne r.rm) r.sat v (cvtOp r tie k code x.toNat)
  /-- to an integer: one rounding, by default toward zero, and NV beyond the type's range -/
  int   : ∀ (r : Run) (tie : Bool) (k code : ℕ) (x : DWord) (v : ℝ), k < 4 → 0x24 ≤ code → code < 0x2C → sourceIs k x v → ∃ M : ℤ, RoundsTo (rmOf .rz r.rm) v M ∧
    (intHigh code < M → cvtOp r tie k code x.toNat = (intBits code (intHigh code), flagNV)) ∧
    (M < intLow code → cvtOp r tie k code x.toNat = (intBits code (intLow code), flagNV)) ∧
    (intLow code ≤ M → M ≤ intHigh code → ∃ nx : Bool, (nx = true ↔ (M : ℝ) ≠ v) ∧
      cvtOp r tie k code x.toNat = (intBits code M, if nx then flagNX else 0))
  /-- what is no number -/
  other : ∀ (r : Run) (tie : Bool) (k code : ℕ) (x : DWord), k < 4 → 0x24 ≤ code → code < 0x2C →
    let d := (fmtFrom k).decode (x.toNat % 2 ^ ((fmtFrom k).eb + (fmtFrom k).mb + 1))
    (d.isNan = true → cvtOp r tie k code x.toNat = (0, flagNV)) ∧
    (d = .inf false → cvtOp r tie k code x.toNat = (intBits code (intHigh code), flagNV)) ∧
    (d = .inf true → cvtOp r tie k code x.toNat = (intBits code (intLow code), flagNV))
  /-- between integers: the low bits, or under SAT the nearest end of the range; never a flag -/
  ints  : ∀ (r : Run) (tie : Bool) (k code : ℕ) (x : DWord), 4 ≤ k → k < 8 → 0x24 ≤ code → code < 0x2C → ∃ i : ℤ, intLow code ≤ i ∧ i ≤ intHigh code ∧
    cvtOp r tie k code x.toNat = (intBits code i, 0) ∧
    (r.sat = false → i % 2 ^ (8 * 2 ^ ((code - 0x24) / 2)) = intFrom k x % 2 ^ (8 * 2 ^ ((code - 0x24) / 2))) ∧
    (r.sat = true → i = max (intLow code) (min (intHigh code) (intFrom k x)))
  /-- to a binary8 format: R98 -/
  small : ∀ (r : Run) (tie : Bool) (k code : ℕ) (x : DWord) (v : ℝ), k < 8 → code < 0x20 → code % 8 ≠ 0 → sourceIs k x v →
    (v = 0 → cvtOp r tie k code x.toNat = (0, 0)) ∧
    (v ≠ 0 → Delivered8 (b8Of code) (rmOf .rne r.rm) r.sat v (cvtOp r tie k code x.toNat))

/-- LGET: the value of the chosen lane, or the thread's own where the lane falls outside (R142). -/
def lgetWord (c : Ctl) (k : Nat) (d a b : BitVec 6) : LaneWord :=
  { w2 c d a b mBU false false (fun _ _ _ => (0, 0)) with
    flags := fun _ _ => 0
    also := fun s => ∀ j ∈ s.cur.on c, ∀ i, lgetLane k s.visW (s.laneId j) (s.bLane j b.toNat).toNat = some i →
      s.crossBad i a.toNat = false
    lane := fun s j l => l.vset d.toNat (match lgetLane k s.visW (s.laneId j) (s.bLane j b.toNat).toNat with
      | none => s.src j a.toNat
      | some i => s.crossSrc i a.toNat) }

/-- The leaves, the tree and the result of GRED and GSCAN in one lane, with the flags of every node of the tree (R107, R146). -/
def treeOf (s : State) (c : Ctl) (isScan : Bool) (a ty op j : Nat) : Word × DWord :=
  let f := redOp ty op s.cur.run.mn
  let k := log2Upto 7 s.visW
  let ls := levels f k ((List.range s.visW).map (fun i =>
    (if (s.cur.on c).contains (s.physLane i) then s.src (s.physLane i) a else redIdentity ty op, 0)))
  let root := (ls.getD k []).headD (0, 0)
  let fold := (scanFold f ls (s.laneId j) (k + 1) 0 none).getD root
  if isScan then (scanResult ty fold.1, root.2 ||| fold.2) else root

def treeWord (c : Ctl) (isScan : Bool) (d a : BitVec 6) (t o : BitVec 3) : LaneWord :=
  { w1 c d a (redMods t.toNat o.toNat) false (fun _ _ => (0, 0)) with
    lane := fun s j l => l.vset d.toNat (treeOf s c isScan a.toNat t.toNat o.toNat j).1
    flags := fun s j => (treeOf s c isScan a.toNat t.toNat o.toNat j).2 }

/-- Cross-lane words with a lane result (R142, R145, R146). -/
def crossWord : Instr → Option LaneWord
  | .lgetAt c d a b => some (lgetWord c 0 d a b)
  | .lgetLo c d a b => some (lgetWord c 1 d a b)
  | .lgetHi c d a b => some (lgetWord c 2 d a b)
  | .lgetXr c d a b => some (lgetWord c 3 d a b)
  | .gred c d a t o => some (treeWord c false d a t o)
  | .gscan c d a t o => some (treeWord c true d a t o)
  | .bxch c d a m k => some { w1 c d a 0 false (fun _ _ => (0, 0)) with
      flags := fun _ _ => 0
      also := fun s => ∀ j ∈ s.cur.on c, s.laneId j ^^^ 2 ^ k.toNat < s.visW → s.crossBad (s.laneId j ^^^ 2 ^ k.toNat) a.toNat = false
      lane := fun s j l => l.vset d.toNat (
        if s.visW ≤ s.laneId j ^^^ 2 ^ k.toNat then s.src j a.toNat
        else bxchOp (2 ^ k.toNat) (s.laneId j) ((s.cur.sget m.toNat).setWidth 32) (s.src j a.toNat)
          (s.crossSrc (s.laneId j ^^^ 2 ^ k.toNat) a.toNat)) }
  | _ => none

/-- Integer, address, logic, shift, bit-field, selection and move words on uniform registers, 64 bits wide (R56 to R68). -/
def uniWord : Instr → Option GroupWord
  | .iaddU c d a b => some (u2 c d a b (mSAT + mSX) true addOp)
  | .isubU c d a b => some (u2 c d a b (mSAT + mSX) true subOp)
  | .imulU c d a b => some (u2 c d a b (mSAT + mSX) true mulOp)
  | .imulhSU c d a b => some (u2 c d a b 0 false (fun _ => mulhS))
  | .imulhNU c d a b => some (u2 c d a b 0 false (fun _ => mulhN))
  | .imadU c d a b => some (u3 c d a b (mSAT + mSX + mADD) true madOp)
  | .iminSU c d a b => some (u2 c d a b 0 false (fun _ => minS))
  | .iminNU c d a b => some (u2 c d a b 0 false (fun _ => minN))
  | .imaxSU c d a b => some (u2 c d a b 0 false (fun _ => maxS))
  | .imaxNU c d a b => some (u2 c d a b 0 false (fun _ => maxN))
  | .idivSU c d a b => some (u2 c d a b mSAT false divS)
  | .idivNU c d a b => some (u2 c d a b mSAT false (fun _ => divN))
  | .iremSU c d a b => some (u2 c d a b 0 false (fun _ => remS))
  | .iremNU c d a b => some (u2 c d a b 0 false (fun _ => remN))
  | .iabsU c d a => some (u1 c d a mSAT absOp)
  | .inegU c d a => some (u1 c d a mSAT negOp)
  | .leaU c k d a b => some (u2 c d a b 0 false (fun _ => leaOp k.toNat))
  | .andU c d a b => some (u2 c d a b 0 false (fun _ => andOp))
  | .orU c d a b => some (u2 c d a b 0 false (fun _ => orOp))
  | .xorU c d a b => some (u2 c d a b 0 false (fun _ => xorOp))
  | .andnU c d a b => some (u2 c d a b 0 false (fun _ => andnOp))
  | .ornU c d a b => some (u2 c d a b 0 false (fun _ => ornOp))
  | .shlU c d a b => some (u2 c d a b 0 false (fun _ => shlOp))
  | .shrlU c d a b => some (u2 c d a b 0 false (fun _ => shrlOp))
  | .shraU c d a b => some (u2 c d a b 0 false (fun _ => shraOp))
  | .rotlU c d a b => some (u2 c d a b 0 false (fun _ => rotlOp))
  | .clzU c d a => some (u1 c d a 0 (fun _ => clzOp))
  | .ctzU c d a => some (u1 c d a 0 (fun _ => ctzOp))
  | .popcU c d a => some (u1 c d a 0 (fun _ => popcOp))
  | .brevU c d a => some (u1 c d a 0 (fun _ => brevOp))
  | .bfxNU c d a b => some (u2 c d a b 0 false (fun _ => bfxOp false))
  | .bfxSU c d a b => some (u2 c d a b 0 false (fun _ => bfxOp true))
  | .bfiU c d a b => some (u3 c d a b mADD false (fun _ => bfiOp))
  | .selU c p d a b => some { u2 c d a b 0 false (fun _ x _ => x) with
      out := fun s => s.setCur (s.cur.sset d.toNat (if s.cur.cget p.toNat then s.cur.sget a.toNat else s.bUni b.toNat)) }
  | .icmpU c k q a b => some { u2 c a a b 0 false (fun _ x _ => x) with
      regs := fun s => a.toNat :: s.bReg b
      out := fun s => s.setCur (s.cur.cset q.toNat (icmpOp k.toNat (s.cur.sget a.toNat) (s.bUni b.toNat))) }
  | .movU c d b => some { u2 c d d b 0 false (fun _ _ y => y) with regs := fun s => d.toNat :: s.bReg b }
  | .pmovCToS c d => some (g0 c true true [d.toNat] (fun _ => True)
      (fun s => s.setCur (s.cur.sset d.toNat ((s.cur.c ||| 1).setWidth 64))))
  | .pmovSToC c a => some (g0 c true true [a.toNat] (fun _ => True)
      (fun s => s.setCur { s.cur with c := (s.cur.sget a.toNat).setWidth 8 ||| 1 }))
  | .plut c x d z y f t => if f == 0 then none else some (g0 c true true [] (fun _ => True)
      (fun s => s.setCur (s.cur.cset d.toNat (plutOp t.toNat (s.cur.cget x.toNat) (s.cur.cget y.toNat) (s.cur.cget z.toNat)))))
  | _ => none

/-- System words that go on in sequence (R20, R81 to R87, R320), in the forms that need no trap. -/
def systemWord : Instr → Option GroupWord
  | .nop c => some (g0 c true true [] (fun _ => True) (fun s => s))
  | .idem c => some (g0 c false false [] (fun _ => True) (fun s => s.setCur { s.cur with
      rpc := s.cur.run.first.getD s.cur.pc, ra := s.cur.act, rdepth := s.cur.stack.length,
      restart := if s.cur.restart.getLsbD 7 then s.cur.restart &&& 0x7F else s.cur.restart &&& 0xFC }))
  | .nopre c => some (g0 c false false [] (fun _ => True) (fun s => s.setCur { s.cur with
      nopre := some (if s.cur.nopre.getD 0 = 0 then 65536 else s.cur.nopre.getD 0) }))
  | .preon c => some (g0 c false false [] (fun _ => True) (fun s => s.setCur { s.cur with nopre := none }))
  | .ifence c => some (g0 c false false [] (fun _ => True) (fun s => s.setCur { s.cur with fbuf := [] }))
  | .time c d => some (g0 c false true [] (fun _ => True)
      (fun s => s.passTime.setCur (s.passTime.cur.sset d.toNat (.ofNat 64 s.passTime.time.now))))
  | .doze c a => some (g0 c false false [] (fun s => (s.cur.sget a.toNat).toNat ≤ s.time.now) (fun s => s))
  | .icinv c a b => some { g0 c false false [] (fun _ => True)
      (fun s => s.icinv (scopeOr 5 s.cur.run.sc) (s.cur.sget a.toNat).toNat (s.bUni b.toNat).toNat) with
      imm := .replaces b.toNat, mods := mSC }
  | _ => none

/-- What RDSR gives of a register that is the group's own (R7): WGID, GID, W, POINT, STEP, GSTAT, CTXID, CORE, DIE and the four
trap registers. -/
def sysValue (s : State) (n : Nat) : DWord :=
  let x := s.launch.pword 1 0 32
  let y := s.launch.pword 1 32 16
  match n with
  | 0x03 => .ofNat 64 (s.wg.l % x)
  | 0x04 => .ofNat 64 (s.wg.l / x % y)
  | 0x05 => .ofNat 64 (s.wg.l / (x * y))
  | 0x07 => .ofNat 64 s.cur.key.gid
  | 0x08 => .ofNat 64 (if s.launch.isProt then s.cur.width / 2 else s.cur.width)
  | 0x09 => .ofNat 64 s.core.point
  | 0x0A => if s.launch.paced then .ofNat 64 (s.core.pace s.launch.uid).step else 0
  | 0x0D => s.cur.gstat
  | 0x0E => s.launch.ctx.setWidth 64
  | 0x0F => .ofNat 64 s.wg.core
  | 0x10 => .ofNat 64 (s.wg.core / 64)
  | 0x11 => s.cur.trapCause
  | 0x12 => s.cur.trapPc
  | 0x13 => s.cur.trapVal
  | _ => s.cur.trapOrg

/-- What RDSR gives lane j of a register that is the thread's own (R7): TID.x, y and z, and LANEID. -/
def laneValue (s : State) (n j : Nat) : Word :=
  let t := ((s.cur.lane j).thread).getD 0
  match n with
  | 0x00 => .ofNat 32 (t % s.launch.wgX)
  | 0x01 => .ofNat 32 (t / s.launch.wgX % s.launch.wgY)
  | 0x02 => .ofNat 32 (t / (s.launch.wgX * s.launch.wgY))
  | _ => .ofNat 32 (if s.launch.isProt then j / 2 else j)

/-- RDSR of every special register in a mode that may read it (R7, R85): a register of the group goes to s(d), one of the thread
to v(d) of each active lane; TIME and ENERGY go on by an amount the spec does not give before they are read (log entry 2). -/
def readWord : Instr → Option GroupWord
  | .rdsr c d a =>
    let n := a.toNat
    some { g0 c false true [] (fun s => (0x11 ≤ n → s.cur.sup = true) ∧ (n < 3 ∨ n = 6 → d.toNat < s.cur.count))
      (fun s =>
        if n < 3 ∨ n = 6 then s.setCur (s.cur.lanesOn.foldl (fun g j => g.setLane j ((g.lane j).vset d.toNat (laneValue s n j))) s.cur)
        else if n = 0x0B then s.passTime.setCur (s.passTime.cur.sset d.toNat (.ofNat 64 s.passTime.time.now))
        else if n = 0x0C then s.passEnergy.setCur (s.cur.sset d.toNat (.ofNat 64 (s.passEnergy.wg.energy - s.cur.energy0)))
        else s.setCur (s.cur.sset d.toNat (sysValue s n))) with acts := fun s => s.cur.guard c }
  | _ => none

/-- WRSR (R7, R8, R18, R85): GSTAT from either mode; from supervisor mode CTXID, which keeps its value, and the four trap
registers. Reserved bits keep reading 0. -/
def writeWord : Instr → Option GroupWord
  | .wrsr c d a =>
    let n := d.toNat
    some (g0 c false false [] (fun s => n = 0x0D ∨ ((n = 0x0E ∨ 0x11 ≤ n) ∧ s.cur.sup = true)) (fun s =>
      let v := s.cur.sget a.toNat
      s.setCur (match n with
        | 0x0D => { s.cur with gstat := v &&& 0xFFDF }
        | 0x0E => s.cur
        | 0x11 => { s.cur with trapCause := v &&& 0xFFFFFF00FF }
        | 0x12 => { s.cur with trapPc := v }
        | 0x13 => { s.cur with trapVal := v }
        | _ => { s.cur with trapOrg := v })))
  | _ => none

/-- The votes and ballot of the lanes that act (R126, R143, R144): V holds the visible ones. -/
def voteOver (s : State) (c : Ctl) (p : Nat) : List Bool :=
  ((s.cur.on c).filter (fun j => !s.launch.isProt || j % 2 == 0)).map (fun j => s.cur.pget j p)

def voteWord : Instr → Option GroupWord
  | .ballot c d p => some { g0 c false true [] (fun s => 64 < s.visW → d.toNat % 2 = 0) (fun s =>
      let m := s.ballot c p.toNat
      let g := s.cur.sset d.toNat (m.setWidth 64)
      s.setCur (if s.visW ≤ 64 then g else g.sset (d.toNat + 1) ((m >>> 64).setWidth 64)))
      with acts := fun s => !(s.cur.on c).isEmpty }
  | .voteAny c q p => some { g0 c false true [] (fun _ => True)
      (fun s => s.setCur (s.cur.cset q.toNat ((voteOver s c p.toNat).contains true)))
      with acts := fun s => !(s.cur.on c).isEmpty }
  | .voteAll c q p => some { g0 c false true [] (fun _ => True)
      (fun s => s.setCur (s.cur.cset q.toNat (!(voteOver s c p.toNat).contains false)))
      with acts := fun s => !(s.cur.on c).isEmpty }
  | .voteSame c q p => some { g0 c false true [] (fun _ => True)
      (fun s => s.setCur (s.cur.cset q.toNat (!((voteOver s c p.toNat).contains true && (voteOver s c p.toNat).contains false))))
      with acts := fun s => !(s.cur.on c).isEmpty }
  | _ => none

/-- The address a branch word names: PC + 4 × off19, or PC + 4 × imm9 widened by IMM (R71 to R74). -/
def branchAt (s : State) (o : Int) : DWord := s.cur.pc + .ofInt 64 (4 * o)

/-- A lane BRA of a launch that is not protected, or whose shadows agree (R71, R322). -/
def laneBranch (c : Ctl) (o : BitVec 19) : GroupWord :=
  let T := fun (s : State) => maskOf (s.cur.on c)
  let rest := fun (s : State) => s.cur.act &&& ~~~T s
  let target := fun (s : State) => branchAt s o.toInt
  let whole := fun (s : State) => rest s = 0
  let parks := fun (s : State) => s.cur.convPc = some (target s)
  let top : State → Bool := fun s => match s.cur.stack with
    | e :: _ => e.pend && e.pc == s.cur.pc + 4
    | [] => false
  { g0 c false true [] (fun s => s.branchMismatch c = none ∧ canonical (target s) = true ∧
      (s.cur.stack.length < 32 ∨ rest s = 0 ∨ T s = 0 ∨ parks s ∨ s.cur.convPc = some (s.cur.pc + 4) ∨ top s = true))
    (fun s => s.setCur (if whole s ∨ T s = 0 then s.cur
      else if parks s then { s.cur with act := rest s }
      else if s.cur.convPc = some (s.cur.pc + 4) then { s.cur with act := T s }
      else if top s then { s.cur with act := T s, stack := match s.cur.stack with
        | e :: es => { e with mask := e.mask ||| rest s } :: es
        | [] => [] }
      else { s.cur with act := T s, stack := { pend := true, pc := s.cur.pc + 4, mask := rest s } :: s.cur.stack })) with
    acts := fun _ => true
    goes := fun s => if whole s then target s else if T s = 0 ∨ parks s then s.cur.pc + 4 else target s }

/-- Control-flow words that reach a canonical, aligned address (R14, R69 to R74). -/
def jumpWord : Instr → Option GroupWord
  | .braLane c _ o => some (laneBranch c o)
  | .braUniform c _ o => some { g0 c true true [] (fun s => canonical (branchAt s o.toInt) = true) (fun s => s) with
      goes := fun s => branchAt s o.toInt }
  | .call c _ o => some { g0 c false true [] (fun s => canonical (branchAt s o.toInt) = true)
      (fun s => s.setCur (s.cur.sset 63 (s.cur.pc + 4))) with goes := fun s => branchAt s o.toInt }
  | .conv sp o => some { g0 { sp := sp, pi := 0, n := false } false true [] (fun s => s.cur.stack.length < 32)
      (fun s => s.setCur { s.cur with stack := { pend := false, pc := branchAt s o.toInt, mask := s.cur.act } :: s.cur.stack }) with
      acts := fun _ => true }
  | .loop c d i => some { g0 c true true [d.toNat]
      (fun s => s.cur.sget d.toNat - 1 ≠ 0 → canonical (branchAt s (s.imm9 i)) = true)
      (fun s => s.setCur (s.cur.sset d.toNat (s.cur.sget d.toNat - 1))) with
      imm := .takes
      goes := fun s => if s.cur.sget d.toNat - 1 = 0 then s.cur.pc + 4 else branchAt s (s.imm9 i) }
  | .brx c a => some { g0 c false true [] (fun s => canonical (s.cur.sget a.toNat) = true ∧ (s.cur.sget a.toNat).toNat % 4 = 0)
      (fun s => s) with goes := fun s => s.cur.sget a.toNat }
  | .ret c a => some { g0 c false true [] (fun s => canonical (s.cur.sget a.toNat) = true ∧ (s.cur.sget a.toNat).toNat % 4 = 0)
      (fun s => s) with goes := fun s => s.cur.sget a.toNat }
  | _ => none

/-! ### Loads and tagged steps in their window (R26, R76, R183 to R189) -/

/-- A result left outstanding by a word with lookahead la, issued in this state: its window, what happens before it (R207, R209), the
instruction's number, and the group, point and lane of its issue (R185, R186). -/
def outstanding (s : State) (lane : Option Nat) (la : Nat) (act : PendAct) : Pend :=
  { lane := lane, rem := la + 1, org := s.cur.run.first.getD s.cur.pc, kept := false, act := act, know := s.issueKnow
    from_ := { num := s.nextId, owner := s.owner, point := s.core.point, lane := lane.getD 0 } }

/-- The state with these results outstanding behind those that were (R26); their instruction has its number. -/
def leaves (s : State) (es : List Pend) : State :=
  { s with nextId := s.nextId + 1, cur := { s.cur with pend := s.cur.pend ++ es } }

/-- What the group has done before comes before a tagged access and a command: its reductions, and in coherence order its stores
(R204). -/
def ordered (s : State) : State :=
  s.partners.foldl (fun u g => u.flushGroup g.key u.owner u.wg.core [] [] false (fun _ => true)) s.serveAllReds

/-- A long-latency lane word, and STF and TAGS, whose steps may be performed one by one: whether it accesses tags, where each lane's
access goes, and what stands in its window. -/
structure LaneLoad where
  ctl   : Ctl
  tag   : Bool
  la    : Nat
  mods  : Nat
  slice : Bool
  dsts  : State → List VReg
  srcs  : List VReg
  split : State → Option Nat   -- a protected pair that differs (R202)
  route : State → Nat → Route
  act   : State → Nat → Nat → PendAct

/-- The address that a lane's access was routed to. -/
def Route.at_ (r : Route) : Nat := match r with
  | .to a => a
  | _ => 0

/-- Every lane that acts has a good address: the word leaves its results outstanding behind those that were (R26), in rising lane order,
and changes nothing else but the queues it read; before a tagged access stands what the group has done before. -/
def LaneLoad.Does (i : Instr) (x : LaneLoad) : Prop :=
  ∀ s : State, Issues s i .takes x.mods false x.slice false → wellFormed i = true →
    s.lanesReady (s.cur.on x.ctl) (x.dsts s) x.srcs → x.split s = none →
    (∀ j ∈ s.served (s.cur.on x.ctl), ∃ a, x.route s j = .to a) →
    let p := s.popped (s.cur.on x.ctl) x.srcs
    let t := if x.tag then ordered p else p
    let u := if s.cur.on x.ctl = [] then s
      else leaves t ((s.served (s.cur.on x.ctl)).map (fun j => outstanding t (some j) x.la (x.act s j (x.route s j).at_)))
    exec i s = .next (s.after x.ctl.sp u u.cur)

def laneLoad : Instr → Option LaneLoad
  | .ldg c l r t o w =>
    let n := fun (s : State) => widthOf s.cur.run w.toNat
    let push := fun (s : State) => s.cur.key.shadow && decide (56 ≤ r.toNat) && spanOf w.toNat == 1
    some { ctl := c, tag := false, la := l.toNat, mods := mCP + (if w.toNat = 3 then mNS + mSX else 0), slice := true
           dsts := fun s => if push s then [] else [(r.toNat, spanOf w.toNat)], srcs := [(o.toNat, 1)], split := fun _ => none
           route := fun s j => s.route t.toNat (s.laneX o.toNat j) (n s).bytes false
           act := fun s _ a => if push s then .push true a (n s) (r.toNat - 56) else .load a (n s) r.toNat }
  | .lds c l r o w =>
    let n := fun (s : State) => widthOf s.cur.run w.toNat
    let push := fun (s : State) => s.cur.key.shadow && decide (56 ≤ r.toNat) && spanOf w.toNat == 1
    some { ctl := c, tag := false, la := l.toNat, mods := if w.toNat = 3 then mNS + mSX else 0, slice := true
           dsts := fun s => if push s then [] else [(r.toNat, spanOf w.toNat)], srcs := [(o.toNat, 1)], split := fun _ => none
           route := fun s j => match padCheck s.wg.size (s.laneX o.toNat j) (n s).bytes with
             | none => .to (s.laneX o.toNat j).toNat
             | some (_, v) => .lease v
           act := fun s _ a => if push s then .push false a (n s) (r.toNat - 56) else .pad a (n s) r.toNat }
  | .ldfTake c l r o => some { ctl := c, tag := true, la := l.toNat, mods := 0, slice := false, dsts := fun _ => [(r.toNat, 1)], srcs := [(o.toNat, 1)]
                               split := fun _ => none, route := padPlace o.toNat 4, act := fun _ _ a => .tag .take a 0 r.toNat }
  | .ldfPeek c l r o => some { ctl := c, tag := true, la := l.toNat, mods := 0, slice := false, dsts := fun _ => [(r.toNat, 1)], srcs := [(o.toNat, 1)]
                               split := fun _ => none, route := padPlace o.toNat 4, act := fun _ _ a => .tag .peek a 0 r.toNat }
  | .ste c l r o => some { ctl := c, tag := true, la := l.toNat, mods := 0, slice := false, dsts := fun _ => [], srcs := [(r.toNat, 1), (o.toNat, 1)]
                           split := fun s => s.pairMismatch (s.cur.on c) (s.pairKey o.toNat r.toNat 4), route := padPlace o.toNat 4
                           act := fun s j a => .tag .fill a (s.src j r.toNat) 0 }
  | .tagq c l r o => some { ctl := c, tag := true, la := l.toNat, mods := 0, slice := false, dsts := fun _ => [(r.toNat, 1)], srcs := [(o.toNat, 1)]
                            split := fun _ => none, route := padPlace o.toNat 128, act := fun _ _ a => .tagq a r.toNat }
  | .ldd c l r o w =>
    let n := fun (s : State) => widthOf s.cur.run w.toNat
    some { ctl := c, tag := false, la := l.toNat, mods := if w.toNat = 3 then mNS + mSX else 0, slice := false
           dsts := fun _ => [(r.toNat, spanOf w.toNat)], srcs := [(o.toNat, 1)], split := fun _ => none
           route := fun s j => if (s.laneX o.toNat j).toNat % (n s).bytes = 0 then .to (s.laneX o.toNat j).toNat
             else .align (s.laneX o.toNat j)
           act := fun s _ a => .window a (n s) r.toNat }
  | .stf c r o => some { ctl := c, tag := true, la := 0, mods := 0, slice := false, dsts := fun _ => [], srcs := [(r.toNat, 1), (o.toNat, 1)]
                         split := fun s => s.pairMismatch (s.cur.on c) (s.pairKey o.toNat r.toNat 4), route := padPlace o.toNat 4
                         act := fun s j a => .tag .force a (s.src j r.toNat) 0 }
  | .tags c v o w =>
    let n := if w = 3 then 64 else 4 * 2 ^ w.toNat
    some { ctl := c, tag := true, la := 0, mods := 0, slice := false, dsts := fun _ => [], srcs := [(o.toNat, 1)]
           split := fun s => s.pairMismatch (s.cur.on c) (fun j => [(s.laneX o.toNat j).toNat]), route := padPlace o.toNat n
           act := fun _ _ a => .tags a n (v == 1) }
  | _ => none
where
  /-- R168: an aligned offset inside the allocation. -/
  padPlace (o n : Nat) (s : State) (j : Nat) : Route := match padCheck s.wg.size (s.laneX o j) n with
    | none => .to (s.laneX o j).toNat
    | some (_, v) => .lease v

/-- The uniform loads LDK and XLATE, and PREF, whose request is accepted at once (R78 to R80). -/
def uniLoad : Instr → Option GroupWord
  | .ldk c l r t o w =>
    let n := fun (s : State) => widthOf s.cur.run w.toNat
    let at_ := fun (s : State) => s.route t.toNat (s.cur.sget o.toNat + s.cur.run.displacement) (n s).bytes false
    some { g0 c true false [r.toNat + (if w = 2 then 1 else 0), o.toNat] (fun s => ∃ a, at_ s = .to a)
      (fun s => leaves s [outstanding s none l.toNat (.load (at_ s).at_ (n s) r.toNat)]) with
      imm := .takes, mods := mCP + (if w.toNat = 3 then mNS + mSX else 0) }
  | .xlate c l t o => some (g0 c true false [o.toNat] (fun _ => True)
      (fun s => leaves s [outstanding s none l.toNat (.xlate (s.cur.sget o.toNat) t.toNat)]))
  | .pref c _ _ o => some { g0 c true false [o.toNat] (fun _ => True) (fun s => s) with mods := mCP }
  | _ => none

/-! ### Stores (R77, R78, R183, R189) -/

/-- A precise lane store: where each lane stores, when it waits for a link (R334), which outstanding access of the group its store at a
place must come after (R210), and what one lane's store does to the state. -/
structure LaneStore where
  ctl   : Ctl
  mods  : Nat
  srcs  : List VReg
  split : State → Option Nat
  route : State → Nat → Route
  late  : State → Bool
  after : State → Pend → Nat → Bool
  put   : State → Nat → Nat → State → State

/-- The group has no reduction on its way to an owner: those come before what it does next (R195, R204). -/
def State.noReds (s : State) : Prop := ∀ r ∈ s.myRequests, r.reg ≠ none

/-- The physical group has nothing of this kind outstanding (R127). -/
def State.noneOwn (s : State) (f : Pend → Bool) : Prop := ∀ g ∈ s.partners, ∀ e ∈ g.pend, f e = false

/-- Every lane that acts has a good address and nothing outstanding of the group must come first: the stores are made in rising lane
order and the word completes; nothing else changes but the queues it read. Where a link that its window stores need retrains, the word
issues again (R334). -/
def LaneStore.Does (i : Instr) (x : LaneStore) : Prop :=
  ∀ s : State, Issues s i .takes x.mods false false false → wellFormed i = true →
    s.lanesReady (s.cur.on x.ctl) [] x.srcs → x.split s = none → s.noReds →
    (∀ j ∈ s.served (s.cur.on x.ctl), ∃ a, x.route s j = .to a ∧ s.noneOwn (fun e => x.after s e a)) →
    let t := (s.served (s.cur.on x.ctl)).foldl (fun t j => x.put s j (x.route s j).at_ t) (s.popped (s.cur.on x.ctl) x.srcs)
    exec i s = .next (if x.late s then s.setCur { s.cur with wait := .again [] } else s.after x.ctl.sp t t.cur)

/-- The bytes that a store of n bytes takes from lane j: of one register, or of n / 4 registers from it (R76, R77). -/
def storeBytes (s : State) (r n j : Nat) : List Byte :=
  if n ≤ 4 then natBytes (s.src j r).toNat n
  else (List.range (n / 4)).flatMap (fun k => natBytes (s.cur.vget j (r + k)).toNat 4)

def laneStore : Instr → Option LaneStore
  | .stg c r t o w =>
    let n := fun (s : State) => (widthOf s.cur.run w.toNat).bytes
    some { ctl := c, mods := mCP + (if w.toNat = 3 then mNS else 0), srcs := [(r.toNat, spanOf w.toNat), (o.toNat, 1)]
           split := fun s => s.pairMismatch (s.cur.on c) (s.pairKey o.toNat r.toNat (n s))
           route := fun s j => s.route t.toNat (s.laneX o.toNat j) (n s) true
           late := fun _ => false, after := fun s e a => s.touchesMem e a (n s)
           put := fun s j a u => u.gwrite a (storeBytes s r.toNat (n s) j) }
  | .sts c r o w =>
    let n := fun (s : State) => (widthOf s.cur.run w.toNat).bytes
    some { ctl := c, mods := if w.toNat = 3 then mNS else 0, srcs := [(r.toNat, spanOf w.toNat), (o.toNat, 1)]
           split := fun s => s.pairMismatch (s.cur.on c) (s.pairKey o.toNat r.toNat (n s))
           route := fun s j => padRoute o.toNat (n s) s j
           late := fun _ => false, after := fun s e a => e.touchesPad a (n s)
           put := fun s j a u => u.padStore a (storeBytes s r.toNat (n s) j) }
  | .std c r o w =>
    let n := fun (s : State) => (widthOf s.cur.run w.toNat).bytes
    some { ctl := c, mods := if w.toNat = 3 then mNS else 0, srcs := [(r.toNat, spanOf w.toNat), (o.toNat, 1)]
           split := fun s => s.pairMismatch (s.cur.on c) (s.pairKey o.toNat r.toNat (n s))
           route := fun s j => if (s.laneX o.toNat j).toNat % n s ≠ 0 then .align (s.laneX o.toNat j)
             else if (s.windowAt s.launch (s.laneX o.toNat j) (n s) true).isNone then .lease (s.laneX o.toNat j)
             else .to (s.laneX o.toNat j).toNat
           late := fun s => (s.served (s.cur.on c)).any (fun j => s.crosses (.window (s.laneX o.toNat j).toNat { bytes := n s, signed := false } 0))
           after := fun s e a => match s.windowAt s.launch (.ofNat 64 a) (n s) true with
             | some (u, off) => (u == s.wg.uid && e.touchesPad off (n s)) || (match e.act with | .window _ _ _ => true | _ => false)
             | none => false
           put := fun s j a u => u.windowStore a (storeBytes s r.toNat (n s) j) }
  | _ => none
where
  padRoute (o n : Nat) (s : State) (j : Nat) : Route := match padCheck s.wg.size (s.laneX o j) n with
    | none => .to (s.laneX o j).toNat
    | some (_, v) => .lease v

/-- STK (R78): 1, 2, 4, 8 or 16 bytes of one uniform register, or of two. -/
def uniStore : Instr → Option GroupWord
  | .stk c r t o w =>
    let n := fun (s : State) => (widthOf s.cur.run w.toNat).bytes
    let at_ := fun (s : State) => s.route t.toNat (s.cur.sget o.toNat + s.cur.run.displacement) (n s) true
    let data := fun (s : State) => if n s ≤ 8 then natBytes (s.cur.sget r.toNat).toNat (n s)
      else natBytes (s.cur.sget r.toNat).toNat 8 ++ natBytes (s.cur.sget (r.toNat + 1)).toNat 8
    some { g0 c false false [] (fun s => s.noReds ∧ ∃ a, at_ s = .to a ∧ s.noneOwn (fun e => s.touchesMem e a (n s)))
      (fun s => s.gwrite (at_ s).at_ (data s)) with
      imm := .takes, mods := mCP + (if w.toNat = 3 then mNS else 0) }
  | _ => none

/-- A byte of memory as the current group reads it before any other group's write: its own unpublished byte, else the newest (R77). -/
def State.viewByte (s : State) (a : Nat) : Byte := (mapGet none s.cur.dirty a).getD (s.byte a)

/-! ### Atomics (R190 to R196) -/

/-- An ATOM or RED: its operation, width, the register that gets the old value, its lookahead, its registers. -/
structure AtomWord where
  ctl  : Ctl
  op   : AtomOp
  wide : Bool
  ret  : Bool
  la   : Nat
  r    : Nat
  t    : Nat
  o    : Nat

def AtomWord.bytes (x : AtomWord) : Nat := if x.wide then 8 else 4
def AtomWord.dsts (x : AtomWord) : List VReg := if x.ret then [(x.r, if x.wide then 2 else 1)] else []

/-- The operand, and for cas the second one behind it (R191). -/
def AtomWord.srcs (x : AtomWord) : List VReg :=
  (if x.wide then (if x.op = .cas then [(x.r, 4)] else [(x.r, 2)])
   else if x.op = .cas then [(x.r, 1), (x.r + 1, 1)] else [(x.r, 1)]) ++ [(x.o, 1)]

def AtomWord.xOf (x : AtomWord) (s : State) (j : Nat) : DWord := if x.wide then s.src64 j x.r else (s.src j x.r).setWidth 64
def AtomWord.yOf (x : AtomWord) (s : State) (j : Nat) : DWord :=
  if x.op = .cas then (if x.wide then s.src64 j (x.r + 2) else (s.src j (x.r + 1)).setWidth 64) else 0

/-- The request of lane j, number n (R190, R194, R198). -/
def AtomWord.request (x : AtomWord) (s u : State) (n j a : Nat) : AtomReq :=
  { id := n, from_ := s.cur.key, core := s.wg.core, lane := j, op := x.op, wide := x.wide,
    pa := a, x := x.xOf s j, y := x.yOf s j, reg := if x.ret then some x.r else none,
    acq := s.cur.run.ord % 2 == 1 && x.ret, rel := s.cur.run.ord / 2 == 1, scope := scopeOr 5 s.cur.run.sc, know := u.cur.known,
    rels := if s.cur.run.ord = 0 then s.cur.fenceRel.map (fun f => { know := f.know, scope := f.scope, party := s.me }) else [] }

/-- Every lane has a good address and nothing outstanding of the group touches the locations: after the publication of a release
(R206), one request per lane leaves in rising lane order, a relaxed one with the releases of the fences before it (R198), and for an
ATOM one entry per lane stands in its window. -/
def AtomWord.Does (i : Instr) (x : AtomWord) : Prop :=
  ∀ s : State, Issues s i .takes (if x.ret then mORD + mSC else 0x800 + mSC) false false false → wellFormed i = true →
    s.lanesReady (s.cur.on x.ctl) x.dsts x.srcs →
    s.pairMismatch (s.cur.on x.ctl) (fun j => [(s.laneX x.o j).toNat, (x.xOf s j).toNat, if x.op = .cas then (x.yOf s j).toNat else 0]) = none →
    (∀ j ∈ s.served (s.cur.on x.ctl), ∃ a, s.route x.t (s.laneX x.o j) x.bytes true = .to a ∧
      s.noneOwn (fun e => s.touchesMem e a x.bytes)) →
    let p := s.popped (s.cur.on x.ctl) x.srcs
    let u := if s.cur.on x.ctl = [] then s else if s.cur.run.ord / 2 = 1 then p.publish (scopeOr 5 s.cur.run.sc) else p
    -- an ATOM takes a number for its request and one for its result
    let num := fun (k : Nat) => u.nextId + (if x.ret then 2 else 1) * k
    let reqs := (s.served (s.cur.on x.ctl)).mapIdx (fun k j => x.request s u (num k) j (s.route x.t (s.laneX x.o j) x.bytes true).at_)
    exec i s = .next (s.after x.ctl.sp { u with nextId := num reqs.length, atomq := u.atomq ++ reqs }
      { u.cur with pend := u.cur.pend ++ (if x.ret then reqs.map (fun r =>
        outstanding { u with nextId := r.id + 1 } (some r.lane) x.la (.atom r.id)) else []) })

/-- The operations of RED by fn (R195). -/
def redOf : Nat → AtomOp
  | 0 => .add | 1 => .and | 2 => .or | 3 => .xor | 4 => .minS | 5 => .maxS | 6 => .minN | 7 => .maxN | _ => .fadd

def atomWord : Instr → Option AtomWord
  | .atomAdd c l r t o w => some (atom c .add l r t o w)
  | .atomExch c l r t o w => some (atom c .exch l r t o w)
  | .atomCas c l r t o w => some (atom c .cas l r t o w)
  | .atomAnd c l r t o w => some (atom c .and l r t o w)
  | .atomOr c l r t o w => some (atom c .or l r t o w)
  | .atomXor c l r t o w => some (atom c .xor l r t o w)
  | .atomMinS c l r t o w => some (atom c .minS l r t o w)
  | .atomMaxS c l r t o w => some (atom c .maxS l r t o w)
  | .atomMinN c l r t o w => some (atom c .minN l r t o w)
  | .atomMaxN c l r t o w => some (atom c .maxN l r t o w)
  | .atomFadd c l r t o w => some (atom c .fadd l r t o w)
  | .red32 c f r t o => some { ctl := c, op := redOf f.toNat, wide := false, ret := false, la := 0, r := r.toNat, t := t.toNat, o := o.toNat }
  | .red64 c f r t o => some { ctl := c, op := redOf f.toNat, wide := true, ret := false, la := 0, r := r.toNat, t := t.toNat, o := o.toNat }
  | _ => none
where
  atom (c : Ctl) (op : AtomOp) (l : BitVec 4) (r : BitVec 5) (t : BitVec 3) (o : BitVec 6) (w : BitVec 1) : AtomWord :=
    { ctl := c, op := op, wide := w == 1, ret := true, la := l.toNat, r := 2 * r.toNat, t := t.toNat, o := o.toNat }

/-! ### Phase boundaries, fences and cache ranges (R197 to R201) -/

/-- PHASE, FENCE, FENCE.e, which stays outstanding in its window, CFLUSH and CINV. -/
def fenceWord : Instr → Option GroupWord
  | .phase c _ t => some (g0 c false false [] (fun _ => True) (fun s => (s.serveAllReds.publish t.toNat).snapshot t.toNat))
  | .fence c _ t => some (g0 c false false [] (fun _ => True) (fun s =>
      let u := (s.serveAllReds.publish t.toNat).snapshot t.toNat
      let g := u.cur.takeRels u.cur.fenceAcq true false t.toNat u.me
      u.setCur { g with
        fenceAcq := u.cur.fenceAcq.filter (fun r => !(reach r.scope r.party u.me && reach t.toNat u.me r.party))
        fenceRel := { scope := t.toNat, know := g.known } :: u.cur.fenceRel.filter (fun f => f.scope ≠ t.toNat) }))
  | .fenceE c l t => some (g0 c false false [] (fun _ => True) (fun s => leaves s [outstanding s none l.toNat (.fence t.toNat)]))
  | .cflush c _ t o => some { g0 c false false [] (fun _ => True)
      (fun s => s.cacheRange ((s.cur.tget t.toNat).base + s.cur.sget o.toNat).toNat ((s.cur.run.imm.map (·.toNat)).getD 64)) with imm := .takes }
  | .cinv c _ t o => some { g0 c false false [] (fun _ => True)
      (fun s => s.cacheRange ((s.cur.tget t.toNat).base + s.cur.sget o.toNat).toNat ((s.cur.run.imm.map (·.toNat)).getD 64)) with imm := .takes }
  | _ => none

/-! ### Engine, channel, register and step words -/

/-- Not in supervisor mode (R131 and R264: a word of these tables with this condition traps ILLEGAL there). -/
def userMode (s : State) : Prop := s.cur.sup = false

/-- What one receive or send of the group moves, in entries of 16 words (R243). -/
def entryCount (s : State) : Nat := (4 * s.visW + 63) / 64

/-- The channel that a core's channel number binds, inbound for k = 0 and outbound for k = 1 (R243). -/
def chanOf (s : State) (k ch : Nat) : Option Chan :=
  s.launch.chans.find? (fun c => if k = 0 then c.bind.recv == s.wg.core && c.bind.inp == ch
    else c.bind.sender == s.wg.core && c.bind.out == ch)

/-- A field of eight bits, of which bit n says whether f holds of n. -/
def bitsOf (f : ℕ → Bool) : ℕ := ((List.range 8).map (fun n => if f n then 2 ^ n else 0)).sum

/-- May a receive (k = 0) or a send (k = 1) on the channel go on at the current width (R243, R277)? -/
def chanGoes (s : State) (k : ℕ) (d : Chan) : Bool :=
  if k = 0 then decide (entryCount s ≤ d.fifo.length + if d.transit = [] then d.toy.length else 0) else d.room (entryCount s)

/-- The fields of R268: CHIN, CHOUT, TILE, MQ, FRAMES and COPIES at their places; TILE and MQ are of the group's quad and read 0 in
supervisor mode. A send whose queue has timed out is no longer in flight (R342). -/
def engineSnapshot (s : State) : ℕ :=
  let mine := s.core.mq.filter (fun m => m.wg == s.wg.uid && m.quad == s.cur.key.gid / 4 && !s.cur.sup)
  let frames := (List.range 64).filter (fun i => decide ((s.core.frame i).owner = none ∧ (s.core.frame i).held = none))
  let copies := s.copies.filter (fun c => c.core == s.wg.core && !s.lapsed c)
  bitsOf (fun c => (chanOf s 0 c).any (chanGoes s 0)) * 2 ^ 48 + bitsOf (fun c => (chanOf s 1 c).any (chanGoes s 1)) * 2 ^ 40 +
    bitsOf (fun n => mine.any (fun m => m.tile == n)) * 2 ^ 32 + mine.length * 2 ^ 28 + frames.length * 2 ^ 16 + copies.length

/-- Words that read or move one register, a balance or a counter: SPANQ, GIVE and CLAIM, QSTAT, CHPOLL, SLOT, MWAIT. -/
def queryWord : Instr → Option GroupWord
  | .spanq c d => some (g0 c false true [] (fun _ => True) (fun s => s.tick.setCur (s.cur.sset d.toNat
      (.ofNat 64 (s.freeVal.toNat % 16 * 65536 + s.core.curve.toNat * 4096 + s.launch.allowed.toNat * 256 +
        s.wg.kern.supported.toNat * 16 + s.core.point)))))
  | .give c b => some (g0 c false false []
      (fun s => userMode s ∧ s.compat = false ∧ 8 * b.toNat + 8 ≤ s.cur.count ∧ s.wg.claimQ = [])
      (fun s => s.setCur { s.cur.clearRegs (s.cur.count - 8 * b.toNat) (8 * b.toNat) with count := s.cur.count - 8 * b.toNat }))
  | .claim c b => some (g0 c false false []
      (fun s => userMode s ∧ s.compat = false ∧ s.wg.claimQ = [] ∧ s.claimRefusal b.toNat = none ∧
        s.cur.threadsN * (8 * b.toNat) * 4 ≤ s.wg.account - ((s.groupsOf s.wg.uid).map Group.holds).sum)
      (fun s => s.setCur ({ s.cur.clearRegs s.cur.count (8 * b.toNat) with count := s.cur.count + 8 * b.toNat }.cset 7 true)))
  | .qstat c x => some (g0 c false false [] (fun _ => True) (fun s => s.setCur (s.cur.sset x.toNat (.ofNat 64 (engineSnapshot s)))))
  | .chpoll c x ch k => some (g0 c false false [] (fun s => userMode s ∧ (chanOf s k.toNat ch.toNat).isSome)
      (fun s => s.setCur (s.cur.cset x.toNat (match chanOf s k.toNat ch.toNat with
        | none => false
        | some d => chanGoes s k.toNat d))))
  | .slot c x y k => some (g0 c false true [] (fun s => userMode s ∧ (s.wg.kern.bufs.getD k.toNat (0, 0)).1 ≠ 0)
      (fun s =>
        let b := s.wg.kern.bufs.getD k.toNat (0, 0)
        let before := ((s.wg.kern.bufs.take k.toNat).map (fun x => (x.1 * x.2 + 63) / 64 * 64)).sum
        s.setCur (s.cur.sset x.toNat (.ofNat 64 (before + (s.cur.sget y.toNat).toNat % b.1 * b.2)))))
  | .mwait c w a => some (g0 c false false []
      (fun s => userMode s ∧ (∀ m ∈ s.core.mq, m.wg = s.wg.uid → m.quad = s.cur.key.gid / 4 → ¬(w = 1 ∨ m.tile = a.toNat)) ∧
        ∀ t ∈ s.cur.matBad, ¬(w = 1 ∨ t = a.toNat))
      (fun s => s.setCur { s.cur with
        known := (List.range 8).foldl (fun (k : Know) t => if w = 1 ∨ t = a.toNat then
          k.raise (waitKey s.wg.uid (s.cur.key.gid / 4) t)
            (((s.core.frameOf s.wg.uid (s.cur.key.gid / 4) t).map (fun i => (s.core.frame i).serial)).getD 0) else k) s.cur.known }))
  | _ => none

/-- COPY's command is good (R226 to R228): its fields are legal, everything is aligned, the counter is writable under the lease,
the send queue is there, and the core has fewer than 16 copies in flight. -/
def copyGood (s : State) (c : CopyCmd) (ctr : DWord) (pa : Nat) : Prop :=
  c.legal = true ∧ (c.dkind = 4 → c.dstride = 0 ∧ c.rows * c.rowb ≤ 2 ^ 30 ∧ (s.launch.sendQueue (c.dst.toNat % 65536)).isSome) ∧
    c.misaligned ctr = none ∧ s.viaTlb s.launch ctr.toNat 8 true = some pa ∧ s.copiesOn s.wg.core < 16

/-- What comes before a counter wait reads its counter: the group's reductions, and the group's own stores to it (R192, R204, R267). -/
def counterFirst (s : State) (pa : Nat) : State := s.serveAllReds.flushOwn s.owner s.wg.core (pa / 4) 2

/-- The counter has reached the target, as the group reads it at its owner (R192, R213, R267; log entry 59). -/
def counterMet (s : State) (pa : Nat) (target : DWord) : Prop := target.toNat ≤ (s.counterSeen s.cur pa).toNat

/-- COPY, WAITGE, NPOST, CHSEND and CHRECV where they need not wait (R226, R243, R266, R267, R277, R281). -/
def engineWord : Instr → Option GroupWord
  | .copy c _ x y =>
    let cmd := fun (s : State) => copyCmd (s.cur.sget x.toNat) (s.cur.sget (x.toNat + 1)) (s.cur.sget (x.toNat + 2)) (s.cur.sget (x.toNat + 3))
    let pa := fun (s : State) => (s.viaTlb s.launch (s.cur.sget y.toNat).toNat 8 true).getD 0
    some { g0 c false false [] (fun s => userMode s ∧ copyGood s (cmd s) (s.cur.sget y.toNat) (pa s)) (fun s =>
        let u := ordered s
        let known := u.partners.foldl (fun (k : Know) g => k.join g.known) u.cur.known
        State.traceCore { u with
          nextId := u.nextId + 1
          copies := u.copies ++ [{
            id := u.nextId, core := u.wg.core, wg := u.wg.uid, launch := u.launch.uid, from_ := s.cur.key, src := (cmd s).src
            dst := (cmd s).dst, sstride := (cmd s).sstride, dstride := (cmd s).dstride, rows := (cmd s).rows, rowb := (cmd s).rowb
            skind := (cmd s).skind, dkind := (cmd s).dkind, zero := (cmd s).zero, full := (cmd s).full, scope := scopeOr 5 (cmd s).csc
            counter := pa s, counterVa := s.cur.sget y.toNat, inc := (s.cur.run.imm.map (·.toNat)).getD 1, moved := [], data := []
            known := known, fresh := known, sent := none }] } 1 1 u.wg.core u.launch.ctx (s.cur.sget y.toNat) (s.cur.sget (x.toNat + 2)))
      with imm := .takes }
  | .waitge c x y => some { waits c x y with also := fun _ => True }
  | .waitgeContinuation c x y => some { waits c x y with imm := .takes, also := fun s => s.cur.run.imm.isSome = true }
  | .npost c _ x y =>
    let bytes := fun (s : State) => s.serveAllReds.gread ((s.viaTlb s.launch (s.cur.sget x.toNat).toNat 32 false).getD 0) 32
    let u := fun (s : State) => (bytes s).2
    let w := fun (s : State) (k : Nat) => bytesNat (((bytes s).1.drop (8 * k)).take 8)
    some (g0 c false false []
      (fun s => userMode s ∧ (s.cur.sget x.toNat).toNat % 32 = 0 ∧ (s.cur.sget y.toNat).toNat % 8 = 0 ∧
        (s.viaTlb s.launch (s.cur.sget x.toNat).toNat 32 false).isSome ∧ descriptorBad (w s 1) (w s 2) (w s 3) = none ∧
        w s 0 % 64 = 0 ∧ ((u s).launch.recvQueue (fld (w s 1) 48 16)).isSome ∧
        (u s).launch.grants (w s 0) (fld (w s 1) 0 32) true = true ∧
        ((u s).viaTlb (u s).launch (s.cur.sget y.toNat).toNat 8 true).isSome ∧
        ((u s).launch.posted.filter (fun q => q.queue == fld (w s 1) 48 16)).length < 256)
      (fun s => { u s with launch := { (u s).launch with posted := (u s).launch.posted ++ [{
        queue := fld (w s 1) 48 16, op := netOpOf (fld (w s 1) 40 2), buf := .ofNat 64 (w s 0), length := fld (w s 1) 0 32
        tag := fld (w s 2) 0 48, inc := fld (w s 3) 0 32
        counter := ((u s).viaTlb (u s).launch (s.cur.sget y.toNat).toNat 8 true).getD 0 }] } }))
  | .chsend c x ch => some (g0 c false false []
      (fun s => userMode s ∧ s.regBad (x.toNat, 1) = false ∧
        s.poisonReg ((List.range s.cur.width).filter (fun j => (s.cur.lane j).thread.isSome)) [(x.toNat, 1)] = none ∧
        s.sendMismatch x.toNat = none ∧ ∃ d, chanOf s 1 ch.toNat = some d ∧ d.room (entryCount s) = true ∧
          ((s.publish 5).toyWrite (s.publish 5).launch d (sent x.toNat s (s.publish 5))).isSome)
      (fun s => match chanOf s 1 ch.toNat with
        | none => s
        | some d =>
          let es := sent x.toNat s (s.publish 5)
          let u := ((s.publish 5).toyWrite (s.publish 5).launch d es).getD s
          { u with launch := u.launch.onChan d.bind (fun d => d.put es) }))
  | .chrecv c l x ch => some (g0 c false false []
      (fun s => userMode s ∧ s.regBad (x.toNat, 1) = false ∧
        ∃ d, chanOf s 0 ch.toNat = some d ∧ d.toyOn = false ∧ entryCount s ≤ d.fifo.length)
      (fun s => match chanOf s 0 ch.toNat with
        | none => s
        | some d =>
          let es := d.fifo.take (entryCount s)
          let u := { s with launch := s.launch.onChan d.bind (fun _ => { d with fifo := d.fifo.drop (entryCount s) }) }
          let u := (es.foldl (fun u e => u.setCur { u.cur with known := u.cur.known.join e.know }) u.serveAllReds).snapshot 5
          leaves u ((s.served s.cur.lanesOn).map (fun j =>
            outstanding u (some j) l.toNat (.word x.toNat ((es.flatMap (·.words)).getD (s.laneId j) 0))))))
  | _ => none
where
  /-- The entries that a send makes of one register of each lane, with what its publication leaves known (R243, R277). -/
  sent (x : Nat) (s u : State) : List Entry := (List.range (entryCount s)).map (fun e =>
    { words := (List.range 16).map (fun k =>
        if 16 * e + k < u.visW ∧ (u.cur.lane (u.physLane (16 * e + k))).thread.isSome then u.cur.vget (u.physLane (16 * e + k)) x else 0)
      know := u.cur.known })
  /-- A counter wait that is satisfied at once: it acquires the counter's releases and goes on (R220, R267). -/
  waits (c : Ctl) (x y : BitVec 6) : GroupWord :=
    let pa := fun (s : State) => (s.viaTlb s.launch (s.cur.sget x.toNat).toNat 8 false).getD 0
    { g0 c false false [] (fun s => userMode s ∧ (s.cur.sget x.toNat).toNat % 8 = 0 ∧
          (s.viaTlb s.launch (s.cur.sget x.toNat).toNat 8 false).isSome ∧ s.noneOwn (fun e => s.touchesMem e (pa s) 8) ∧
          counterMet (counterFirst s (pa s)) (pa s) (s.cur.sget y.toNat))
        (fun s => (counterFirst s (pa s)).acquireCounter (pa s) (scopeOr 5 s.cur.run.sc)) with mods := mSC }

/-! ### Traps (R15 to R19) -/

/-- The state after a trap from user mode is taken (R16, R17): cause and code in TRAPCAUSE, TRAPPC, TRAPVAL and TRAPORG, supervisor
mode with its bank (s56 and s57 the region's base and length, t7 over the region), the handler's address; a NOPRE window closes and
the group stands in no queue. Every other register, the stack, the masks and memory are unchanged. -/
def entered (s : State) (cause code : Nat) (val tpc org : DWord) : State :=
  let c := s.core.setup
  { s with
    cur := { s.cur with
      trapCause := .ofNat 64 (code % 2 ^ 24 * 65536 + cause), trapPc := tpc, trapVal := val, trapOrg := org, sup := true
      bankS := mapSet 0 (mapSet 0 [] 56 (.ofNat 64 c.dataBase)) 57 (.ofNat 64 c.dataLen)
      bankT := { base := 0, frame := c.dataBase, limit := c.dataLen, rd := true, wr := true }
      pc := .ofNat 64 c.handler, run := .none, nopre := none, wait := .none, safe := false, fbuf := []
      pend := s.cur.pend.map (fun e => { e with kept := true }) }
    wg := { s.wg with joint := s.wg.joint.filter (fun x => x.1 ≠ s.cur.key.gid), claimQ := s.wg.claimQ.filter (· ≠ s.cur.key.gid) } }

/-- A trap of the instruction at the program counter, or of the first word of its run (R15, R30). -/
def trapped (s : State) (cause : Nat) (val : DWord) : State :=
  let first := s.cur.run.first.getD s.cur.pc
  entered s cause 0 val first first

/-- A group in user mode, no shadow, with nothing outstanding. -/
structure Plain (s : State) : Prop where
  live   : s.cur.live = true
  user   : s.cur.sup = false
  owner  : s.cur.key.shadow = false
  landed : s.cur.pend = []

/-- A word of one of the lane or group tables, as the checks of R30 see it: IMM use, accepted MOD fields, SX only with SAT, and
what else makes the word legal. -/
structure FormOf where
  imm   : ImmUse
  mods  : Nat
  sx    : Bool
  also  : State → Prop

/-- The tables of this file that give the words of R30's checks. -/
def formOf (i : Instr) : Option FormOf :=
  let lane := fun (x : LaneWord) => (⟨x.imm, x.mods, x.sx, x.also⟩ : FormOf)
  let group := fun (x : GroupWord) => (⟨x.imm, x.mods, x.sx, x.also⟩ : FormOf)
  ((((((((((intWord i).map lane).orElse fun _ => (intPairWord i).map lane).orElse fun _ => (logicWord i).map lane).orElse
    fun _ => (floatWord i).map lane).orElse fun _ => (convertWord i).map lane).orElse fun _ => (crossWord i).map lane).orElse
    fun _ => (uniWord i).map group).orElse fun _ => (systemWord i).map group).orElse fun _ => (jumpWord i).map group)

/-- User-mode words whose operands trap them, with the cause and TRAPVAL (R5, R6, R14, R71, R85, R181 to R183, R257, R266 to R281). -/
structure TrapWord where
  ctl   : Ctl
  imm   : ImmUse
  mods  : Nat
  when_ : State → Prop
  cause : Nat
  val   : State → DWord

def TrapWord.Does (i : Instr) (x : TrapWord) : Prop :=
  ∀ s : State, Issues s i x.imm x.mods false false false → wellFormed i = true → Plain s → s.cur.guard x.ctl = true → x.when_ s →
    exec i s = .next (trapped s x.cause (x.val s))

def wordVal (i : Instr) : DWord := .ofNat 64 ((encode i).getD 0)
def trapWord : Instr → List TrapWord
  | .eret c => [{ ctl := c, imm := .none, mods := 0, when_ := fun _ => True, cause := 1, val := fun _ => wordVal (.eret c) }]
  | .rdsr c d a => [
      { ctl := c, imm := .none, mods := 0, when_ := fun _ => 0x11 ≤ a.toNat, cause := 1, val := fun _ => wordVal (.rdsr c d a) },
      { ctl := c, imm := .none, mods := 0, when_ := fun s => (a.toNat < 3 ∨ a.toNat = 6) ∧ s.cur.count ≤ d.toNat, cause := 1
        val := fun _ => .ofNat 64 d.toNat }]
  | .wrsr c d a => [{ ctl := c, imm := .none, mods := 0, when_ := fun _ => d.toNat ≠ 0x0D, cause := 1, val := fun _ => wordVal (.wrsr c d a) }]
  | .brx c a => [
      { ctl := c, imm := .none, mods := 0, when_ := fun s => canonical (s.cur.sget a.toNat) = false, cause := 3, val := fun s => s.cur.sget a.toNat },
      { ctl := c, imm := .none, mods := 0, cause := 4, val := fun s => s.cur.sget a.toNat
        when_ := fun s => canonical (s.cur.sget a.toNat) = true ∧ (s.cur.sget a.toNat).toNat % 4 ≠ 0 }]
  | .ret c a => [
      { ctl := c, imm := .none, mods := 0, when_ := fun s => canonical (s.cur.sget a.toNat) = false, cause := 3, val := fun s => s.cur.sget a.toNat },
      { ctl := c, imm := .none, mods := 0, cause := 4, val := fun s => s.cur.sget a.toNat
        when_ := fun s => canonical (s.cur.sget a.toNat) = true ∧ (s.cur.sget a.toNat).toNat % 4 ≠ 0 }]
  | .braUniform c _ o => [{ ctl := c, imm := .none, mods := 0, when_ := fun s => canonical (branchAt s o.toInt) = false, cause := 3
                            val := fun s => branchAt s o.toInt }]
  | .loop c d o => [{ ctl := c, imm := .takes, mods := 0, cause := 3, val := fun s => branchAt s (s.imm9 o)
                      when_ := fun s => s.cur.sget d.toNat - 1 ≠ 0 ∧ canonical (branchAt s (s.imm9 o)) = false }]
  | .give c b => [
      { ctl := c, imm := .none, mods := 0, when_ := fun s => s.compat = true, cause := 1, val := fun _ => wordVal (.give c b) },
      { ctl := c, imm := .none, mods := 0, when_ := fun s => s.compat = false ∧ s.cur.count < 8 * b.toNat + 8, cause := 1
        val := fun s => .ofNat 64 s.cur.count }]
  | .claim c b => [{ ctl := c, imm := .none, mods := 0, when_ := fun s => s.compat = true, cause := 1, val := fun _ => wordVal (.claim c b) }]
  | .slot c _ _ k => [{ ctl := c, imm := .none, mods := 0, when_ := fun s => (s.wg.kern.bufs.getD k.toNat (0, 0)).1 = 0, cause := 1
                        val := fun _ => .ofNat 64 k.toNat }]
  | .chpoll c _ ch k => [{ ctl := c, imm := .none, mods := 0, when_ := fun s => chanOf s k.toNat ch.toNat = none, cause := 1
                           val := fun _ => .ofNat 64 ch.toNat }]
  | .chsend c x ch => [{ ctl := c, imm := .none, mods := 0, when_ := fun s => x.toNat < s.cur.count ∧ chanOf s 1 ch.toNat = none, cause := 1
                         val := fun _ => .ofNat 64 ch.toNat }]
  | .chrecv c _ x ch => [{ ctl := c, imm := .none, mods := 0, when_ := fun s => x.toNat < s.cur.count ∧ chanOf s 0 ch.toNat = none, cause := 1
                           val := fun _ => .ofNat 64 ch.toNat }]
  | .stepend c => [{ ctl := c, imm := .none, mods := 0, when_ := fun s => s.launch.paced = false, cause := 1, val := fun _ => wordVal (.stepend c) }]
  | .ldstep c l x y k => [{ ctl := c, imm := .none, mods := 0, when_ := fun s => s.launch.paced = false, cause := 1
                            val := fun _ => wordVal (.ldstep c l x y k) }]
  | .waitge c x _ => [{ ctl := c, imm := .none, mods := mSC, when_ := fun s => (s.cur.sget x.toNat).toNat % 8 ≠ 0, cause := 4
                        val := fun s => s.cur.sget x.toNat }]
  | .launch c _ x => [{ ctl := c, imm := .none, mods := 0, when_ := fun s => (s.cur.sget x.toNat).toNat % 128 ≠ 0, cause := 4
                        val := fun s => s.cur.sget x.toNat }]
  | .npost c _ x y => [
      { ctl := c, imm := .none, mods := 0, when_ := fun s => (s.cur.sget x.toNat).toNat % 32 ≠ 0, cause := 4, val := fun s => s.cur.sget x.toNat },
      { ctl := c, imm := .none, mods := 0, cause := 4, val := fun s => s.cur.sget y.toNat
        when_ := fun s => (s.cur.sget x.toNat).toNat % 32 = 0 ∧ (s.cur.sget y.toNat).toNat % 8 ≠ 0 }]
  | .rets c _ y => [{ ctl := c, imm := .none, mods := 0, when_ := fun s => 2 ^ 30 ≤ (s.cur.sget y.toNat).toNat, cause := 1
                      val := fun s => s.cur.sget y.toNat }]
  | .stk c _ t o w => [{ ctl := c, imm := .takes, mods := mCP + (if w.toNat = 3 then mNS else 0), cause := 4
                         val := fun s => (s.cur.tget t.toNat).base + (s.cur.sget o.toNat + s.cur.run.displacement)
                         when_ := fun s => ((s.cur.tget t.toNat).base + (s.cur.sget o.toNat + s.cur.run.displacement)).toNat %
                           (widthOf s.cur.run w.toNat).bytes ≠ 0 }]
  | _ => []

/-- Words that trap ILLEGAL in supervisor mode (R131, R264), with their IMM use and accepted MOD fields. -/
def userOnly : Instr → Option (Ctl × ImmUse × Nat)
  | .span c _ => some (c, .none, 0)
  | .give c _ => some (c, .none, 0)
  | .claim c _ => some (c, .none, 0)
  | .copy c _ _ _ => some (c, .takes, 0)
  | .waitge c _ _ => some (c, .none, mSC)
  | .mmaB8 c _ _ _ _ => some (c, .none, 0)
  | .mmaF c _ _ _ _ => some (c, .none, 0)
  | .mscl c _ _ => some (c, .none, 0)
  | .mzero c _ => some (c, .none, 0)
  | .mwait c _ _ => some (c, .none, 0)
  | .chsend c _ _ => some (c, .none, 0)
  | .chrecv c _ _ _ => some (c, .none, 0)
  | .chpoll c _ _ _ => some (c, .none, 0)
  | .ldstep c _ _ _ _ => some (c, .none, 0)
  | .rets c _ _ => some (c, .none, 0)
  | .launch c _ _ => some (c, .none, 0)
  | .stepend c => some (c, .none, 0)
  | .slot c _ _ _ => some (c, .none, 0)
  | .npost c _ _ _ => some (c, .none, 0)
  | _ => none

/-- The current group belongs to the current workgroup, which runs for the current launch, and every launch has its own number. -/
structure Placed (s : State) : Prop where
  wg      : s.wg.uid = s.cur.key.wg
  some_   : s.wg.uid ≠ 0
  status  : s.wg.status = .running
  launch  : s.wg.launch = s.launch.uid
  running : s.launch.state = .running

/-- LAUNCH, LDSTEP and the frame-image words where they need not wait (R254, R260, R276, R278, R280). -/
def launchWord : Instr → Option GroupWord
  | .launch c la x =>
    let pa := fun (s : State) => (s.viaTlb s.launch (s.cur.sget x.toNat).toNat 128 false).getD 0
    -- c7 is a result with the window of the word
    let gives := fun (s : State) (b : Bool) => leaves s [outstanding s none la.toNat (.pred 7 b)]
    some (g0 c false false []
      (fun s => userMode s ∧ (s.cur.sget x.toNat).toNat % 128 = 0 ∧ (s.viaTlb s.launch (s.cur.sget x.toNat).toNat 128 false).isSome)
      (fun s =>
        let d := s.wg.core / 64
        if 1024 ≤ (s.die d).pool then gives (s.setCur (s.cur.lastRef 0x50)) false
        else if 8 ≤ s.launch.depth then gives (s.setCur (s.cur.lastRef 0x51)) false
        else
          let r := (s.publish 5).gread (pa s) 128
          let u := r.2
          let l : Launch := { Launch.absent with
            uid := u.nextId, packet := (s.cur.sget x.toNat).toNat, ctx := u.launch.ctx
            words := (List.range 16).map (fun k => .ofNat 64 (bytesNat ((r.1.drop (8 * k)).take 8)))
            depth := u.launch.depth + 1, parent := some u.launch.uid, state := .pooled, queuedAt := u.time.now, know := u.cur.known
            poolDie := some d, pools := [{ die := d, since := u.time.now, held := true }] }
          gives { u with
            nextId := u.nextId + 1, launches := u.launches ++ [l]
            dies := mapSet .idle u.dies d { u.die d with pool := (u.die d).pool + 1 } } true))
  | .ldstep c l x y k =>
    let m := fun (s : State) => (s.cur.sget (2 * y.toNat)).toNat
    let core := fun (s : State) => (s.cur.sget (2 * y.toNat + 1)).toNat
    let pace := fun (s : State) => s.paceOf (core s) s.launch.uid
    let buf := fun (s : State) => s.wg.kern.bufs.getD k.toNat (0, 0)
    some (g0 c false false []
      (fun s => userMode s ∧ s.launch.paced = true ∧ s.regBad (x.toNat, 1) = false ∧ (buf s).1 ≠ 0 ∧
        s.poisonReg s.cur.lanesOn [(x.toNat, 1)] = none ∧ (∀ j ∈ s.served s.cur.lanesOn, s.laneBad [(x.toNat, 1)] j = false) ∧
        (∀ j ∈ s.served s.cur.lanesOn, (s.cur.vget j x.toNat).toNat % 4 = 0 ∧ (s.cur.vget j x.toNat).toNat < (buf s).2) ∧
        ((pace s).finished = true ∨ m s < (pace s).ended) ∧ (pace s).step < m s + (buf s).1 ∧
        s.linkWaits (dieOf s.wg.core) (dieOf (core s)) = false ∧
        ∃ w, s.stepHolder (core s) = some w ∧ ∀ off, s.wgPadPoison w.uid off 4 = false)
      (fun s => match s.stepHolder (core s) with
        | none => s
        | some w =>
          let u := (s.serveAllReds.acquire (s.endOf (core s) s.launch.uid (m s))).snapshot 5
          leaves u ((s.served s.cur.lanesOn).map (fun j =>
            outstanding u (some j) l.toNat (.word x.toNat (.ofNat 32 (bytesNat (s.wgPadRead w.uid
                (w.kern.slotAt k.toNat (m s) + (s.cur.vget j x.toNat).toNat) 4))))))))
  | .accstFrameImage c x =>
    let i := fun (s : State) => fld (s.cur.sget x.toNat).toNat 58 6
    let pa := fun (s : State) => fld (s.cur.sget x.toNat).toNat 0 48
    some (g0 c false false []
      (fun s => s.cur.sup = true ∧ fld (s.cur.sget x.toNat).toNat 48 10 = 0 ∧ pa s % 128 = 0 ∧ s.installed (pa s) 81984 = true ∧
        ∀ o, (s.core.frame (i s)).owner = some o → ∀ m ∈ s.core.mq, ¬(m.wg = o.wg ∧ m.quad = o.quad ∧ m.tile = o.tile))
      (fun s => if (s.core.frame (i s)).owner = none then s else
        { s.writeImage (pa s) (s.core.frame (i s)) with
          core := s.core.setFrame (i s) { Frame.free with held := (s.core.frame (i s)).held } }))
  | .accldFrameImage c x =>
    let i := fun (s : State) => fld (s.cur.sget x.toNat).toNat 58 6
    let pa := fun (s : State) => fld (s.cur.sget x.toNat).toNat 0 48
    some (g0 c false false []
      (fun s => s.cur.sup = true ∧ fld (s.cur.sget x.toNat).toNat 48 10 = 0 ∧ pa s % 128 = 0 ∧ s.installed (pa s) 81984 = true ∧
        (s.imageOwner (pa s)).isSome ∧ (s.core.frame (i s)).owner = none)
      (fun s => match s.imageOwner (pa s) with
        | none => s
        | some (o, nb) =>
          let at_ := fun (k : Nat) => (BitVec.ofNat 32 (s.natAt (pa s + 4 * k) 4) : Word)
          let f : Frame := { Frame.free with
            owner := some o, acc := tabulate 4096 at_, planes := tabulate 16384 (fun k => at_ (4096 + k)), nb := nb
            bad := (List.range 20480).filter (fun k => s.memBad.contains ((pa s + 4 * k) / 8)) }
          (State.onWg { s with core := s.core.setFrame (i s) f } o.wg (fun w => { w with tiles := w.tiles.map (fun t =>
            if t.quad = o.quad ∧ t.tile = o.tile then { t with spilled := false, frame := i s, spillAt := 0 } else t) })).freeArea o.wg))
  | _ => none

/-- The words of the lane tables, and those of the group tables that go on in sequence. -/
def laneTable (i : Instr) : Option LaneWord :=
  (((((intWord i).orElse fun _ => intPairWord i).orElse fun _ => logicWord i).orElse fun _ => floatWord i).orElse
    fun _ => convertWord i).orElse fun _ => crossWord i

def groupTable (i : Instr) : Option GroupWord :=
  (((((((((voteWord i).orElse fun _ => uniWord i).orElse fun _ => systemWord i).orElse fun _ => readWord i).orElse
    fun _ => writeWord i).orElse fun _ => uniLoad i).orElse fun _ => uniStore i).orElse fun _ => fenceWord i).orElse
    fun _ => queryWord i).orElse fun _ => (engineWord i).orElse fun _ => launchWord i

/-- The first operand that breaks R5 or R6: a pair or quad at a register that is no multiple of its size, or a register at or past the
group's count; a source that names an operand queue names no register (R241). -/
def firstBad (s : State) (dsts srcs : List VReg) : Option VReg :=
  (dsts ++ srcs.filter (fun r => !(s.wg.kern.slice.isSome && 56 ≤ r.1 && r.2 == 1))).find?
    (fun r => r.1 % r.2 != 0 || s.cur.count < r.1 + r.2)

/-- A word of one of the tables would complete in sequence, were its next address canonical: its table's conditions hold. -/
inductive Completes (i : Instr) (s : State) : Prop
  | lane (x : LaneWord) (table : laneTable i = some x) (clears : Clears s i x.imm x.mods x.sx x.slice true) (also : x.also s)
      (ready : s.lanesReady (s.cur.on x.ctl) x.dsts (x.srcs s))
  | group (x : GroupWord) (table : groupTable i = some x) (clears : Clears s i x.imm x.mods x.sx x.slice x.held) (also : x.also s)
      (ready : x.acts s = true → x.ready s)
  | load (x : LaneLoad) (table : laneLoad i = some x) (clears : Clears s i .takes x.mods false x.slice false)
      (ready : s.lanesReady (s.cur.on x.ctl) (x.dsts s) x.srcs) (split : x.split s = none)
      (route : ∀ j ∈ s.served (s.cur.on x.ctl), ∃ a, x.route s j = .to a)
  | store (x : LaneStore) (table : laneStore i = some x) (clears : Clears s i .takes x.mods false false false)
      (ready : s.lanesReady (s.cur.on x.ctl) [] x.srcs) (split : x.split s = none) (reds : s.noReds) (late : x.late s = false)
      (route : ∀ j ∈ s.served (s.cur.on x.ctl), ∃ a, x.route s j = .to a ∧ s.noneOwn (fun e => x.after s e a))
  | atom (x : AtomWord) (table : atomWord i = some x)
      (clears : Clears s i .takes (if x.ret then mORD + mSC else 0x800 + mSC) false false false)
      (ready : s.lanesReady (s.cur.on x.ctl) x.dsts x.srcs)
      (split : s.pairMismatch (s.cur.on x.ctl)
        (fun j => [(s.laneX x.o j).toNat, (x.xOf s j).toNat, if x.op = .cas then (x.yOf s j).toNat else 0]) = none)
      (route : ∀ j ∈ s.served (s.cur.on x.ctl), ∃ a, s.route x.t (s.laneX x.o j) x.bytes true = .to a ∧
        s.noneOwn (fun e => s.touchesMem e a x.bytes))

/-- The words that a quad issues jointly (R234, R269): the command, and whether its x must fit 32 bits. -/
structure JointWord where
  ctl  : Ctl
  cmd  : State → MatWord
  low  : Bool

def jointWord : Instr → Option JointWord
  | .mmaB8 c a x f k => some ⟨c, fun s => { major := 0x37, fn := a.toNat, y := f.toNat, k := k.toNat, x := s.cur.sget x.toNat }, false⟩
  | .mmaF c a x f k => some ⟨c, fun s => { major := 0x38, fn := a.toNat, y := 0x20 + f.toNat, k := k.toNat, x := s.cur.sget x.toNat }, false⟩
  | .mscl c x a => some ⟨c, fun s => { major := 0x39, fn := 0, y := a.toNat, k := 0, x := s.cur.sget x.toNat }, false⟩
  | .mzero c a => some ⟨c, fun _ => { major := 0x39, fn := 1, y := a.toNat, k := 0, x := 0 }, false⟩
  | .accld c x a => some ⟨c, fun s => { major := 0x39, fn := 2, y := a.toNat, k := 0, x := s.cur.sget x.toNat }, true⟩
  | .accst c x a => some ⟨c, fun s => { major := 0x39, fn := 3, y := a.toNat, k := 0, x := s.cur.sget x.toNat }, true⟩
  | _ => none

/-- The state in which a joint issue of the current group stands: its reductions performed (R204), it waits for its quad, its command
recorded. -/
def jointWaiting (s0 : State) (c : Ctl) (m : MatWord) : State :=
  let s := s0.serveAllReds
  { s with
    cur := { s.cur with wait := .joint (s.cur.key.gid / 4), waitSp := c.sp, safe := c.sp }
    wg := { s.wg with joint := s.wg.joint.filter (fun x => x.1 ≠ s.cur.key.gid) ++ [(s.cur.key.gid, m)] } }

/-- The other three groups of the quad have issued the same command, it is well aligned and inside the allocation, no foreign frame
stands in the engine, its tile holds a frame and the quad has room in the queue (R236, R237, R269). -/
structure JointReady (s : State) (x : JointWord) : Prop where
  others  : (s.wg.joint.filter (fun e => e.1 / 4 == s.cur.key.gid / 4 && e.1 != s.cur.key.gid)).length = 3
  same    : ∀ e ∈ s.wg.joint, e.1 / 4 = s.cur.key.gid / 4 → e.1 ≠ s.cur.key.gid → e.2 = x.cmd s
  areas   : ∀ a ∈ (x.cmd s).areas (s.nbAt s.wg.core s.wg.uid (s.cur.key.gid / 4) (x.cmd s).tile), a.1 % 64 = 0 ∧ (a.2 ≠ 0 → a.1 + a.2 ≤ s.wg.size)
  own     : s.foreignFrames s.wg.core s.launch.ctx = []
  kept    : ∀ t ∈ s.wg.tiles, t.quad = s.cur.key.gid / 4 → t.tile = (x.cmd s).tile → t.spilled = false
  frame   : (s.core.frameOf s.wg.uid (s.cur.key.gid / 4) (x.cmd s).tile).isSome
  room    : (s.core.mq.filter (fun m => m.wg == s.wg.uid && m.quad == s.cur.key.gid / 4)).length < 8

/-- Words that wait where they stand, with what they wait for: the word issues again (R124, R228, R237, R244, R254, R267, R273, R281). -/
structure WaitWord where
  ctl   : Ctl
  imm   : ImmUse
  mods  : Nat
  when_ : State → Prop
  wait  : State → Wait

def WaitWord.Does (i : Instr) (x : WaitWord) : Prop :=
  ∀ s : State, Issues s i x.imm x.mods false false false → wellFormed i = true → s.cur.sup = false → s.cur.guard x.ctl = true → x.when_ s →
    exec i s = .next (s.setCur { s.cur with wait := x.wait s, waitSp := x.ctl.sp, safe := x.ctl.sp })

def waitWord : Instr → Option WaitWord
  | .copy c _ x y =>
    let cmd := fun (s : State) => copyCmd (s.cur.sget x.toNat) (s.cur.sget (x.toNat + 1)) (s.cur.sget (x.toNat + 2)) (s.cur.sget (x.toNat + 3))
    some { ctl := c, imm := .takes, mods := 0, wait := fun _ => .copySlot
           when_ := fun s => (cmd s).legal = true ∧ (cmd s).dkind ≠ 4 ∧ (cmd s).misaligned (s.cur.sget y.toNat) = none ∧
             (s.viaTlb s.launch (s.cur.sget y.toNat).toNat 8 true).isSome ∧
             16 ≤ s.copiesOn s.wg.core }
  | .mwait c w a => some { ctl := c, imm := .none, mods := 0
                           wait := fun s => .matrix s.wg.uid (s.cur.key.gid / 4) (if w = 1 then none else some a.toNat)
                           when_ := fun s => ∃ m ∈ s.core.mq, m.wg = s.wg.uid ∧ m.quad = s.cur.key.gid / 4 ∧ (w = 1 ∨ m.tile = a.toNat) }
  | .chsend c x ch => some { ctl := c, imm := .none, mods := 0
                             wait := fun s => .send ch.toNat s.time.now
                             when_ := fun s => s.cur.wait = .none ∧ s.regBad (x.toNat, 1) = false ∧
                               s.poisonReg ((List.range s.cur.width).filter (fun j => (s.cur.lane j).thread.isSome)) [(x.toNat, 1)] = none ∧
                               s.sendMismatch x.toNat = none ∧ ∃ d, chanOf s 1 ch.toNat = some d ∧ d.room (entryCount s) = false }
  | .chrecv c _ x ch => some { ctl := c, imm := .none, mods := 0, wait := fun _ => .receive ch.toNat
                               when_ := fun s => s.regBad (x.toNat, 1) = false ∧ ∃ d, chanOf s 0 ch.toNat = some d ∧
                                 d.fifo.length + (if d.transit = [] then d.toy.length else 0) < entryCount s }
  | .ldstep c _ x y k => some { ctl := c, imm := .none, mods := 0
                                wait := fun s => .step (s.cur.sget (2 * y.toNat + 1)).toNat (s.cur.sget (2 * y.toNat)).toNat
                                when_ := fun s => s.launch.paced = true ∧ s.regBad (x.toNat, 1) = false ∧
                                  (s.wg.kern.bufs.getD k.toNat (0, 0)).1 ≠ 0 ∧
                                  (∀ j ∈ s.served s.cur.lanesOn, s.laneBad [(x.toNat, 1)] j = false) ∧
                                  (∀ j ∈ s.served s.cur.lanesOn, (s.cur.vget j x.toNat).toNat % 4 = 0 ∧
                                    (s.cur.vget j x.toNat).toNat < (s.wg.kern.bufs.getD k.toNat (0, 0)).2) ∧
                                  (s.stepHolder (s.cur.sget (2 * y.toNat + 1)).toNat).isSome ∧
                                  ((s.paceOf (s.cur.sget (2 * y.toNat + 1)).toNat s.launch.uid).finished = false ∧
                                    (s.paceOf (s.cur.sget (2 * y.toNat + 1)).toNat s.launch.uid).ended ≤ (s.cur.sget (2 * y.toNat)).toNat ∨
                                   s.linkWaits (dieOf s.wg.core) (dieOf (s.cur.sget (2 * y.toNat + 1)).toNat) = true) }
  | _ => none

/-! ### Operations in the spec's words -/

/-- A word of one of the integer tables completes as its table says. -/
def intDoes (i : Instr) : Prop :=
  (∀ x, intWord i = some x → x.Does i) ∧ (∀ x, intPairWord i = some x → x.Does i) ∧ (∀ x, logicWord i = some x → x.Does i) ∧
    ∀ x, uniWord i = some x → x.Does i

/-- The smallest and largest signed integers of w bits. -/
def lowest (w : Nat) : Int := -(2 ^ (w - 1))
def highest (w : Nat) : Int := 2 ^ (w - 1) - 1

/-- R57 for one width. -/
structure DivisionRule (w : Nat) : Prop where
  quoS : ∀ (r : Run) (x y : BitVec w), y.toInt ≠ 0 → ¬(x.toInt = lowest w ∧ y.toInt = -1) → (divS r x y).toInt = x.toInt.tdiv y.toInt
  quoN : ∀ (x y : BitVec w), y.toNat ≠ 0 → (divN x y).toNat = x.toNat / y.toNat
  restS : ∀ (x y : BitVec w), y.toInt ≠ 0 → (remS x y).toInt = x.toInt - x.toInt.tdiv y.toInt * y.toInt
  restN : ∀ (x y : BitVec w), y.toNat ≠ 0 → (remN x y).toNat = x.toNat - x.toNat / y.toNat * y.toNat
  sign  : ∀ (x y : BitVec w), y.toInt ≠ 0 → (remS x y).toInt ≠ 0 → ((remS x y).toInt < 0 ↔ x.toInt < 0)
  byZero : ∀ (r : Run) (x : BitVec w), (divN x 0).toNat = 2 ^ w - 1 ∧ (divS r x 0).toInt = lowest w ∧ remS x 0 = x ∧ remN x 0 = x
  limit : ∀ (r : Run) (x y : BitVec w), x.toInt = lowest w → y.toInt = -1 →
    (divS r x y).toInt = (if r.sat then highest w else lowest w) ∧ remS x y = 0

/-- R56 for one width: exact integers, unsigned with SAT = 0, signed under SAT and SX, reduced or clamped once. -/
structure ArithRule (w : Nat) : Prop where
  wraps : ∀ (r : Run) (x y z : BitVec w), r.sat = false →
    (addOp r x y).toNat = (x.toNat + y.toNat) % 2 ^ w ∧ (subOp r x y).toNat = (2 ^ w + x.toNat - y.toNat) % 2 ^ w ∧
    (mulOp r x y).toNat = x.toNat * y.toNat % 2 ^ w ∧ (madOp r x y z).toNat = (x.toNat * y.toNat + z.toNat) % 2 ^ w ∧
    (absOp r x).toNat = x.toInt.natAbs % 2 ^ w ∧ (negOp r x).toNat = (2 ^ w - x.toNat) % 2 ^ w
  satN  : ∀ (r : Run) (x y z : BitVec w), r.sat = true → r.sx = false →
    (addOp r x y).toNat = min (x.toNat + y.toNat) (2 ^ w - 1) ∧ (subOp r x y).toNat = x.toNat - y.toNat ∧
    (mulOp r x y).toNat = min (x.toNat * y.toNat) (2 ^ w - 1) ∧ (madOp r x y z).toNat = min (x.toNat * y.toNat + z.toNat) (2 ^ w - 1)
  satS  : ∀ (r : Run) (x y z : BitVec w), r.sat = true → r.sx = true →
    (addOp r x y).toInt = max (lowest w) (min (highest w) (x.toInt + y.toInt)) ∧
    (subOp r x y).toInt = max (lowest w) (min (highest w) (x.toInt - y.toInt)) ∧
    (mulOp r x y).toInt = max (lowest w) (min (highest w) (x.toInt * y.toInt)) ∧
    (madOp r x y z).toInt = max (lowest w) (min (highest w) (x.toInt * y.toInt + z.toInt))
  satU  : ∀ (r : Run) (x : BitVec w), r.sat = true →
    (absOp r x).toInt = min (highest w) x.toInt.natAbs ∧ (negOp r x).toInt = min (highest w) (-x.toInt)
  upper : ∀ (x y : BitVec w), (mulhS x y).toInt = x.toInt * y.toInt / 2 ^ w ∧ (mulhN x y).toNat = x.toNat * y.toNat / 2 ^ w
  order : ∀ (x y : BitVec w), (minS x y).toInt = min x.toInt y.toInt ∧ (maxS x y).toInt = max x.toInt y.toInt ∧
    (minN x y).toNat = min x.toNat y.toNat ∧ (maxN x y).toNat = max x.toNat y.toNat
  scale : ∀ (k : Nat) (x y : BitVec w), k < 8 → (leaOp k x y).toNat = (x.toNat + y.toNat * 2 ^ k) % 2 ^ w

/-- R61 for one width, bit by bit: n is the low 32 bits of b. -/
structure ShiftRule (w : Nat) : Prop where
  logic : ∀ (x y : BitVec w) (k : Nat), k < w →
    (andOp x y).getLsbD k = (x.getLsbD k && y.getLsbD k) ∧ (orOp x y).getLsbD k = (x.getLsbD k || y.getLsbD k) ∧
    (xorOp x y).getLsbD k = (x.getLsbD k ^^ y.getLsbD k) ∧ (andnOp x y).getLsbD k = (x.getLsbD k && !y.getLsbD k) ∧
    (ornOp x y).getLsbD k = (x.getLsbD k || !y.getLsbD k)
  left  : ∀ (x y : BitVec w) (k : Nat), k < w → (shlOp x y).getLsbD k = (decide (y.toNat % 2 ^ 32 ≤ k) && x.getLsbD (k - y.toNat % 2 ^ 32))
  right : ∀ (x y : BitVec w) (k : Nat), k < w → (shrlOp x y).getLsbD k = x.getLsbD (k + y.toNat % 2 ^ 32)
  arith : ∀ (x y : BitVec w) (k : Nat), k < w → (shraOp x y).getLsbD k = x.getLsbD (min (k + y.toNat % 2 ^ 32) (w - 1))

/-- R62 and R63 for one width. -/
structure BitRule (w : Nat) : Prop where
  turn  : ∀ (x y : BitVec w) (k : Nat), k < w → (rotlOp x y).getLsbD ((k + y.toNat % 2 ^ 32) % w) = x.getLsbD k
  lead  : ∀ (x : BitVec w), ∃ n, (clzOp x).toNat = n ∧ n ≤ w ∧ (∀ k, k < n → x.getLsbD (w - 1 - k) = false) ∧
    (n < w → x.getLsbD (w - 1 - n) = true)
  trail : ∀ (x : BitVec w), ∃ n, (ctzOp x).toNat = n ∧ n ≤ w ∧ (∀ k, k < n → x.getLsbD k = false) ∧ (n < w → x.getLsbD n = true)
  ones  : ∀ (x : BitVec w), (popcOp x).toNat = ((List.range w).filter (fun k => x.getLsbD k)).length
  back  : ∀ (x : BitVec w) (k : Nat), k < w → (brevOp x).getLsbD (w - 1 - k) = x.getLsbD k
  field : ∀ (sx : Bool) (x y : BitVec w) (k : Nat), k < w →
    let pos := y.toNat % 256
    let len := min (y.toNat / 256 % 256) w
    (bfxOp sx x y).getLsbD k = if len = 0 ∨ w ≤ pos then false
      else if k < len then x.getLsbD (pos + k) else (sx && x.getLsbD (pos + len - 1))

/-- The machine at the next move "the current group issues", with its parts in place, nothing outstanding, and its next word w at
the physical place pa of its program counter, which no buffer or cache line holds (R13, R124, R224). -/
structure IssuesNext (s : State) (ms : List Move) (pa : Nat) (w : Word) : Prop where
  agenda : s.agenda = .issue s.cur.key :: ms
  live   : s.cur.live = true
  owner  : s.cur.key.shadow = false
  wait   : s.cur.wait = .none
  landed : s.cur.pend = []
  stack  : s.cur.stack = []
  parked : s.cur.parked = false
  fault  : s.cur.fault = none
  asked  : s.wg.asked = false
  compat : s.compat = false
  wg     : s.wg.uid = s.cur.key.wg
  core   : s.core.id = s.wg.core
  launch : s.launch.uid = s.wg.launch
  shadow : ∀ g ∈ s.groups, g.key ≠ { s.cur.key with shadow := true }
  place  : s.fetchPlace = some pa
  fbuf   : ∀ l ∈ s.cur.fbuf, l.num ≠ pa / 64
  icache : ∀ l ∈ s.core.icache, l.num ≠ pa / 64
  clean  : s.memBad = []
  bytes  : ∀ k < 4, (s.byte (pa / 4 * 4 + k)).toNat = w.toNat / 256 ^ k % 256

/-- That state once the word has been fetched: its line of 64 bytes is in the fetch buffer and the instruction cache, which holds 1,024
lines and drops the oldest (log entry 32). -/
def fetched (s : State) (ms : List Move) (pa : Nat) : State :=
  let line : Line := { num := pa / 64, words := (List.range 16).map (fun k => .ofNat 32 (s.natAt (4 * (16 * (pa / 64) + k)) 4)) }
  { s with
    agenda := ms
    cur := { s.cur with fbuf := line :: s.cur.fbuf.take 3 }
    core := { s.core with
      icache := line :: (s.core.icache.filter (fun x => x.num ≠ pa / 64)).take 1023 } }

/-- What a turn of the current group leaves: its quarter has issued from its slot last, unless the word could not issue, for an operand queue
was empty or what it must come after is outstanding (R124). -/
def turned (s : State) (o : Out) : Out :=
  match o with
  | .next t =>
    if (t.findGroup s.cur.key).any (fun g => match g.wait with | .queue _ _ => true | .again _ => true | _ => false) then .next t
    else .next (t.onCore s.core.id (fun c => { c with issued := mapSet 0 c.issued (s.cur.key.gid % 4) (s.cur.slot + 1) }))
  | o => o

/-- The mode in which the words of an instruction mean it: the words of ACCLD and ACCST are frame images in supervisor mode (R276). -/
def modeFits (i : Instr) (sup : Bool) : Prop :=
  match i with
  | .accld _ _ _ => sup = false
  | .accst _ _ _ => sup = false
  | .accldFrameImage _ _ => sup = true
  | .accstFrameImage _ _ => sup = true
  | _ => True

/-! ### Events -/

/-- The current group is the only one of the machine, in the workgroup, core and launch it belongs to; nothing is traced. -/
structure Alone (s : State) : Prop where
  live   : s.cur.live = true
  owner  : s.cur.key.shadow = false
  groups : s.groups = []
  wgs    : s.wgs = []
  core   : s.core.id = s.wg.core
  cores  : s.cores = []
  traces : s.traces = []
  placed : Placed s

/-- Memory at rest: every write stands in the L2 with no other version of its word, and no group has unpublished bytes. -/
structure Settled (s : State) : Prop where
  hist  : s.hist = []
  dirty : ∀ g ∈ s.allGroups, g.dirty = []

/-- What the groups of a quad of the current workgroup know together: the order of a command behind its four issues (R221). -/
def quadKnown (s : State) (quad : Nat) : Know :=
  ((s.groupsOf s.wg.uid).filter (fun g => g.key.gid / 4 == quad)).foldl (fun (k : Know) g => k.join g.known) []

/-- The oldest outstanding result of the current group is the first of its list; nothing of it is done yet. -/
structure First (s : State) (e : Pend) (es : List Pend) : Prop where
  live : s.cur.live = true
  pend : s.cur.pend = e :: es
  once : e ∉ es
  open_ : ∀ f ∈ e :: es, f.act ≠ .ended

/-- Nothing issued before holds it back, no link on its way retrains and no reduction of the group comes before it (R185, R204, R210, R334). -/
structure Lands (s : State) (e : Pend) (es : List Pend) : Prop extends First s e es where
  ahead : s.heldBack e = false
  link  : s.crosses e.act = false
  reds  : s.noReds

/-- Memory at rest for the current group: no write under the ordering rules, no store of its own unpublished (R213). -/
structure Still (s : State) : Prop where
  compat : s.compat = false
  hist   : s.hist = []
  dirty  : s.cur.dirty = []
  whole  : s.cur.whole = []
  lost   : s.cur.dirtyBad = []

/-- What is left outstanding once a result is done: its window goes on until every lane of its instruction is (R26). -/
def restOf (s : State) (e : Pend) (es : List Pend) : List Pend :=
  if (es ++ (s.groups.filter (·.live)).flatMap (·.pend)).any (fun f => f.from_.num == e.from_.num && f.act != .ended)
  then { e with act := .ended } :: es else es

/-- The current group after the result has come. -/
def State.came (s : State) (g : Group) (e : Pend) (es : List Pend) : State := s.setCur { g with pend := restOf s e es }

/-- What a load returns: its bytes, whether one of its units is poisoned, the address of its POISON (of a scratchpad load the offset: log entry
65), its width and its register (R76, R78, R183, R189, R311, R318). -/
def loads (s : State) (a : PendAct) : Option (List Byte × Bool × DWord × Width × Nat) :=
  let bad := fun (us : List Nat) (a n : Nat) => us.any (fun u => a < 8 * u + 8 && 8 * u < a + n)
  match a with
  | .load pa w r => some (s.bytes pa w.bytes, bad s.memBad pa w.bytes, .ofNat 64 pa, w, r)
  | .pad off w r => some (s.wg.padRead off w.bytes, bad s.wg.padBad off w.bytes, .ofNat 64 off, w, r)
  | .push true pa w q => some (s.bytes pa w.bytes, bad s.memBad pa w.bytes, .ofNat 64 pa, w, q)
  | .push false off w q => some (s.wg.padRead off w.bytes, bad s.wg.padBad off w.bytes, .ofNat 64 off, w, q)
  | .window a w r => match s.windowAt s.launch (.ofNat 64 a) w.bytes false with
    | none => none
    | some (u, off) => some (s.wgPadRead u off w.bytes, s.wgPadPoison u off w.bytes, .ofNat 64 a, w, r)
  | _ => none

/-- The number in some bytes, low byte first, extended by a load's sign rule to n bits (R76). -/
def extended (w : Width) (bs : List Byte) (n : Nat) : BitVec n :=
  let x : BitVec (8 * w.bytes) := .ofNat _ (bytesNat bs)
  if w.signed then x.signExtend n else x.setWidth n

/-- The register writes of a load: 32 bits a lane register, 64 a uniform one (R76, R78). -/
def pieces (lane : Option Nat) (w : Width) (r : Nat) (bs : List Byte) : List PendAct :=
  match lane with
  | some _ => if w.bytes ≤ 4 then [.word r (extended w bs 32)]
    else (List.range (w.bytes / 4)).map (fun i => .word (r + i) (.ofNat 32 (bytesNat ((bs.drop (4 * i)).take 4))))
  | none => if w.bytes ≤ 8 then [.uword r (extended w bs 64)]
    else [.uword r (.ofNat 64 (bytesNat (bs.take 8))), .uword (r + 1) (.ofNat 64 (bytesNat (bs.drop 8)))]

/-- A register write of lane j, in a protected launch in the shadow lane behind it too (R202); of a uniform register; of a predicate. -/
def wrote (prot : Bool) (lane : Option Nat) (g : Group) (a : PendAct) : Group :=
  match a with
  | .word r x => if prot then (g.vset (lane.getD 0) r x).vset (lane.getD 0 + 1) r x else g.vset (lane.getD 0) r x
  | .uword r x => g.sset r x
  | .pred c b => g.cset c b
  | _ => g

/-- The new value of a location (R191 to R193). -/
def AtomRule (op : AtomOp) {w : Nat} (old x y new : BitVec w) : Prop :=
  match op with
  | .add => new.toNat = (old.toNat + x.toNat) % 2 ^ w
  | .exch => new = x
  | .cas => (old = x → new = y) ∧ (old ≠ x → new = old)
  | .and => ∀ k, new.getLsbD k = (old.getLsbD k && x.getLsbD k)
  | .or => ∀ k, new.getLsbD k = (old.getLsbD k || x.getLsbD k)
  | .xor => ∀ k, new.getLsbD k = (old.getLsbD k ^^ x.getLsbD k)
  | .minS => new.toInt = min old.toInt x.toInt
  | .maxS => new.toInt = max old.toInt x.toInt
  | .minN => new.toNat = min old.toNat x.toNat
  | .maxN => new.toNat = max old.toNat x.toNat
  | .fadd => new = .ofNat w (fAdd (if w = 32 then f32 else f64) .rne old.toNat x.toNat).1

/-- Results that come back and waits that end (R15, R20, R26, R79, R83, R86, R174, R183 to R188, R190 to R193, R199, R232, R241, R280). -/
structure LandingRules : Prop where
  /-- a result waits for a link that retrains, and a tagged step for what the group issued before on its word (R185, R334) -/
  held : ∀ (s : State) (e : Pend) (es : List Pend), First s e es →
    (s.crosses e.act = true → exec (.loadResultLanding s.cur.key 0) s = .next s) ∧
    ∀ g ∈ s.allGroups, g.key.wg = s.cur.key.wg → g.key.shadow = s.cur.key.shadow → ∀ f ∈ g.pend,
      f.from_.owner = e.from_.owner → f.from_.point = e.from_.point →
      (f.from_.num < e.from_.num ∨ (f.from_.num = e.from_.num ∧ f.from_.lane < e.from_.lane)) →
      ∀ op off d r op' off' d' r', e.act = .tag op off d r → f.act = .tag op' off' d' r' → off' < off + 4 → off < off' + 4 →
        exec (.tagStepPerformed s.cur.key 0) s = .next s ∧ exec (.loadResultLanding s.cur.key 0) s = .next s
  /-- a load returns its bytes; of several registers some may come later, within the window (R26) -/
  loaded : ∀ (s : State) (e : Pend) (es : List Pend) (bs : List Byte) (val : DWord) (w : Width) (r : Nat), Lands s e es → Still s →
    (∀ g a w q, e.act ≠ .push g a w q) → loads s e.act = some (bs, false, val, w, r) → 0 < w.bytes →
    ∃ now later : List PendAct, (now ++ later).Perm (pieces e.lane w r bs) ∧ ((pieces e.lane w r bs).length = 1 → later = []) ∧
      exec (.loadResultLanding s.cur.key 0) s = .next (
        let g := now.foldl (wrote s.prot e.lane) s.cur
        let t := { s with free := if (pieces e.lane w r bs).length = 1 then s.free else s.free + 1 }
        t.setCur { g with pend := if later = [] then restOf s e es else later.map (fun a => { e with act := a }) ++ es })
  /-- one that meets poison leaves its fault in the window (R319) -/
  poisoned : ∀ (s : State) (e : Pend) (es : List Pend) (bs : List Byte) (val : DWord) (w : Width) (r : Nat), Lands s e es → Still s →
    (∀ g a w q, e.act ≠ .push g a w q) → loads s e.act = some (bs, true, val, w, r) → 0 < w.bytes →
    exec (.loadResultLanding s.cur.key 0) s = .next (s.setCur { s.cur with pend := { e with act := .fault 10 val } :: es })
  /-- a window load outside every allocation ends the launch with LEASE (R172) -/
  outside : ∀ (s : State) (e : Pend) (es : List Pend) (a : Nat) (w : Width) (r : Nat), Lands s e es → Placed s → s.traces = [] → e.act = .window a w r →
    s.windowAt s.launch (.ofNat 64 a) w.bytes false = none →
    ∃ t, exec (.loadResultLanding s.cur.key 0) s = .next t ∧ t.launch.state = .ending ∧ t.launch.code = 5 ∧ t.cur.live = false ∧ t.mem = s.mem
  /-- a shadow's load goes to the end of its group's queue, in a protected launch the shadow lane's too; a full queue makes it wait -/
  pushed : ∀ (s : State) (e : Pend) (es : List Pend) (j q : Nat) (global : Bool) (a : Nat) (w : Width) (g : Group), Lands s e es → Still s →
    e.lane = some j → e.act = .push global a w q → 0 < w.bytes → w.bytes ≤ 4 → q < 8 → s.cur.key.shadow = true →
    s.findGroup { s.cur.key with shadow := false } = some g →
    (8 ≤ (g.queue j q).length → exec (.loadResultLanding s.cur.key 0) s = .next s) ∧
    ((g.queue j q).length < 8 → ∀ bs bad val, loads s e.act = some (bs, bad, val, w, q) → ∃ t, exec (.loadResultLanding s.cur.key 0) s = .next t ∧
      (bad = true → t = s.setCur { s.cur with pend := { e with act := .fault 10 val } :: es }) ∧
      (bad = false → t.cur.pend = restOf s e es ∧ t.mem = s.mem ∧ ∃ h, t.findGroup { s.cur.key with shadow := false } = some h ∧
        h.queue j q = g.queue j q ++ [extended w bs 32] ∧ (s.prot = true → h.queue (j + 1) q = g.queue (j + 1) q ++ [extended w bs 32]) ∧
        (∀ k p, p < 8 → p ≠ q ∨ (k ≠ j ∧ (s.prot = true → k ≠ j + 1)) → h.queue k p = g.queue k p) ∧ ∀ k, h.lane k = g.lane k))
  /-- a word on its way reaches its register: the old value of an ATOM, an entry received, a word read from a slot; and c7 of LAUNCH -/
  word : ∀ (s : State) (e : Pend) (es : List Pend), Lands s e es →
    ((∃ r x, e.act = .word r x) ∨ (∃ r x, e.act = .uword r x) ∨ ∃ c b, e.act = .pred c b) →
    exec (.loadResultLanding s.cur.key 0) s = .next (s.came (wrote s.prot e.lane s.cur e.act) e es)
  /-- XLATE writes its register: base, the frame that base maps to, the rights there, and the longest run of bytes with one mapping and one set
  of rights, of at most 2^48; zeros where base is not mapped or not leased. A base of 64 bits is the model's choice (log entry 60) -/
  xlate : ∀ (s : State) (e : Pend) (es : List Pend) (base : DWord) (k : Nat), Lands s e es → e.act = .xlate base k →
    (∀ f ∈ s.tables, f.ctx = s.launch.ctx → ∀ v, f.va ≤ v → v < f.va + f.size → s.leafOf s.launch.ctx v = some f) →
    let map := fun (i : Nat) => s.translate s.launch.ctx (base.toNat + i)
    let leased := fun (i : Nat) => s.launch.covers (base.toNat + i)
    let wr := fun (i : Nat) => s.launch.writable (base.toNat + i)
    ∃ x : TReg, exec (.loadResultLanding s.cur.key 0) s = .next (s.came (s.cur.tset k x) e es) ∧ x.base = base ∧
      (map 0 = none ∨ leased 0 = false → x.frame = 0 ∧ x.limit = 0 ∧ x.rd = false ∧ x.wr = false) ∧
      ∀ pa, map 0 = some pa → leased 0 = true → x.frame = pa ∧ x.rd = true ∧ x.wr = wr 0 ∧ 0 < x.limit ∧ x.limit ≤ 2 ^ 48 ∧
        (∀ i < x.limit, map i = some (pa + i) ∧ leased i = true ∧ wr i = wr 0) ∧
        (x.limit < 2 ^ 48 → map x.limit ≠ some (pa + x.limit) ∨ leased x.limit = false ∨ wr x.limit ≠ wr 0)
  /-- a take or a peek of a full word brings the datum, and the take leaves the word empty; of an empty word it waits, and a poisoned one makes
  it fault (R184, R319) -/
  take : ∀ (s : State) (e : Pend) (es : List Pend) (j off : Nat) (d : Word) (r : Nat) (op : TagOp), Lands s e es → e.lane = some j →
    (op = .take ∨ op = .peek) → e.act = .tag op off d r →
    (s.wg.full (off / 4) = false → exec (.tagStepPerformed s.cur.key 0) s = .next s) ∧
    (s.wg.full (off / 4) = true → s.wg.padPoison off 4 = true → exec (.tagStepPerformed s.cur.key 0) s =
      .next (s.setCur { s.cur with pend := { e with act := .fault 10 (.ofNat 64 off) } :: es })) ∧
    (s.wg.full (off / 4) = true → s.wg.padPoison off 4 = false → ∃ t, exec (.tagStepPerformed s.cur.key 0) s = .next t ∧
      t.cur.lanes = (wrote s.prot (some j) s.cur (.word r (.ofNat 32 (bytesNat (s.wg.padRead off 4))))).lanes ∧
      (∀ k, t.wg.full k = (s.wg.full k && !(op == .take && k == off / 4))) ∧ t.cur.pend = restOf s e es ∧ t.wg.pad = s.wg.pad ∧ t.mem = s.mem)
  /-- a fill of an empty word, and STF of any: the datum is in the word and the tag full; a fill of a full word waits -/
  fill : ∀ (s : State) (e : Pend) (es : List Pend) (off : Nat) (d : Word) (r : Nat) (op : TagOp), Lands s e es →
    (op = .fill ∨ op = .force) → e.act = .tag op off d r →
    (op = .fill → s.wg.full (off / 4) = true → exec (.tagStepPerformed s.cur.key 0) s = .next s) ∧
    (op = .force ∨ s.wg.full (off / 4) = false → ∃ t, exec (.tagStepPerformed s.cur.key 0) s = .next t ∧
      t.wg.padRead off 4 = natBytes d.toNat 4 ∧ (∀ a, a < off ∨ off + 4 ≤ a → t.wg.padRead a 1 = s.wg.padRead a 1) ∧
      (∀ k, t.wg.full k = (s.wg.full k || k == off / 4)) ∧ t.cur.pend = restOf s e es ∧ t.cur.lanes = s.cur.lanes ∧ t.mem = s.mem)
  /-- TAGS sets the tags of its range and touches no datum; TAGQ brings the tags of 32 words, the first in bit 0 (R187, R188) -/
  tags : ∀ (s : State) (e : Pend) (es : List Pend) (off n : Nat) (b : Bool), Lands s e es → e.act = .tags off n b →
    ∃ t, exec (.tagStepPerformed s.cur.key 0) s = .next t ∧ t.wg.pad = s.wg.pad ∧ t.cur.pend = restOf s e es ∧ t.cur.lanes = s.cur.lanes ∧ t.mem = s.mem ∧
      ∀ k, t.wg.full k = if off / 4 ≤ k ∧ k < off / 4 + n / 4 then b else s.wg.full k
  tagq : ∀ (s : State) (e : Pend) (es : List Pend) (j off r : Nat), Lands s e es → e.lane = some j → e.act = .tagq off r →
    ∃ t x, exec (.loadResultLanding s.cur.key 0) s = .next t ∧ (∀ i < 32, (x : Word).getLsbD i = s.wg.full (off / 4 + i)) ∧
      t.cur.lanes = (wrote s.prot (some j) s.cur (.word r x)).lanes ∧ t.cur.pend = restOf s e es ∧ t.wg.pad = s.wg.pad ∧ t.wg.tags = s.wg.tags ∧ t.mem = s.mem
  /-- FENCE.e: from now on what the group does makes the engines read, in the scratchpad, the group's own writes and theirs, and from .cl up, in
  memory, every write of the group (R199, R218) -/
  fenceE : ∀ (s : State) (e : Pend) (es : List Pend) (scope : Nat), Lands s e es → s.atomq = [] → s.compat = false → e.act = .fence scope →
    ∃ t, exec (.loadResultLanding s.cur.key 0) s = .next t ∧ t.cur.pend = restOf s e es ∧ t.wg.pad = s.wg.pad ∧
      (∀ k o os, mapGet [] s.wg.padOld k = o :: os → (o.by_ = none ∨ o.by_ = some s.owner) →
        t.wg.padChoices t.cur.known k = [.ofNat 32 (bytesNat (s.wg.padRead (4 * k) 4))]) ∧
      (3 ≤ scope → t.cur.dirty = [] ∧ ∀ h ∈ t.hist, ∀ v ∈ h.2.vers, v.owner = some s.owner → t.cur.known.covers v.syncs = true)
  /-- an ATOM or RED at its owner: the old value is on its way to the register, the new one is in the location, and no other byte changes;
  while a link on its way retrains, nothing happens (R334) -/
  atom : ∀ (s : State) (r : AtomReq), s.cur.live = true → s.groups = [] → s.atomq = [r] → r.from_ = s.cur.key → r.pa % r.bytes = 0 →
    s.memBad = [] → s.hist = [] → s.cur.dirty = [] →
    (s.atomWaits r = true → exec (.atomicServiceRequest r.id) s = .next s) ∧
    (s.atomWaits r = false → ∃ t, exec (.atomicServiceRequest r.id) s = .next t ∧ t.atomq = [] ∧
      (r.wide = false → AtomRule r.op (.ofNat 32 (s.natAt r.pa 4) : Word) (r.x.setWidth 32) (r.y.setWidth 32) (.ofNat 32 (t.natAt r.pa 4))) ∧
      (r.wide = true → AtomRule r.op (.ofNat 64 (s.natAt r.pa 8) : DWord) r.x r.y (.ofNat 64 (t.natAt r.pa 8))) ∧
      (∀ a, (a < r.pa ∨ r.pa + r.bytes ≤ a) → t.byte a = s.byte a) ∧ t.cur.lanes = s.cur.lanes ∧
      t.cur.pend = s.cur.pend.flatMap (fun e => if e.act = .atom r.id then
        { e with act := .word (r.reg.getD 0) (.ofNat 32 (s.natAt r.pa 4)) } ::
          (if r.wide then [{ e with act := .word (r.reg.getD 0 + 1) (.ofNat 32 (s.natAt (r.pa + 4) 4)) }] else [])
        else [e]))
  /-- a counter wait ends once the counter has reached its target: at the next word, or at the continuation, of which one that is no canonical
  address traps PC_WRAP -/
  counter : ∀ (s : State) (pa : Nat) (target : DWord) (scope : Nat) (cont : DWord), s.cur.live = true →
    s.hist = [] → pa % 8 = 0 → s.cur.wait = .counter pa target scope cont →
    (s.natAt pa 8 < target.toNat → exec (.counterWaitSatisfied s.cur.key) s = .next s) ∧
    (target.toNat ≤ s.natAt pa 8 →
      (canonical cont = true → exec (.counterWaitSatisfied s.cur.key) s = .next (s.setCur (s.cur.complete s.cur.act s.cur.waitSp cont))) ∧
      (canonical cont = false → Plain s → exec (.counterWaitSatisfied s.cur.key) s = .next (trapped s 3 cont)))
  /-- a doze ends at its instant, not before -/
  doze : ∀ (s : State) (till : DWord), s.cur.live = true → (∀ g ∈ s.groups, g.key ≠ s.cur.key) → s.cur.wait = .doze till →
    exec (.dozeWake s.cur.key) s = .next (if till.toNat ≤ s.time.now then s.setCur { s.cur with wait := .none } else s)
  /-- a NOPRE window closes when its cycles have run out -/
  nopre : ∀ (s : State) (n : Nat), s.cur.live = true → (∀ g ∈ s.groups, g.key ≠ s.cur.key) → s.cur.nopre = some n →
    exec (.nopreWindowExpiry s.cur.key) s = .next (if n = 0 then s.setCur { s.cur with nopre := none } else s)
  /-- the walker fills a leaf of the page tables that lies under the lease; of a full TLB it drops the entry filled longest ago (log entry
  83) -/
  walk : ∀ (s : State) (va : DWord) (leaf : Leaf), Alone s → s.launch.covers va.toNat = true →
    s.leafOf s.launch.ctx va.toNat = some leaf → leaf ∉ s.core.tlb →
    exec (.pageTableWalk s.core.id va) s = .next { s with core := { s.core with tlb := leaf :: s.core.tlb.take 511 } }

/-- The engine of the current core has this command at its head: its workgroup runs here, its tile holds frame i, every operand word has one
value to read and none is poisoned, and no command before it is still without an MWAIT (R218, R221, R222, R237). -/
structure Serves (s : State) (m : MatCmd) (rest : List MatCmd) (i : ℕ) : Prop where
  head   : s.core.mq = m :: rest
  frame  : s.core.frameOf m.wg m.quad m.tile = some i
  wg     : m.wg = s.wg.uid
  status : s.wg.status = .running
  taken  : m.taken = none
  pad    : s.wg.padOld = [] ∧ s.wg.padBad = []
  tile   : (s.core.frame i).past = [] ∧ (s.core.frame i).bad = []
  quad   : ∃ g ∈ s.groupsOf m.wg, g.key.gid / 4 = m.quad
  traces : s.traces = []

/-- Element k of a row (or column) of an MMA operand in the scratchpad, by its format (R97, R236, R270). -/
def elementOf (s : State) (w : MatWord) (base row k : ℕ) : FVal :=
  let code := fun (n : ℕ) => bytesNat (s.wg.padRead (base + (row * (64 * 2 ^ w.k) + k) * n) n)
  if w.major = 0x37 then (b8Of (w.y % 32)).decode ((b8Of (w.y % 32)).subst (code 1))
  else if w.y = 0x20 then f16.decode (code 2) else if w.y = 0x21 then bf16.decode (code 2) else f32.decode (code 4)

/-- The f32 number nearest to x, by one rounding to nearest even; a vanishing x gives +0 (log entry 71). -/
def Nearest (x : ℝ) (r : Word) : Prop := (x = 0 → r = 0) ∧ (x ≠ 0 → ∃ fl, Delivered f32 .rne false x (r.toNat, fl))

/-- R104 and R105 for one block: r is a number v plus the exact sum of the 64 products, rounded once; where an operand is a NaN, or an infinity is
multiplied by 0, the canonical NaN. -/
def BlockRule (v : ℝ) (A B : ℕ → FVal) (r : Word) : Prop :=
  (∀ x y : ℕ → ℝ, (∀ k < 64, (A k).Is (x k) ∧ (B k).Is (y k)) → Nearest (v + ∑ k ∈ Finset.range 64, x k * y k) r) ∧
  ((∃ k < 64, (A k).isNan = true ∨ (B k).isNan = true ∨ (∃ n, A k = .inf n ∧ (B k).Is 0) ∨ ∃ n, (A k).Is 0 ∧ B k = .inf n) → r = 0x7FC00000)

/-- The number of an S16 scale in the scratchpad (R99). -/
noncomputable def scaleAt (s : State) (off : ℕ) : ℝ := let c := s16Val (bytesNat (s.wg.padRead off 2)); (c.1 : ℝ) * (2 : ℝ) ^ c.2

/-- The engines, channels and the checker (R104 to R106, R229, R234 to R237, R244 to R247, R269 to R272). -/
structure EngineRules : Prop where
  /-- a copy whose words are all written increments its counter and is gone, once no link on the way retrains (R334) -/
  copied : ∀ (s : State) (c : Copy), s.copies = [c] → c.sent = none → c.dkind ≠ 4 → (∀ k < c.words, k ∈ c.moved) → c.counter % 8 = 0 →
    s.traces = [] → Settled s →
    (s.wayWaits (dieOf c.core) c.counter = true → exec (.copyCompletion c.id) s = .next s) ∧
    (s.wayWaits (dieOf c.core) c.counter = false → ∃ t, exec (.copyCompletion c.id) s = .next t ∧ t.copies = [] ∧
      t.natAt c.counter 8 = (s.natAt c.counter 8 + c.inc) % 2 ^ 64 ∧ ∀ a, (a < c.counter ∨ c.counter + 8 ≤ a) → t.byte a = s.byte a)
  /-- the engine moves a word inside the scratchpad, one of which no older value can still be read (R218) -/
  moves : ∀ (s : State) (c : Copy), s.copies = [c] → c.sent = none → c.moved = [] → 0 < c.words → c.wg = s.wg.uid → s.wg.status = .running →
    (∀ w ∈ s.wgs, w.uid ≠ s.wg.uid) → c.skind = 1 → c.dkind = 1 → c.zero = false → c.full = false → s.traces = [] →
    c.src.toNat % 4 = 0 → c.src.toNat + 4 ≤ s.wg.size → c.dst.toNat + 4 ≤ s.wg.size → s.wg.padPoison c.src.toNat 4 = false →
    mapGet [] s.wg.padOld (c.src.toNat / 4) = [] →
    s.copyWord c.id 0 = { s with
      copies := [{ c with moved := [0] }], wg := s.wg.padStore none c.dst.toNat (s.wg.padRead c.src.toNat 4) }
  /-- a command that its quad has issued four times enters the engine once it can; before the fourth issue nothing happens -/
  entry : ∀ (s : State) (quad : Nat) (m : MatWord),
    let issues := s.wg.joint.filter (fun e => e.1 / 4 == quad)
    (issues.length < 4 → exec (.matrixCommandEntry s.wg.uid quad) s = .next s) ∧
    (issues.length = 4 → (∀ e ∈ issues, e.2 = m) →
      (∀ a ∈ m.areas (s.nbAt s.wg.core s.wg.uid quad m.tile), a.1 % 64 = 0 ∧ (a.2 ≠ 0 → a.1 + a.2 ≤ s.wg.size)) →
      s.foreignFrames s.wg.core s.launch.ctx = [] → (∀ x ∈ s.wg.tiles, x.quad = quad → x.tile = m.tile → x.spilled = false) →
      (s.core.mq.filter (fun x => x.wg == s.wg.uid && x.quad == quad)).length < 8 → (s.core.frameOf s.wg.uid quad m.tile).isSome →
      s.core.id = s.wg.core → s.launch.uid = s.wg.launch → s.traces = [] →
      ∃ t, exec (.matrixCommandEntry s.wg.uid quad) s = .next t ∧
        t.core.mq = s.core.mq ++ [{ wg := s.wg.uid, quad := quad, tile := m.tile, word := m, known := quadKnown s quad, serial := s.nextId, taken := none }] ∧
        (∀ e ∈ t.wg.joint, e.1 / 4 ≠ quad) ∧ t.mem = s.mem ∧ t.core.frames = s.core.frames)
  /-- the engine takes commands in order; MZERO leaves zeros -/
  zeroed : ∀ (s : State) (m : MatCmd) (rest : List MatCmd) (i : Nat), s.core.mq = m :: rest →
    s.core.frameOf m.wg m.quad m.tile = some i → m.word.major = 0x39 → m.word.fn = 1 → s.traces = [] →
    (∃ g ∈ s.groupsOf m.wg, g.key.gid / 4 = m.quad) →
    ∃ t, exec (.matrixCommandCompletion s.core.id) s = .next t ∧ t.core.mq = rest ∧ (∀ e, (t.core.frame i).accAt e = 0) ∧
      (t.core.frame i).serial = m.serial + 1 ∧ t.mem = s.mem ∧ t.wg = s.wg
  /-- MMA of f16, bf16 or f32: each block in turn goes into the accumulator with one rounding (R104, R105, R270) -/
  mma : ∀ (s : State) (m : MatCmd) (rest : List MatCmd) (i : Nat), Serves s m rest i → m.word.major = 0x38 →
    (m.word.y = 0x20 ∨ m.word.y = 0x21 ∨ m.word.y = 0x22) →
    ∃ t, exec (.matrixCommandCompletion s.core.id) s = .next t ∧ t.core.mq = rest ∧ t.mem = s.mem ∧ t.wg = s.wg ∧
      (∀ b e, (t.core.frame i).planeAt b e = (s.core.frame i).planeAt b e) ∧ (t.core.frame i).nb = (s.core.frame i).nb ∧
      ∀ e < 4096, ∃ acc : ℕ → Word, acc 0 = (s.core.frame i).accAt e ∧ acc (2 ^ m.word.k) = (t.core.frame i).accAt e ∧
        ∀ b < 2 ^ m.word.k,
          let A := fun (k : ℕ) => elementOf s m.word (m.word.x.toNat % 2 ^ 32) (e / 64) (64 * b + k)
          let B := fun (k : ℕ) => elementOf s m.word (m.word.x.toNat / 2 ^ 32) (e % 64) (64 * b + k)
          (∀ v, (f32.decode (acc b).toNat).Is v → BlockRule v A B (acc (b + 1))) ∧
          ((f32.decode (acc b).toNat).isNan = true → acc (b + 1) = 0x7FC00000)
  /-- MMA of a binary8 format: each block sum is rounded into its plane, NB counts them, and the accumulator stays (R104, R270) -/
  mma8 : ∀ (s : State) (m : MatCmd) (rest : List MatCmd) (i : Nat), Serves s m rest i → m.word.major = 0x37 → m.word.k ≤ 2 →
    ∃ t, exec (.matrixCommandCompletion s.core.id) s = .next t ∧ t.core.mq = rest ∧ t.mem = s.mem ∧ t.wg = s.wg ∧
      (t.core.frame i).nb = 2 ^ m.word.k ∧ (∀ e, (t.core.frame i).accAt e = (s.core.frame i).accAt e) ∧
      ∀ e < 4096, (∀ b, 2 ^ m.word.k ≤ b → b < 4 → (t.core.frame i).planeAt b e = (s.core.frame i).planeAt b e) ∧
        ∀ b < 2 ^ m.word.k, BlockRule 0 (fun k => elementOf s m.word (m.word.x.toNat % 2 ^ 32) (e / 64) (64 * b + k))
          (fun k => elementOf s m.word (m.word.x.toNat / 2 ^ 32) (e % 64) (64 * b + k)) ((t.core.frame i).planeAt b e)
  /-- MSCL adds each of the NB planes to the accumulator, scaled, with one rounding, and leaves planes of zeros and NB = 0; a scale of 0 makes the
  term 0 whatever the plane (R106, R271) -/
  mscl : ∀ (s : State) (m : MatCmd) (rest : List MatCmd) (i : Nat), Serves s m rest i → m.word.major = 0x39 → m.word.fn = 0 →
    ∃ t, exec (.matrixCommandCompletion s.core.id) s = .next t ∧ t.core.mq = rest ∧ t.mem = s.mem ∧ t.wg = s.wg ∧
      (t.core.frame i).nb = 0 ∧ (∀ b e, (t.core.frame i).planeAt b e = 0) ∧
      ∀ e < 4096, ∃ acc : ℕ → Word, acc 0 = (s.core.frame i).accAt e ∧ acc (s.core.frame i).nb = (t.core.frame i).accAt e ∧
        ∀ b < (s.core.frame i).nb, ∀ v p, (f32.decode (acc b).toNat).Is v →
          let scale := scaleAt s (m.word.x.toNat % 2 ^ 32 + 128 * b + 2 * (e / 64)) * scaleAt s (m.word.x.toNat / 2 ^ 32 + 128 * b + 2 * (e % 64))
          (scale = 0 → Nearest v (acc (b + 1))) ∧
          ((f32.decode ((s.core.frame i).planeAt b e).toNat).Is p → Nearest (v + scale * p) (acc (b + 1)))
  /-- ACCLD takes the accumulator from its image of 64 rows of 256 bytes in the scratchpad, ACCST writes it there (R272) -/
  accld : ∀ (s : State) (m : MatCmd) (rest : List MatCmd) (i : Nat), Serves s m rest i → m.word.major = 0x39 → m.word.fn = 2 →
    ∃ t, exec (.matrixCommandCompletion s.core.id) s = .next t ∧ t.core.mq = rest ∧ t.mem = s.mem ∧ t.wg = s.wg ∧
      (∀ b e, (t.core.frame i).planeAt b e = (s.core.frame i).planeAt b e) ∧ (t.core.frame i).nb = (s.core.frame i).nb ∧
      ∀ r < 64, ∀ k < 64, (t.core.frame i).accAt (64 * r + k) =
        .ofNat 32 (bytesNat (s.wg.padRead (m.word.x.toNat % 2 ^ 32 + 256 * r + 4 * k) 4))
  accst : ∀ (s : State) (m : MatCmd) (rest : List MatCmd) (i : Nat), Serves s m rest i → m.word.major = 0x39 → m.word.fn = 3 →
    ∃ t, exec (.matrixCommandCompletion s.core.id) s = .next t ∧ t.core.mq = rest ∧ t.mem = s.mem ∧ t.core.frames = s.core.frames ∧
      (∀ r < 64, ∀ k < 64, t.wg.padRead (m.word.x.toNat % 2 ^ 32 + 256 * r + 4 * k) 4 = natBytes ((s.core.frame i).accAt (64 * r + k)).toNat 4) ∧
      ∀ a, (a < m.word.x.toNat % 2 ^ 32 ∨ m.word.x.toNat % 2 ^ 32 + 16384 ≤ a) → t.wg.padRead a 1 = s.wg.padRead a 1
  /-- an entry on its way reaches the channel behind the entries that arrived before it, or waits for a link that retrains (R334) -/
  arrival : ∀ (s : State) (k : Nat) (c : Chan) (e : Entry) (es : List Entry), s.launch.chans[k]? = some c →
    c.transit = e :: es → (∀ l ∈ s.launches, l.uid ≠ s.launch.uid) →
    exec (.channelEntryArrival s.launch.uid k) s = .next (if s.linkWaits (dieOf c.bind.sender) (dieOf c.bind.recv) then s else { s with
      launch := { s.launch with chans := s.launch.chans.set k { c with transit := es, fifo := c.fifo ++ [e] } } })
  /-- a send that has waited 4,096 cycles on a channel that is still full opens its toy box -/
  toyBox : ∀ (s : State) (k : Nat) (c : Chan) (since : Nat), s.launch.chans[k]? = some c → c.toyOn = false → c.closed = false →
    s.cur.live = true → s.cur.wait = .send c.bind.out since → s.wg.uid = s.cur.key.wg → s.wg.core = c.bind.sender →
    s.core.id = s.wg.core → s.wg.launch = s.launch.uid → 4096 ≤ (s.time.now - since) * clockAt s.core.point / 1000 →
    c.room (entriesOf (s.cur.width / s.launch.lanesPer)) = false → (∀ l ∈ s.launches, l.uid ≠ s.launch.uid) → s.traces = [] →
    exec (.toyBoxExtension s.launch.uid k) s = .next { s with
      launch := { s.launch with chans := s.launch.chans.set k { c with toyOn := true } } }
  /-- the only group of a launch, waiting for an entry that nobody else could send, traps WAITCYCLE, with the report's number, the
  number of members and the kind in TRAPVAL; a machine in which nobody waits stays as it is -/
  cycle : ∀ (s : State), (s.waiters = [] → exec .waitForCheckerReport s = .next s) ∧
    ∀ (ch : Nat) (c : Chan), Alone s → s.cur.sup = false → s.cur.parked = false → s.cur.pend = [] → s.cur.wait = .receive ch →
      chanOf s 0 ch = some c → c.transit = [] → c.fifo.length + c.toy.length < entriesOf (s.cur.width / s.launch.lanesPer) →
      (∀ d < 4, s.launch.pendingOn d = []) → s.core.rdv = [] →
      exec .waitForCheckerReport s = .next
        { trapped s 7 (.ofNat 64 (s.cycleId % 2 ^ 32 * 2 ^ 32 + 1 * 256 + 3)) with cycleId := s.cycleId + 1 }

/-- The span move and the steps (R116, R117, R252, R338). -/
structure SpanRules : Prop where
  /-- a grant within 50 µs of the last arrival accepts the move; a later one is none -/
  grant : ∀ (s : State) (r : Rendezvous), s.core.rdv = [r] → r.phase = .energy → s.traces = [] →
    exec (.spanEnergyGrant s.core.id) s = .next (if r.since + 50000 < s.time.now then s else
      { s with core := { s.core with rdv := [{ r with phase := .moving, since := s.time.now }] } })
  /-- without a grant the groups go on with c7 = 0 and ENERGY -/
  timeout : ∀ (s : State) (r : Rendezvous) (p : Nat), Alone s → s.cur.wait = .span p → s.core.rdv = [r] → r.phase = .energy →
    r.launch = s.launch.uid →
    exec (.spanEnergyTimeout s.core.id) s = .next (if s.time.now < r.since + 50000 then s else
      { s with cur := ((s.cur.cset 7 false).lastRef 0x0D).complete s.cur.act s.cur.waitSp (s.cur.pc + 4)
               core := { s.core with rdv := [] } })
  /-- the groups go on after their SPAN with c7 = 1 -/
  resume : ∀ (s : State) (r : Rendezvous) (p : Nat), Alone s → s.atomq = [] → s.cur.wait = .span p → s.core.rdv = [r] → r.phase = .moving →
    r.launch = s.launch.uid → s.launch.paced = false → r.target = s.core.point →
    ∃ t, exec (.spanMoveResume s.core.id) s = .next t ∧ t.cur.pc = s.cur.pc + 4 ∧ t.cur.cget 7 = true ∧ t.cur.wait = .none ∧
      t.core.rdv = [] ∧ t.core.point = s.core.point ∧ ∀ j, t.cur.lane j = s.cur.lane j
  /-- the core stands at the target after the move, at the nominal rail or at its floor where that is higher; while adaptation is frozen the
  margin to the nominal rail stays (R117, R325) -/
  moved : ∀ (s : State) (r : Rendezvous) (p : Nat), Alone s → s.atomq = [] → s.cur.wait = .span p → s.core.rdv = [r] → r.phase = .moving →
    r.launch = s.launch.uid → s.launch.paced = false → r.target ≠ s.core.point →
    ∃ t, exec (.spanMoveResume s.core.id) s = .next t ∧ t.core.point = r.target ∧ t.core.rdv = [] ∧
      (s.core.frozen = false → t.core.rail = max (railAt r.target) ((10 * (railAt r.target - 40) + s.core.floorUp + 9) / 10)) ∧
      (s.core.frozen = true → railAt s.core.point ≤ railAt r.target + s.core.rail →
        t.core.rail + railAt s.core.point = railAt r.target + s.core.rail)
  /-- a core hears how many steps of a launch another one has ended, once no link on the way retrains (R334) -/
  news : ∀ (s : State) (u src : Nat),
    exec (.stepEndArrival u src s.core.id) s = .next (if s.linkWaits (dieOf src) (dieOf s.core.id) then s else { s with core := s.core.onPace u (fun d => { d with
      heard := mapSet 0 d.heard src (max (mapGet 0 d.heard src) (s.paceOf src u).ended)
      heardOver := if (s.paceOf src u).finished then insRising src d.heardOver else d.heardOver }) })
  /-- the next step begins once the core has ended its own and has heard of the ends it needs; until then it does not -/
  steps : ∀ (s : State) (p : Pace), Alone s → s.core.paces.find? (fun p => p.launch == s.launch.uid) = some p →
    (p.ended ≤ p.step → exec (.stepBegin s.launch.uid s.core.id) s = .next s) ∧
    (p.ended = p.step + 1 → s.core.rdv = [] → p.finished = false →
      (∀ u ∈ p.strings.up, p.step + 1 ≤ mapGet 0 p.heard u) →
      (∀ d ∈ p.strings.down, p.step + 2 - s.wg.kern.dmin ≤ mapGet 0 p.heard d) →
      ∃ t, exec (.stepBegin s.launch.uid s.core.id) s = .next t ∧ (t.core.pace s.launch.uid).step = p.step + 1 ∧ t.cur.held = false ∧ t.mem = s.mem ∧
        ∀ j, t.cur.lane j = s.cur.lane j)
  /-- where every group has retired, the step has ended with its beginning -/
  retired : ∀ (s : State) (p : Pace), s.cur.live = false → s.groups = [] → s.wgs = [] → s.core.id = s.wg.core → s.wg.launch = s.launch.uid →
    s.wg.status = .running → s.wg.uid ≠ 0 → s.core.paces.find? (fun p => p.launch == s.launch.uid) = some p →
    p.ended = p.step + 1 → s.core.rdv = [] → p.finished = false → (∀ u ∈ p.strings.up, p.step + 1 ≤ mapGet 0 p.heard u) →
    (∀ d ∈ p.strings.down, p.step + 2 - s.wg.kern.dmin ≤ mapGet 0 p.heard d) →
    ∃ t, exec (.stepBegin s.launch.uid s.core.id) s = .next t ∧ (t.core.pace s.launch.uid).step = p.step + 1 ∧
      (t.core.pace s.launch.uid).ended = p.step + 2 ∧ t.mem = s.mem

/-- From a packet to the end of its launch (R180, R258, R275, R284 to R287, R295, R299, R352). -/
structure LaunchRules : Prop where
  /-- a store of a packet's address by one of the 16 application cores submits it: accepted, then queued or refused; before bring-up has ended,
  misaligned, or of a packet that is not mapped, it submits nothing -/
  submit : ∀ (s : State) (core : Nat) (ctx : BitVec 16) (v : DWord) (bs : List Byte),
    (s.phase < 9 ∨ 16 ≤ core ∨ v.toNat % 128 ≠ 0 → exec (.launchPortSubmit ⟨core, ctx⟩ v) s = .next s) ∧
    (s.phase = 9 → core < 16 → v.toNat % 128 = 0 → s.structBytes ctx none v.toNat 128 = none →
      ∃ t, exec (.launchPortSubmit ⟨core, ctx⟩ v) s = .next t ∧ t.accepted = s.accepted ∧ t.launches = s.launches) ∧
    (s.phase = 9 → core < 16 → v.toNat % 128 = 0 → s.structBytes ctx none v.toNat 128 = some bs → (∀ l ∈ s.allLaunches, l.uid < s.nextId) →
      ∃ t, exec (.launchPortSubmit ⟨core, ctx⟩ v) s = .next t ∧
        mapGet 0 t.accepted ctx.toNat = (mapGet 0 s.accepted ctx.toNat + 1) % 2 ^ 64 ∧ ∃ l ∈ t.launches, (∀ k ∈ s.launches, k.uid ≠ l.uid) ∧
          l.packet = v.toNat ∧ l.ctx = ctx ∧ l.words = packetWords bs ∧ (l.state = .queued ∨ l.state = .refused))
  /-- a supervisor's store to the kill offset ends the launch with KILLED; a user's changes nothing -/
  kill : ∀ (s : State), s.phase = 9 → s.launch.uid ≠ 0 → s.launch.state = .running → s.traces = [] →
    let v : DWord := .ofNat 64 s.launch.packet
    v.toNat = s.launch.packet →
    exec (.launchPortKill s.launch.ctx v false) s = .next s ∧
    ∃ t, exec (.launchPortKill s.launch.ctx v true) s = .next t ∧ t.launch.state = .ending ∧ t.launch.code = 16 ∧ t.mem = s.mem
  /-- the hub answers with the die whose near tier holds the page, or with the second-tier bit (R180) -/
  home : ∀ (s : State) (ctx : BitVec 16) (va : DWord) (f : Leaf), s.leafOf ctx va.toNat = some f → s.homes = [] →
    exec (.homeQuery ctx va) s = .next { s with
      free := s.free + 1, hubLoad := .ofNat 64 (if s.nearTier f.pa then s.homeDie f.pa else 4) }
  /-- the head of a die's order goes to the place it has, with its energy; an empty order places nothing -/
  place : ∀ (s : State) (die : Nat), (∀ x ∈ s.launches, x.state ≠ .pooled) →
    (s.order die = [] → exec (.workgroupPlacement die) s = .next s) ∧
    ∀ (l : Launch) (rest : List Launch) (i core : Nat), s.order die = l :: rest → l.waiting = [] → s.nextPlace l die [] = some (i, core) →
      (s.die die).covers l.estimate = true → (∀ w ∈ s.allWgs, w.uid < s.nextId) →
      ∃ t, exec (.workgroupPlacement die) s = .next t ∧
        ∃ w ∈ t.allWgs, w.uid = s.nextId ∧ w.launch = l.uid ∧ w.l = i ∧ w.core = core ∧ w.status = .running
  /-- a launch whose workgroups have all retired and whose engines are quiet is done: STATUS 0x3000, its lease and pins gone -/
  done : ∀ (s : State), s.launch.state = .running → (∀ l ∈ s.launches, l.uid ≠ s.launch.uid) → s.atomq = [] → s.traces = [] →
    (s.launch.retired < s.launch.gridN → exec (.launchCompletion s.launch.uid) s = .next s.beginTests) ∧
    (s.launch.gridN ≤ s.launch.retired → s.busy s.launch.uid = false → (∀ c ∈ s.copies, c.launch ≠ s.launch.uid) →
      ∃ t, exec (.launchCompletion s.launch.uid) s = .next t ∧ t.launch.state = .done ∧ t.launch.leases = [] ∧
        t.launch.statusPa = none ∧ t.launch.countPa = none ∧
        (∀ pa, s.launch.statusPa = some pa → s.launch.countPa = none → t.natAt pa 2 = 0x3000) ∧
        ∀ pa, s.launch.statusPa = none → s.launch.countPa = some pa → pa % 8 = 0 → Settled s →
          t.natAt pa 8 = (s.natAt pa 8 + s.launch.inc) % 2 ^ 64)
  /-- a launch that was ended, once its engine commands have finished: STATUS 0x5000 and the code -/
  ended : ∀ (s : State) (pa : Nat), s.launch.state = .ending → (∀ l ∈ s.launches, l.uid ≠ s.launch.uid) → s.atomq = [] → s.traces = [] →
    s.launch.statusPa = some pa → s.launch.countPa = none → s.busy s.launch.uid = false →
    ∃ t, exec (.launchEndCompletion s.launch.uid) s = .next t ∧ t.launch.state = .ended ∧
      t.natAt pa 2 = (0x5000 + s.launch.code) % 2 ^ 16
  /-- a workgroup retires: its scratchpad is scrubbed and its launch counts it -/
  retire : ∀ (s : State), s.wg.status = .draining → s.wgs = [] → s.wg.launch = s.launch.uid → s.launch.state = .running →
    s.launch.paced = false → s.core.id = s.wg.core → s.core.mq = [] → s.copies = [] → s.atomq = [] → s.traces = [] →
    ∃ t, exec (.workgroupRetirement s.wg.uid) s = .next t ∧ t.wg.status = .gone ∧ t.wg.pad = [] ∧
      t.launch.retired = s.launch.retired + 1 ∧ t.mem = s.mem
  /-- the workgroup goes on in the successor's kernel (R258) -/
  handover : ∀ (s : State) (h mask : DWord) (k : Kernel), s.wg.status = .handing h mask → s.wg.uid = s.cur.key.wg →
    s.launch.uid = s.wg.launch → s.core.id = s.wg.core → s.core.mq = [] → s.copies = [] →
    s.objects.find? (fun k => k.addr == h.toNat && k.ctx == s.launch.ctx) = some k →
    ∃ t, exec (.retsHandover s.wg.uid) s = .next t ∧ t.wg.uid = s.wg.uid ∧ t.wg.kern = k ∧ t.wg.status = .running
  /-- the loader takes an object whose header and words pass, in place of the one that stood there; one that fails leaves none there (R352,
  R353); before the application cores run it loads nothing (R364) -/
  loaded : ∀ (s : State) (ctx : BitVec 16) (a : Nat), a % 256 = 0 → (s.phase < 9 → exec (.codeObjectLoad ctx a) s = .next s) ∧
    (9 ≤ s.phase → ∀ h code : List Byte, s.structBytes ctx none a 256 = some h →
      let others := s.objects.filter (fun o => !(o.addr == a && o.ctx == ctx))
      (headerKernel s.cap.stepping ctx a h = none → exec (.codeObjectLoad ctx a) s = .next { s with objects := others }) ∧
      ∀ k, headerKernel s.cap.stepping ctx a h = some k → s.structBytes ctx none (a + 256) k.extent = some code →
        ((∀ i < k.extent / 4, lifetimeBad s.cap.stepping (natOf code (4 * i) 4) = false) →
          exec (.codeObjectLoad ctx a) s = .next { s with objects := others ++ [k] }) ∧
        ((∃ i < k.extent / 4, lifetimeBad s.cap.stepping (natOf code (4 * i) 4) = true) →
          exec (.codeObjectLoad ctx a) s = .next { s with objects := others }))

/-- Pre-emption, the save and the restore, and tests in the field (R298, R312 to R315, R326). -/
structure SaveRules : Prop where
  /-- the head of a die's order has waited 10 ms for room: the workgroup that stands in its way is asked to save -/
  request : ∀ (s : State) (die since : Nat) (l : Launch) (rest : List Launch), s.order die = l :: rest →
    (s.die die).lacking = some (l.uid, since) →
    (s.time.now < since + 10000000 → exec (.preemptionRequest die) s = .next s) ∧
    (since + 10000000 ≤ s.time.now → l.waiting = [] → s.nextPlace l die [] = none → Alone s → s.cur.pend = [] →
      s.wg.request = none →
      (coresOf die).filterMap (s.victims l) = [[s.wg]] →
      ∃ t, exec (.preemptionRequest die) s = .next t ∧ t.wg.request = some (s.time.now, l.evicts, l.grace))
  /-- the grace time has passed: the launch ends with PREEMPT_OVERDUE where the packet asks for it, else the request goes on -/
  overdue : ∀ (s : State) (t0 grace : Nat) (evict : Bool), Alone s → s.wg.request = some (t0, evict, grace) →
    (s.time.now < t0 + grace → exec (.preemptOverdue s.wg.uid) s = .next s) ∧
    (t0 + grace ≤ s.time.now →
      (evict = true → ∃ t, exec (.preemptOverdue s.wg.uid) s = .next t ∧ t.launch.state = .ending ∧ t.launch.code = 12 ∧ t.mem = s.mem) ∧
      (evict = false → ∃ q, exec (.preemptOverdue s.wg.uid) s = .next { s with wg := { s.wg with request := some q } }))
  /-- a workgroup with every group parked is saved: the area's header names its packet, its groups stand no more -/
  saved : ∀ (s : State) (area : Nat) (pool : List Nat), Alone s → s.cur.parked = true → s.cur.pend = [] → s.wg.request.isSome → s.wg.tested = none →
    (s.die (dieOf s.wg.core)).savePool = area :: pool → area % 4 = 0 → s.core.mq = [] → s.copies = [] → s.atomq = [] → s.wg.padBad = [] →
    (s.cluster (clusterOf s.wg.core)).testing = none → s.launch.packet < 2 ^ 64 → (∀ l ∈ s.launches, l.uid ≠ s.launch.uid) →
    ∃ t, exec (.workgroupSave s.wg.uid) s = .next t ∧ t.wg.status = .saved area ∧ t.cur.live = false ∧
      (t.die (dieOf s.wg.core)).savePool = pool ∧ t.launch.waiting = s.launch.waiting ++ [s.wg.uid] ∧ t.natAt area 8 = s.launch.packet
  /-- nothing is saved while a group has not parked -/
  early : ∀ (s : State), Alone s → s.cur.parked = false → exec (.workgroupSave s.wg.uid) s = .next s
  /-- where the other groups wait only on parked groups or on one another, the parked ones go on (R313) -/
  unparked : ∀ (s : State), s.wg.request.isSome →
    let others := (s.groupsOf s.wg.uid).filter (fun g => !g.parked)
    others ≠ [] → (∀ g ∈ others, ∃ p, s.partiesOf g = some p ∧ p.outside = false ∧
      ∀ k ∈ p.groups, (∃ h ∈ others, h.key = k) ∨ ∀ h, s.findGroup k = some h → h.parked = true) →
    exec (.parkedGroupsUnpark s.wg.uid) s = .next (s.onGroups (fun g =>
      if g.key.wg == s.wg.uid && g.parked && !g.key.shadow then { g with parked := false, safe := false } else g))
  /-- a saved workgroup runs again on a core that may take it -/
  restored : ∀ (s : State) (area core : Nat), s.wg.status = .saved area → s.launch.uid = s.wg.launch → s.launch.state = .running →
    (s.restoreCore s.wg s.launch area core = false → exec (.workgroupRestore s.wg.uid core) s = .next s) ∧
    (s.restoreCore s.wg s.launch area core = true → ∃ t, exec (.workgroupRestore s.wg.uid core) s = .next t ∧
      t.wg.status = .running ∧ t.wg.core = core ∧ t.launch.waiting = s.launch.waiting.filter (· ≠ s.wg.uid))
  /-- a test of an empty cluster begins when it falls due; its service group hands its addresses to the next healthy cluster -/
  due : ∀ (s : State) (cl : Nat), (s.cluster cl).testing = none → (s.cluster cl).inTest = false → (s.cluster cl).retryAt = none →
    s.onCluster' cl = [] → s.atomq = [] →
    ∃ t, exec (.inFieldTestDue cl) s = .next t ∧ (t.cluster cl).inTest = true ∧ (t.cluster cl).testing = some s.time.now ∧
      (t.cluster cl).service = s.nextCluster cl ∧ cl ∈ (t.die (cl / 8)).noPlace
  /-- 2 ms later an attempt that has not begun is missed, and is made again after 100 ms -/
  deadline : ∀ (s : State) (cl t0 : Nat), (s.cluster cl).testing = some t0 → (s.cluster cl).inTest = false → s.clusterParked cl = false →
    (s.time.now < t0 + 2000000 → exec (.inFieldTestDeadline cl) s = .next s) ∧
    (t0 + 2000000 ≤ s.time.now → (s.cluster cl).misses < 3 → ∃ t, exec (.inFieldTestDeadline cl) s = .next t ∧
      (t.cluster cl).testing = none ∧ (t.cluster cl).misses = (s.cluster cl).misses + 1 ∧
      (t.cluster cl).retryAt = some (s.time.now + 100000000) ∧ cl ∉ (t.die (cl / 8)).noPlace ∧ t.mem = s.mem)
  /-- at its end the cluster takes workgroups again and serves its addresses -/
  tested : ∀ (s : State) (cl : Nat),
    ((s.cluster cl).inTest = false → exec (.inFieldTestEnd cl) s = .next s) ∧
    ((s.cluster cl).inTest = true → s.atomq = [] → ∃ t, exec (.inFieldTestEnd cl) s = .next t ∧ (t.cluster cl).inTest = false ∧
      (t.cluster cl).testing = none ∧ (t.cluster cl).service = 32 ∧ cl ∉ (t.die (cl / 8)).noPlace ∧ t.mem = s.mem)

/-- The bump field of a cluster is due for its test: 10 ms after the last one, no core of it having slewed since or slewing now (R360). -/
structure SupplyDue (s : State) (cl : Nat) : Prop where
  last : ∀ t, (s.cluster cl).supplyAt = some t → t + 10000000 ≤ s.time.now
  slew : ∀ i < 8, ∀ t, (s.getCore (8 * cl + i)).slewed = some t → t + 10000000 ≤ s.time.now
  move : ∀ i < 8, ∀ r ∈ (s.getCore (8 * cl + i)).rdv, r.phase ≠ .moving

/-- An image that the boot ROM accepts: its signature, of the parameter set's length, verifies under the public key whose digest is fused (R362).
Digest and verification are free functions (log entry 4). -/
def Verified (fw : Firmware) (i : FwImage) : Prop :=
  fw.key.length = 64 ∧ Config.digest fw.key = Config.fusedKey ∧ i.signature.length = 29792 ∧ Config.verifies fw.key i.bytes i.signature = true

/-- Errors, power, bring-up, links (R1, R297, R318, R323, R325, R334, R357 to R364). -/
structure DeviceRules : Prop where
  /-- a corrected error is counted; an uncorrectable one of a unit with a copy changes nothing, of another makes it poison; the
  addresses of a failed pseudo-channel are withdrawn, each once, and a failed channel endpoint is noted (R323) -/
  error : ∀ (s : State) (e : StorageError),
    (∀ k base len, e.place = .pseudoChannel k base len → ∃ new, exec (.storageError e) s = .next { s with withdrawn := s.withdrawn ++ new } ∧
      ∀ a, (∃ r ∈ new, r.1 ≤ a ∧ a < r.1 + r.2) ↔ (base ≤ a ∧ a < base + len ∧ ∀ r ∈ s.withdrawn, ¬(r.1 ≤ a ∧ a < r.1 + r.2))) ∧
    (∀ k ch out, e.place = .endpoint k ch out →
      exec (.storageError e) s = .next { s with endpoints := if (k, ch, out) ∈ s.endpoints then s.endpoints else s.endpoints ++ [(k, ch, out)] }) ∧
    ((∀ k base len, e.place ≠ .pseudoChannel k base len) → (∀ k ch out, e.place ≠ .endpoint k ch out) → e.correctable = false →
      e.hasCopy = true → exec (.storageError e) s = .next s) ∧
    (∀ pa, e.correctable = false → e.hasCopy = false → e.place = .memory pa → ∃ t, exec (.storageError e) s = .next t ∧
      pa / 8 ∈ t.memBad ∧ (∀ u, u ≠ pa / 8 → (u ∈ t.memBad ↔ u ∈ s.memBad)) ∧ t.mem = s.mem) ∧
    ((∀ k base len, e.place ≠ .pseudoChannel k base len) → (∀ k ch out, e.place ≠ .endpoint k ch out) →
      e.correctable = true → e.core = s.core.id → mapGet [] s.core.errors e.array = [] →
      exec (.storageError e) s = .next { s with core := { s.core with errors := mapSet [] s.core.errors e.array [s.time.now] } })
  /-- the freeze of the floors lifts 24 h after the first crossing -/
  freeze : ∀ (s : State) (t0 : Nat), s.core.crossed = some t0 → s.core.frozen = true → s.traces = [] →
    exec (.floorFreezeLift s.core.id) s = .next (if t0 + 86400000000000 ≤ s.time.now then
      { s with core := { s.core with frozen := false, crossed := none } } else s)
  /-- the regulator reads its eight sensors and keeps the rail between the floor and the nominal rail, or at the floor where that is higher; a
  droop below the floor, frozen adaptation and a core that is absent leave the rail; before bring-up has ended nothing moves -/
  droop : ∀ (s : State) (rs : List Nat), rs.length = 8 → s.traces = [] →
    (s.phase < 9 → exec (.droopRegulation s.core.id rs) s = .next s) ∧
    (9 ≤ s.phase → ∃ t, exec (.droopRegulation s.core.id rs) s = .next t ∧ t.core.droop = rs ∧ t.mem = s.mem ∧
      (s.core.frozen = true ∨ s.core.present = false ∨ (∃ x ∈ rs, x < s.core.floor) → t.core.rail = s.core.rail) ∧
      (t.core.rail = s.core.rail ∨ s.core.floor ≤ 10 * t.core.rail ∧ t.core.rail ≤ max (railAt s.core.point) ((s.core.floor + 9) / 10) ∧
        t.core.slewed = some s.time.now))
  /-- one excess of the supply test is remembered, a reading within the bound forgets it, an unsteady one, or one that is not due, says nothing -/
  supply : ∀ (s : State) (cl : Nat) (r : SupplyReading), 9 ≤ s.phase → (s.cluster cl).excess = false →
    (r.steady = false ∨ ¬SupplyDue s cl → exec (.supplyPathTest cl r) s = .next s) ∧
    (r.steady = true → SupplyDue s cl → ∃ t, exec (.supplyPathTest cl r) s = .next t ∧
      (t.cluster cl).excess = decide (0 < r.excess) ∧ (t.cluster cl).supplyAt = some s.time.now ∧ t.cap = s.cap ∧ t.core = s.core)
  /-- a second excess withdraws the point of the highest voltage from the cluster's cores; where it takes the last one the core's service goes
  first (R323, R360). That the count of excesses starts again is the model's choice (log entry 45) -/
  withdraw : ∀ (s : State) (cl : Nat) (r : SupplyReading), 9 ≤ s.phase → (s.cluster cl).excess = true → r.steady = true → SupplyDue s cl →
    0 < r.excess → s.traces = [] → s.atomq = [] → s.core.present = true → s.core.id / 8 = cl → s.residents s.core.id ≠ [] →
    ∃ t, exec (.supplyPathTest cl r) s = .next t ∧ t.cap.supply = true ∧ (t.cluster cl).excess = false ∧
      ∀ p < 4, t.core.curve.getLsbD p = (s.core.curve.getLsbD p && (List.range p).any (fun k => s.core.curve.getLsbD k))
  /-- the die's headroom is low while its hottest sensor lies within 8 °C of 105 °C (R297, R361) -/
  headroom : ∀ (s : State) (d : Nat) (sensors : List Int), 9 ≤ s.phase → sensors ≠ [] →
    ∃ t, exec (.thermalHeadroomReport d sensors) s = .next t ∧ (t.die d).hottest ∈ sensors ∧ (∀ x ∈ sensors, x ≤ (t.die d).hottest) ∧
      ((t.die d).lowHead = true ↔ ∃ x ∈ sensors, 97 ≤ x) ∧ ∀ k, k ≠ d → t.die k = s.die k
  /-- a power cap is set where the four stay within 1,500 W together (R358, R361) -/
  caps : ∀ (s : State) (d w : Nat), 9 ≤ s.phase → d < 4 →
    let others := (((List.range 4).filter (· ≠ d)).map (fun i => (s.die i).capW)).sum
    (others + w ≤ 1500 → ((s.setCap d w).die d).capW = w ∧ ((s.setCap d w).die d).reservoir ≤ 20000000 * w ∧ ∀ k, k ≠ d → (s.setCap d w).die k = s.die k) ∧
    (1500 < others + w → s.setCap d w = s)
  /-- without its input the package ends every launch with KILLED and goes down: no core runs, no die, link or frame is left, and memory keeps
  nothing, which is the model's reading (log entry 45) -/
  input : ∀ (s : State), s.launch.uid ≠ 0 → s.launch.state = .running → (∀ l ∈ s.launches, l.uid ≠ s.launch.uid) →
    ∃ t, exec .inputVoltageFault s = .next t ∧ t.phase = 0 ∧ t.launch.state = .ended ∧ t.launch.code = 16 ∧ t.core.present = false ∧
      t.core.frames = [] ∧ t.cores = [] ∧ t.dies = [] ∧ t.links = [] ∧ t.mem = [] ∧ t.cap.stepping = s.cap.stepping ∧ t.cap.serial = s.cap.serial
  /-- bring-up stops at the step that fails: the input, the ROM's check, the verification of the firmware, whose first failing image is
  reported (R362, R364) -/
  stops : ∀ (s : State) (fw : Firmware), s.phase = 0 → s.failed = none → fw.images.length = 3 →
    (fw.inputOk = false → exec (.bringUp fw) s = .next s) ∧
    (fw.inputOk = true → fw.romOk = false → exec (.bringUp fw) s = .next { s with phase := 1 }) ∧
    (fw.inputOk = true → fw.romOk = true → ∀ k i, fw.images[k]? = some i → ¬Verified fw i → (∀ x ∈ fw.images.take k, Verified fw x) →
      exec (.bringUp fw) s = .next { s with phase := 2, failed := some k })
  /-- with every image verified bring-up ends at step 9: the capability block says what was found, at most 96 GiB a die and 2 TiB in the second tier
  (R1), a die whose hub link has failed is absent, the power caps stay within 1,500 W together, and every core stands at its nominal S1 rail -/
  up : ∀ (s : State) (fw : Firmware), s.phase = 0 → s.failed = none → fw.inputOk = true → fw.romOk = true → fw.images.length = 3 →
    ∃ t, exec (.bringUp fw) s = .next t ∧ ((∀ i ∈ fw.images, Verified fw i) →
      t.phase = 9 ∧ (∀ d < 4, t.cap.dies.getLsbD d = (fw.dies.getLsbD d && !fw.badLinks.contains (4 + d))) ∧
      t.cap.near = (fw.near.take 4).map (fun n => min 98304 n) ∧
      t.cap.second = min fw.second 2097152 ∧ t.cap.supply = false ∧ t.digests = fw.images.map (fun i => Config.digest i.bytes) ∧
      (∀ k < 8, (mapGet .idle t.links k).up = !fw.badLinks.contains k) ∧
      (∀ d < 4, (t.die d).capW ≤ fw.cap.getD d 0) ∧ ((List.range 4).map (fun d => (t.die d).capW)).sum ≤ 1500 ∧
      s.time.now ≤ t.time.now ∧ t.time.domain ≤ 127 ∧ t.mem = s.mem ∧
      ∀ x ∈ fw.cores, (t.getCore x.core).present = true → x.core < 256 ∧ t.cap.dies.getLsbD (x.core / 64) = true ∧
        fw.clusters.getLsbD (x.core / 8) = true ∧ (t.getCore x.core).rail = railAt 1 ∧ (t.getCore x.core).point = 1)
  /-- the report, on request from supervisor software: the nonce, the digests, the first 64 bytes of the capability block, the time, and the
  signature, of 29,792 bytes; that it is a function of the identity key and the report's bytes is the model's reading (log entry 4; R363) -/
  attest : ∀ (s : State) (n : List Byte), n.length = 32 → 3 ≤ s.phase →
    let body := n ++ s.digests.flatten ++ (([0, 8, 16, 24, 32, 40, 48, 56] : List Nat).map (fun o => natBytes (s.capWord o) 8)).flatten ++
      natBytes (s.time.now % 2 ^ 64) 8
    exec (.attestationReport ⟨n, true⟩) s = .next { s with report := body ++ (List.range 29792).map (Config.signature Config.identity body) } ∧
    exec (.attestationReport ⟨n, false⟩) s = .next s
  /-- a flit of a link is replayed; a retraining that fails maps the link of two dies out, and leaves that of a die to the hub retraining, the
  model's choice (log entry 81); one that nothing asked for does nothing -/
  links : ∀ (s : State) (k : Nat), k < 8 → (mapGet .idle s.links k).up = true →
    (∃ t, exec (.linkFlitReplay k) s = .next t ∧ (mapGet .idle t.links k).replays = (mapGet .idle s.links k).replays + 1 ∧
      (mapGet .idle t.links k).up = true ∧ ((mapGet .idle s.links k).retrain = true → (mapGet .idle t.links k).retrain = true) ∧ t.mem = s.mem) ∧
    ∀ ok, exec (.linkRetrain k ok) s = .next (State.beginTests (
      if (mapGet .idle s.links k).retrain = true ∧ (ok = true ∨ k < 4) then
        { s with links := mapSet .idle s.links k { mapGet .idle s.links k with retrain := false, up := ok } } else s))

/-- A message that its receive queue takes: on a port that is healthy and the queue's, from its peer and job, and under ROD the next in order
(R339, R341). -/
structure Arrives (s : State) (q : NetQueue) (m : Message) : Prop where
  port  : m.port < 12 ∧ s.cap.ports.getLsbD m.port = true ∧ ∀ k, q.spec.port = some k → k = m.port
  peer  : q.spec.peer = m.peer ∧ q.spec.job = m.job
  order : q.spec.ordered = true → q.next = m.seq

/-- The launch of the message runs and has opened the queue; no message has arrived in part. -/
structure Expected (s : State) (q : NetQueue) (m : Message) : Prop where
  launch  : m.launch = s.launch.uid
  running : s.launch.state = .running
  one     : ∀ l ∈ s.launches, l.uid ≠ s.launch.uid
  queue   : s.launch.recvQueue m.queue = some q
  whole   : s.inbound = []

/-- A posted entry that a message matches (R282). -/
def Matches (p : Posted) (m : Message) : Prop :=
  p.queue = m.queue ∧ p.op = m.op ∧ (m.op = .tagged → p.tag = m.tag) ∧ (m.op = .rma → p.tag ≤ m.tag ∧ m.tag < p.tag + p.length)

/-- A message of a queue that is a send fills the first of the posted entries, whose buffer holds it and is mapped from physical address pa on. -/
structure Fills (s : State) (m : Message) (p : Posted) (ps : List Posted) (pa : Nat) : Prop where
  posted : s.launch.posted = p :: ps
  queue  : p.queue = m.queue
  op     : p.op = .send ∧ m.op = .send
  room   : m.bytes.length ≤ p.length
  map    : ∀ i < m.bytes.length, s.translate s.launch.ctx (p.buf.toNat + i) = some (pa + i)

/-- A message sent and not acknowledged, the only one, on the only queue of the launch. -/
structure Sent (s : State) (m : OutMsg) (q : NetQueue) : Prop where
  msg    : s.outMsgs = [m]
  launch : m.launch = s.launch.uid
  queues : s.launch.queues = [q]
  number : q.spec.number = m.queue
  send   : q.spec.send = true
  one    : ∀ l ∈ s.launches, l.uid ≠ s.launch.uid

/-- The network, the time base and the application cores (R281, R282, R339 to R346, R366). -/
structure NetworkRules : Prop where
  /-- a message that no posted entry matches is answered with a no-buffer response, and leaves nothing else; one on another port, from another
  peer or job, or out of its order, is none of the launch's (R339, R341) -/
  unmatched : ∀ (s : State) (m : Message) (q : NetQueue), Expected s q m →
    ((∀ p ∈ s.launch.posted, ¬Matches p m) → Arrives s q m →
      exec (.networkMessageReceive m) s = .next { s with
        answers := s.answers ++ [{ kind := .noBuffer, port := m.port, queue := m.queue }] }) ∧
    (¬Arrives s q m → exec (.networkMessageReceive m) s = .next s)
  /-- a message goes to the buffer of the entry it matches, whose counter is incremented, and the entry is used up -/
  receive : ∀ (s : State) (m : Message) (q : NetQueue) (p : Posted) (ps : List Posted) (pa : Nat), Expected s q m → Arrives s q m → Fills s m p ps pa →
    p.counter % 8 = 0 → (p.counter + 8 ≤ pa ∨ pa + m.bytes.length ≤ p.counter) → s.traces = [] → Settled s →
    ∃ t, exec (.networkMessageReceive m) s = .next t ∧ t.bytes pa m.bytes.length = m.bytes ∧ t.launch.posted = ps ∧
      t.natAt p.counter 8 = (s.natAt p.counter 8 + (if p.inc = 0 then 1 else p.inc)) % 2 ^ 64 ∧
      ∀ a, (a < pa ∨ pa + m.bytes.length ≤ a) → (a < p.counter ∨ p.counter + 8 ≤ a) → t.byte a = s.byte a
  /-- before it has arrived whole, packets of it may be placed, of at most 4,096 bytes, under ROD in their order; no counter moves (R341) -/
  packet : ∀ (s : State) (m : Message) (q : NetQueue) (p : Posted) (ps : List Posted) (pa k : Nat), Expected s q m → Arrives s q m → Fills s m p ps pa →
    4096 * k < m.bytes.length → Settled s →
    (q.spec.ordered = true → 0 < k → s.placePacket m k = s) ∧
    (q.spec.ordered = false ∨ k = 0 →
      let t := s.placePacket m k
      let n := min 4096 (m.bytes.length - 4096 * k)
      t.bytes (pa + 4096 * k) n = (m.bytes.drop (4096 * k)).take 4096 ∧ t.launch = s.launch ∧ (∃ i, t.inbound = [i] ∧ i.msg = m ∧ i.entry = p ∧ i.placed = [k]) ∧
      ∀ a, (a < pa + 4096 * k ∨ pa + 4096 * k + n ≤ a) → t.byte a = s.byte a)
  /-- a no-buffer response sets the instant at which the message goes out again, at intervals that double from 10 µs up to 1 ms; at the instant it
  goes out; past the queue's timeout nothing does (R342) -/
  again : ∀ (s : State) (m : OutMsg) (q : NetQueue), Sent s m q →
    (m.sentAt + q.spec.timeout.getD 100000000 ≤ s.time.now → ∀ b, exec (.noBufferRetransmit ⟨m.id, b⟩) s = .next s) ∧
    (s.time.now < m.sentAt + q.spec.timeout.getD 100000000 →
      (m.next = none → exec (.noBufferRetransmit ⟨m.id, true⟩) s = .next { s with
          outMsgs := [{ m with retry := m.retry + 1, next := some (s.time.now + min (10000 * 2 ^ m.retry) 1000000) }] } ∧
        exec (.noBufferRetransmit ⟨m.id, false⟩) s = .next s) ∧
      ∀ t, m.next = some t → exec (.noBufferRetransmit ⟨m.id, true⟩) s = .next s ∧
        exec (.noBufferRetransmit ⟨m.id, false⟩) s = .next (if t ≤ s.time.now then { s with outMsgs := [{ m with next := none }] } else s))
  /-- at the timeout, 100 ms where none is given, the queue is in error and the message is gone; no counter moves -/
  timeout : ∀ (s : State) (m : OutMsg) (q : NetQueue), Sent s m q → s.traces = [] →
    exec (.sendQueueTimeout m.id) s = .next (if s.time.now < m.sentAt + q.spec.timeout.getD 100000000 then s else
      { s with outMsgs := [], launch := { s.launch with queues := [{ q with error := true }] } })
  /-- the last acknowledgement of a message increments the sender's counter; there is none while the message waits to go out again -/
  acknowledged : ∀ (s : State) (m : OutMsg) (c : Copy), s.outMsgs = [m] → s.copies = [c] → c.id = m.copy → c.counter % 8 = 0 → s.traces = [] → Settled s →
    (m.next ≠ none → exec (.sendAcknowledgement m.id) s = .next s) ∧
    (m.next = none → ∃ t, exec (.sendAcknowledgement m.id) s = .next t ∧ t.outMsgs = [] ∧ t.copies = [] ∧
      t.natAt c.counter 8 = (s.natAt c.counter 8 + c.inc) % 2 ^ 64 ∧ ∀ a, (a < c.counter ∨ c.counter + 8 ≤ a) → t.byte a = s.byte a)
  /-- a trimmed packet asks for its retransmission; one of an unsupported feature is answered or dropped; neither writes data -/
  dropped : ∀ (s : State) (port queue : Nat) (peer : DWord) (answer : Bool),
    exec (.trimmedPacketReceive port queue) s = .next { s with
      answers := s.answers ++ [{ kind := .retransmit, port := port, queue := queue }] } ∧
    (s.traces = [] → exec (.unsupportedPacketDrop port queue peer answer) s = .next (if answer then { s with
      answers := s.answers ++ [{ kind := .unsupported, port := port, queue := queue }] } else s))
  /-- a PTP message at a port that is present is stamped within 8 ns of the time base; on the PTP port and in its domain it corrects the rate within
  500 ppm; the count itself does not jump -/
  ptp : ∀ (s : State) (port domain : Nat) (stamp : DWord) (ppm : Int), s.traces = [] →
    let good := port < 12 ∧ s.cap.ports.getLsbD port = true ∧ stamp.toNat ≤ s.time.now + 8 ∧ s.time.now ≤ stamp.toNat + 8
    let mine := s.time.port = some port ∧ domain = s.time.domain ∧ -500 ≤ ppm ∧ ppm ≤ 500
    (¬good → exec (.ptpEventMessage ⟨port, domain⟩ stamp ppm) s = .next s) ∧
    (good → ∃ t, exec (.ptpEventMessage ⟨port, domain⟩ stamp ppm) s = .next t ∧ mapGet 0 t.time.stamps port = stamp ∧ t.time.now = s.time.now ∧
      (mine → t.time.ppm = ppm) ∧ (¬mine → t.time.ppm = s.time.ppm))
  /-- without its master the time base runs on, and another healthy port takes over where there is one; which one is the model's
  choice (log entry 29) -/
  holdover : ∀ (s : State) (port : Nat),
    (s.time.port ≠ some port → exec (.ptpMasterLoss port) s = .next s) ∧
    (s.time.port = some port → ∃ t, exec (.ptpMasterLoss port) s = .next t ∧ t.time.now = s.time.now ∧ t.time.ppm = s.time.ppm ∧
      ∀ p < 12, p ≠ port → s.cap.ports.getLsbD p = true → ∃ q, t.time.port = some q ∧ q ≠ port ∧ s.cap.ports.getLsbD q = true)
  /-- an application core's store, and its add at a word, with the old value in what the hub answered; none before bring-up has ended, or of a core
  beyond the 16 -/
  app : ∀ (s : State) (a : AppAccess) (pa : Nat), a.portAt = none → s.writableAt a.ctx a.va.toNat = some pa →
    (s.phase < 9 ∨ 16 ≤ a.core → exec (.applicationCoreAccess a) s = .next s) ∧
    (9 ≤ s.phase → a.core < 16 → Settled s →
      (a.atomic = none → a.bytes ≠ [] → ∃ t, exec (.applicationCoreAccess a) s = .next t ∧ t.bytes pa a.bytes.length = a.bytes ∧
        ∀ x, (x < pa ∨ pa + a.bytes.length ≤ x) → t.byte x = s.byte x) ∧
      (a.atomic = some .add → a.bytes.length = 4 → pa % 4 = 0 → ∃ t, exec (.applicationCoreAccess a) s = .next t ∧
        t.hubLoad = .ofNat 64 (s.natAt pa 4) ∧ t.natAt pa 4 = (s.natAt pa 4 + bytesNat a.bytes) % 2 ^ 32 ∧
        ∀ x, (x < pa ∨ pa + 4 ≤ x) → t.byte x = s.byte x))
  /-- the launch port answers a load with the submissions it has accepted (R287), and with 0 where it is stored to (R289) -/
  port : ∀ (s : State) (a : AppAccess), s.phase = 9 → a.core < 16 →
    (a.portAt = some 8 → exec (.applicationCoreAccess a) s = .next { s with hubLoad := .ofNat 64 (mapGet 0 s.accepted a.ctx.toNat) }) ∧
    (a.portAt = some 0 ∨ a.portAt = some 16 → exec (.applicationCoreAccess a) s = .next { s with hubLoad := 0 })
  /-- the operating system opens a queue for a launch that has none of its number, or only one in error, on a healthy port or on any -/
  opened : ∀ (s : State) (q : QueueSpec), q.launch = s.launch.uid → (∀ l ∈ s.launches, l.uid ≠ s.launch.uid) →
    (s.launch.state = .queued ∨ s.launch.state = .running) → q.number < 65536 → 1000000 ≤ q.timeout.getD 100000000 → q.timeout.getD 100000000 ≤ 10000000000 →
    let healthy := (∀ p, q.port = some p → p < 12 ∧ s.cap.ports.getLsbD p = true) ∧ (q.port = none → s.cap.ports ≠ 0)
    (¬healthy ∨ (∃ x ∈ s.launch.queues, x.spec.number = q.number ∧ x.spec.send = q.send ∧ x.error = false) →
      exec (.networkQueueOpen q) s = .next s) ∧
    (healthy → (∀ x ∈ s.launch.queues, x.spec.number = q.number → x.spec.send = q.send → x.error = true) →
      exec (.networkQueueOpen q) s = .next { s with
        launch := { s.launch with
          queues := s.launch.queues.filter (fun x => !(x.spec.number == q.number && x.spec.send == q.send)) ++ [{ spec := q, error := false, next := 0 }] } })

end Sys2Proof.Machine
open Sys2Proof Sys2Proof.Machine

/-- R5, R24, R52, R55 to R58: every integer and address word on 32-bit lanes, and every integer word on pairs, completes with its value in
each lane that acts, and the group, its other registers, flags, queues and memory stay as the table's frame says. -/
def Obligations.IntegerLaneWords : Prop := (∀ i x, intWord i = some x → x.Does i) ∧ ∀ i x, intPairWord i = some x → x.Does i

/-- R90 to R93, R132, R134: in f16, bf16, f32 and f64 the words FADD, FSUB, FMUL, FFMA, FDIV, FSQRT and FRND round the exact result once,
with the flags of R92; and FMIN and FMAX deliver an operand. -/
def Obligations.FloatRounding : Prop := FloatRule f16 ∧ FloatRule bf16 ∧ FloatRule f32 ∧ FloatRule f64

/-- R59 to R68: comparisons, selections, logic, shifts, bit fields, moves and predicate words on lanes. -/
def Obligations.LogicLaneWords : Prop := ∀ i x, logicWord i = some x → x.Does i

/-- R132 to R138, R103: floating-point and packed words, with the flags of R92 in GSTAT; what the functions of FADD to FMAX give is stated in
FloatRounding. FRCP, FRSQ, FEXP2, FLOG2, FSIN and FCOS deliver the device's own value, a free function of the operand, where it keeps the
bound of R103 (log entry 3); that a result past the largest number is an infinity with OF and NX, and one below every number a zero with
UF and NX, is the model's reading (log entry 13), and that under SAT the flags of that infinity stay its choice (log entry 74). -/
def Obligations.FloatLaneWords : Prop := ∀ i x, floatWord i = some x → x.Does i

/-- R98 to R102, R139, R140: conversions, quantisation and scaling; what CVT gives is stated in ConversionRounding. The tie of a binary8
format of precision 1 is a free function of the operands (log entry 6). -/
def Obligations.ConversionWords : Prop := ∀ i x, convertWord i = some x → x.Does i

/-- R142 to R146: LGET, BXCH, GRED and GSCAN, and BALLOT and VOTE, with everything else as it was. A lane that does not act and whose operand
queue is read gives its oldest entry, or 0: the model's choice (log entry 69). -/
def Obligations.CrossLaneWords : Prop := (∀ i x, crossWord i = some x → x.Does i) ∧ ∀ i x, voteWord i = some x → x.Does i

/-- R24, R56 to R68: every word on uniform registers completes, and where its guard is false nothing but the next word follows. -/
def Obligations.UniformWords : Prop := ∀ i x, uniWord i = some x → x.Does i

/-- R81 to R87, R320: NOP, IDEM, NOPRE, PREON, IFENCE, TIME, DOZE to an instant that has come, ICINV. TIME's advance before its read
is a free value (log entry 2). -/
def Obligations.SystemWords : Prop := ∀ i x, systemWord i = some x → x.Does i

/-- R7, R8, R18, R85: RDSR of every special register, and WRSR of those that can be written, in a mode that may. -/
def Obligations.SpecialRegisters : Prop := (∀ i x, readWord i = some x → x.Does i) ∧ ∀ i x, writeWord i = some x → x.Does i

/-- R98, R102, R139: CVT to a floating-point format, to an integer, between integers and to a binary8 format rounds the exact number once,
with its flags. A tie between two odd neighbours of a format of 1 significant bit may go either way (log entry 6). -/
def Obligations.ConversionRounding : Prop := ConversionRule

/-- R14, R69 to R74: branches, calls, CONV, LOOP and RET to an address they may go to. -/
def Obligations.ControlWords : Prop := ∀ i x, jumpWord i = some x → x.Does i

/-- R26, R76, R78 to R80, R184 to R189: lane and uniform loads, tagged steps, tag writes and queries, XLATE and PREF: what they leave
outstanding, for its window or, without lookahead, for the next word; the landing statements say what it comes to. -/
def Obligations.LoadWords : Prop := (∀ i x, laneLoad i = some x → x.Does i) ∧ ∀ i x, uniLoad i = some x → x.Does i

/-- R77, R78, R183, R189: lane stores in rising lane order, window stores and STK. That a window store is performed at once, and that a
store to the scratchpad stands there at the end of its own step, is the model's choice (log entries 33 and 11). -/
def Obligations.StoreWords : Prop := (∀ i x, laneStore i = some x → x.Does i) ∧ ∀ i x, uniStore i = some x → x.Does i

/-- R190 to R195: one request per lane of an ATOM or RED leaves for its owner, in lane order. -/
def Obligations.AtomWords : Prop := ∀ i x, atomWord i = some x → x.Does i

/-- R197 to R201: PHASE, FENCE, FENCE.e, CFLUSH and CINV. That all but FENCE.e are complete in the step of their word, whatever their
lookahead, is the model's choice (log entry 11). -/
def Obligations.FenceWords : Prop := ∀ i x, fenceWord i = some x → x.Does i

/-- A byte outside what STG stores reads as before, and the bytes of the last lane read as its data (R77, R166). -/
def Obligations.StoreFrame : Prop :=
  ∀ (c : Ctl) (r : BitVec 6) (t : BitVec 3) (o : BitVec 6) (w : BitVec 2) (x : LaneStore), laneStore (.stg c r t o w) = some x →
    ∀ s, Issues s (.stg c r t o w) .takes x.mods false false false → wellFormed (.stg c r t o w) = true →
    s.lanesReady (s.cur.on c) [] x.srcs → x.split s = none → s.noReds →
    (∀ j ∈ s.served (s.cur.on c), ∃ a, x.route s j = .to a ∧ s.noneOwn (fun e => x.after s e a)) →
    ∃ u, exec (.stg c r t o w) s = .next u ∧
      u.mem = s.mem ∧ u.wg = s.wg ∧ (∀ j, u.cur.lane j = s.cur.lane j) ∧
      (∀ a, (∀ j ∈ s.served (s.cur.on c), ¬((x.route s j).at_ ≤ a ∧ a < (x.route s j).at_ + (widthOf s.cur.run w.toNat).bytes)) →
        u.viewByte a = s.viewByte a) ∧
      (∀ j, (s.served (s.cur.on c)).getLast? = some j → ∀ k, k < (widthOf s.cur.run w.toNat).bytes →
        u.viewByte ((x.route s j).at_ + k) = (storeBytes s r.toNat (widthOf s.cur.run w.toNat).bytes j).getD k 0)

/-- R148 to R152, R222, R243, R250, R268, R273, R277: SPANQ, GIVE, CLAIM, QSTAT, CHPOLL, SLOT and MWAIT where they need not wait. SPANQ's
headroom is a free value (log entry 2). -/
def Obligations.QueryWords : Prop := ∀ i x, queryWord i = some x → x.Does i

/-- R226, R243, R266, R267, R277, R281: COPY, WAITGE, NPOST, CHSEND and CHRECV where they need not wait. How the bytes of a CHSEND that goes to
the toy box lie in its area is the model's choice (log entry 16), and which write of the counter a counter wait reads where others race with
it is its reading (log entry 59). -/
def Obligations.EngineWords : Prop := ∀ i x, engineWord i = some x → x.Does i

/-- TRAP and SVC complete and then take BREAK or SVC with their immediate as the code, TRAPPC at the next word (R16, R18, R81). That they do so
also where PC + 4 is not canonical, and raise no PC_WRAP, is the model's choice (log entry 57). -/
def Obligations.SoftwareTraps : Prop :=
  ∀ (c : Ctl) (k : BitVec 18) (s : State), (∀ i ∈ [Instr.trap c k, .svc c k], Clears s i .none 0 false false false) → Plain s → s.cur.guard c = true →
    (wellFormed (.trap c k) = true → exec (.trap c k) s = .next
      (entered (s.setCur (s.cur.complete s.cur.act false (s.cur.pc + 4))) 13 k.toNat 0 (s.cur.pc + 4) s.cur.pc)) ∧
    (wellFormed (.svc c k) = true → exec (.svc c k) s = .next
      (entered (s.setCur (s.cur.complete s.cur.act false (s.cur.pc + 4))) 14 k.toNat 0 (s.cur.pc + 4) s.cur.pc))

/-- ERET goes back to user mode at TRAPPC, and the bank does not survive (R16, R17, R81). TRAPPC's two lowest bits are not used:
the model's reading (log entry 24). -/
def Obligations.TrapReturn : Prop :=
  ∀ (c : Ctl) (s : State), Issues s (.eret c) .none 0 false false false → wellFormed (.eret c) = true → s.cur.guard c = true →
    s.cur.sup = true → s.cur.pend = [] →
    exec (.eret c) s = .next (s.setCur { s.cur.complete s.cur.act false (s.cur.pc + 4) with
      sup := false, pc := s.cur.trapPc &&& ~~~3#64, bankS := [], bankT := TReg.zero, run := .none, safe := false, fbuf := [] })

/-- R30: a word whose run breaks a check traps ILLEGAL at the first word of the run, with the offending word in TRAPVAL. -/
def Obligations.IllegalRuns : Prop :=
  ∀ (i : Instr) (f : FormOf), formOf i = some f → wellFormed i = true → ∀ s, Plain s → f.also s →
    (∀ w, s.cur.run.bad = some w → exec i s = .next (trapped s 1 (w.setWidth 64))) ∧
    (s.cur.run.bad = none → ∀ v, s.cur.run.imm = some v → f.imm.accepts (some v) ∨
      exec i s = .next (trapped s 1 (.ofNat 64 (0xF5000000 + v.toNat)))) ∧
    (s.cur.run.bad = none → f.imm.accepts s.cur.run.imm → ∀ m, s.cur.run.mod = some m → modPairBad m.toNat f.mods f.sx = true →
      exec i s = .next (trapped s 1 (.ofNat 64 (0xF6000000 + m.toNat))))

/-- Words that their operands or their mode make trap from user mode, with cause and TRAPVAL, and nothing of their effect. TRAPVAL holds the
instruction word for ERET, RDSR and WRSR of a supervisor's register in user mode, for GIVE and CLAIM under 16-lane compatibility and for
STEPEND and LDSTEP outside a paced launch: the model's reading (log entry 8). -/
def Obligations.OperandTraps : Prop := ∀ i x, x ∈ trapWord i → x.Does i

/-- R5 and R6: a lane word of any family that names a register outside the group's count, or a pair or quad at an odd register, as a
destination or a source, traps ILLEGAL with the register's number once a lane acts. Where several operands break the rule the
destination is looked at first, then the sources in turn, which is the model's choice (log entry 58). -/
def Obligations.RegisterTraps : Prop :=
  ∀ (i : Instr) (s : State), wellFormed i = true → Plain s →
    (∀ x r, laneTable i = some x → Clears s i x.imm x.mods x.sx x.slice true → x.also s → s.cur.on x.ctl ≠ [] →
      firstBad s x.dsts (x.srcs s) = some r → exec i s = .next (trapped s 1 (.ofNat 64 r.1))) ∧
    (∀ x r, laneLoad i = some x → Clears s i .takes x.mods false x.slice false → s.cur.on x.ctl ≠ [] →
      firstBad s (x.dsts s) x.srcs = some r → exec i s = .next (trapped s 1 (.ofNat 64 r.1))) ∧
    (∀ x r, laneStore i = some x → Clears s i .takes x.mods false false false → s.cur.on x.ctl ≠ [] →
      firstBad s [] x.srcs = some r → exec i s = .next (trapped s 1 (.ofNat 64 r.1))) ∧
    ∀ x r, atomWord i = some x → Clears s i .takes (if x.ret then mORD + mSC else 0x800 + mSC) false false false → s.cur.on x.ctl ≠ [] →
      firstBad s x.dsts x.srcs = some r → exec i s = .next (trapped s 1 (.ofNat 64 r.1))

/-- R131, R264: in supervisor mode these words trap ILLEGAL, and R19 ends the launch with the cause: its groups stop at once. -/
def Obligations.SupervisorTrapEndsLaunch : Prop :=
  ∀ (i : Instr) (c : Ctl) (u : ImmUse) (m : Nat), userOnly i = some (c, u, m) → ∀ s, Issues s i u m false false false →
    wellFormed i = true → s.cur.guard c = true → s.cur.sup = true → s.cur.key.shadow = false → s.cur.pend = [] → s.traces = [] → Placed s →
    ∃ t, exec i s = .next t ∧ t.launch.state = .ending ∧ t.launch.code = 1 ∧ t.cur.live = false ∧
      (∀ g ∈ t.groups, g.key.wg = s.wg.uid → g.live = false) ∧ t.mem = s.mem

/-- R14: a word at the last address before the address space's gap, whose next address is not canonical, traps PC_WRAP with that
address where it would complete in sequence, and none of its effect stays. R73: of a CALL to such a target s63 stays written. -/
def Obligations.SequentialWrap : Prop :=
  (∀ (i : Instr) (s : State), wellFormed i = true → Plain s → canonical (s.cur.pc + 4) = false → Completes i s →
    exec i s = .next (trapped s 3 (s.cur.pc + 4))) ∧
  ∀ (c : Ctl) (h : BitVec 2) (o : BitVec 19) (s : State), Clears s (.call c h o) .none 0 false false true →
    wellFormed (.call c h o) = true → Plain s → s.cur.guard c = true → canonical (branchAt s o.toInt) = false →
    exec (.call c h o) s = .next (trapped (s.setCur (s.cur.sset 63 (s.cur.pc + 4))) 3 (branchAt s o.toInt))

/-- R254, R260, R276, R278, R280: LAUNCH, LDSTEP and the frame-image words where they need not wait. That LAUNCH reads its packet and writes its
pool entry in the step of its word is the model's choice (log entry 11). -/
def Obligations.LaunchAndStepWords : Prop := ∀ i x, launchWord i = some x → x.Does i

/-- R124, R228, R237, R244, R254, R267, R273, R281: words that wait where they stand, WAITGE below its target among them; and R20, R86:
DOZE to a later instant, which completes, the group staying until that instant. Which write of the counter WAITGE reads where others race
with it is the model's reading (log entry 59). -/
def Obligations.WaitingWords : Prop :=
  (∀ i x, waitWord i = some x → x.Does i) ∧
  (∀ (c : Ctl) (x y : BitVec 6) (s : State) (pa : ℕ), Issues s (.waitge c x y) .none mSC false false false → wellFormed (.waitge c x y) = true →
    s.cur.guard c = true → s.cur.sup = false → (s.cur.sget x.toNat).toNat % 8 = 0 →
    s.viaTlb s.launch (s.cur.sget x.toNat).toNat 8 false = some pa → s.noneOwn (fun e => s.touchesMem e pa 8) →
    ¬counterMet (counterFirst s pa) pa (s.cur.sget y.toNat) →
    exec (.waitge c x y) s = .next ((counterFirst s pa).setCur { (counterFirst s pa).cur with
      wait := .counter pa (s.cur.sget y.toNat) (scopeOr 5 s.cur.run.sc) (s.cur.pc + 4), waitSp := c.sp, safe := c.sp })) ∧
  ∀ (c : Ctl) (a : BitVec 6) (s : State), Issues s (.doze c a) .none 0 false false false → wellFormed (.doze c a) = true → s.cur.guard c = true →
    s.time.now < (s.cur.sget a.toNat).toNat →
    exec (.doze c a) s = .next (s.setCur { s.cur.complete s.cur.act c.sp (s.cur.pc + 4) with wait := .doze (s.cur.sget a.toNat) })

/-- R234, R269: a group's joint issue waits for its quad until the other three have issued. -/
def Obligations.JointIssueWaits : Prop :=
  ∀ (i : Instr) (x : JointWord), jointWord i = some x → ∀ s, Issues s i .none 0 false false false → wellFormed i = true →
    s.cur.guard x.ctl = true → s.cur.sup = false → s.quadComplete s.wg.uid (s.cur.key.gid / 4) = true →
    (x.low = true → (x.cmd s).x.toNat < 2 ^ 32) →
    (s.wg.joint.filter (fun e => e.1 / 4 == s.cur.key.gid / 4 && e.1 != s.cur.key.gid)).length < 3 →
    exec i s = .next (jointWaiting s x.ctl (x.cmd s))

/-- R234, R237, R269: the fourth issue of the same command by a quad whose tile holds a frame puts the command into the engine's
queue, behind the others, and the four groups go on at their next words. -/
def Obligations.JointIssueEnters : Prop :=
  ∀ (i : Instr) (x : JointWord), jointWord i = some x → ∀ s, Issues s i .none 0 false false false → wellFormed i = true →
    s.cur.guard x.ctl = true → s.cur.sup = false → s.cur.key.shadow = false → s.quadComplete s.wg.uid (s.cur.key.gid / 4) = true →
    (x.low = true → (x.cmd s).x.toNat < 2 ^ 32) → Placed s → s.noReds → s.core.id = s.wg.core → s.traces = [] → JointReady s x →
    ∃ t, exec i s = .next t ∧
      t.core.mq = s.core.mq ++ [{ wg := s.wg.uid, quad := s.cur.key.gid / 4, tile := (x.cmd s).tile, word := x.cmd s
                                  known := quadKnown s (s.cur.key.gid / 4), serial := s.nextId, taken := none }] ∧
      t.cur.pc = s.cur.pc + 4 ∧ t.cur.wait = .none ∧ (∀ e ∈ t.wg.joint, e.1 / 4 ≠ s.cur.key.gid / 4) ∧
      (∀ g ∈ t.groups, g.live = true → g.key.wg = s.wg.uid → g.key.shadow = false → g.key.gid / 4 = s.cur.key.gid / 4 → g.wait = .none) ∧
      t.mem = s.mem ∧ t.core.frames = s.core.frames ∧ ∀ j, t.cur.lane j = s.cur.lane j

/-- R30, R31: a hint word joins its run and does nothing else. -/
def Obligations.HintWords : Prop :=
  ∀ (p : BitVec 24) (s : State), s.cur.live = true → canonical (s.cur.pc + 4) = true →
    let first := some (s.cur.run.first.getD s.cur.pc)
    exec (.sched p) s = .next (s.setCur { s.cur with
      pc := s.cur.pc + 4, safe := false, run := { s.cur.run with first := first }
      sched := (List.range 4).map (fun j => (p.toNat / 2 ^ (4 * j) % 8, p.toNat / 2 ^ (4 * j + 3) % 2 == 1)) }) ∧
    exec (.imm p) s = .next (s.setCur { s.cur with
      pc := s.cur.pc + 4, safe := false
      run := if s.cur.run.imm.isSome then { s.cur.run with first := first, bad := some (s.cur.run.bad.getD (.ofNat 32 (0xF5000000 + p.toNat))) }
        else { s.cur.run with first := first, imm := some p } }) ∧
    exec (.mod p) s = .next (s.setCur { s.cur with
      pc := s.cur.pc + 4, safe := false
      run := { s.cur.run with
        first := first
        mod := if s.cur.run.mod.isSome then s.cur.run.mod else some p
        bad := if s.cur.run.mod.isSome || 6 ≤ p.toNat / 2 ^ 21 % 8 || 4 ≤ p.toNat / 2 ^ 15 % 8 || p.toNat / 2 ^ 12 % 8 == 7
          then some (s.cur.run.bad.getD (.ofNat 32 (0xF6000000 + p.toNat))) else s.cur.run.bad } }) ∧
    exec (.live p) s = .next (s.setCur { s.cur with pc := s.cur.pc + 4, safe := false })

/-- R70, R75: the threads of A join E, and the group goes straight on with the entry on top of its stack where that holds a thread that
has not exited; what is outstanding stays so. -/
def Obligations.ExitContinues : Prop :=
  ∀ (c : Ctl) (s : State) (e : StackEntry) (es : List StackEntry), Issues s (.exit c) .none 0 false true true → wellFormed (.exit c) = true →
    s.cur.guard c = true → s.cur.stack = e :: es →
    let gone := s.cur.exited ||| s.cur.act
    let mask := if e.pend then e.mask else e.mask &&& ~~~gone
    mask ≠ 0 →
    exec (.exit c) s = .next (s.setCur { s.cur.complete s.cur.act false (s.cur.pc + 4) with
      exited := gone, act := mask, stack := es, pc := e.pc })

/-- R70, R75, R206: EXIT of the last threads of a workgroup's only group, with nothing on its stack, retires the group, and the workgroup
begins to retire. -/
def Obligations.ExitRetires : Prop :=
  ∀ (c : Ctl) (s : State), Issues s (.exit c) .none 0 false false true → wellFormed (.exit c) = true → s.cur.guard c = true → s.cur.pend = [] →
    (∀ r ∈ s.atomq, r.from_ ≠ s.cur.key) → s.cur.stack = [] → s.cur.key.shadow = false → s.groups = [] → s.wg.claimQ = [] →
    s.core.id = s.wg.core → s.core.rdv = [] → s.launch.paced = false → Placed s →
    ∃ t, exec (.exit c) s = .next t ∧ t.cur.live = false ∧ t.cur.exited = s.cur.exited ||| s.cur.act ∧ t.cur.act = 0 ∧
      t.wg.status = .draining ∧ t.wg.pad = s.wg.pad ∧ t.launch = s.launch

/-- R251, R252: STEPEND holds the group; the core's step goes on while another group of the workgroup is not held, and ends with
the last one. -/
def Obligations.StepEnds : Prop :=
  ∀ (c : Ctl) (s : State), Issues s (.stepend c) .none 0 false false false → wellFormed (.stepend c) = true → s.cur.guard c = true →
    s.cur.sup = false → s.launch.paced = true → Placed s →
    ((∃ g ∈ s.groups, g.live = true ∧ g.key.wg = s.wg.uid ∧ g.key.shadow = false ∧ g.held = false) →
      exec (.stepend c) s = .next (s.setCur { s.cur.complete s.cur.act c.sp (s.cur.pc + 4) with held := true })) ∧
    (s.groups = [] → s.cur.key.shadow = false → s.noReds → s.core.id = s.wg.core →
      (∃ p ∈ s.core.paces, p.launch = s.launch.uid) → (s.core.pace s.launch.uid).ended = (s.core.pace s.launch.uid).step →
      ∃ t, exec (.stepend c) s = .next t ∧ (t.core.pace s.launch.uid).ended = (s.core.pace s.launch.uid).step + 1 ∧ t.cur.pc = s.cur.pc + 4)

/-- R257: RETS parks the group until every live group of its workgroup has come; when the checks pass the workgroup hands over, when
one fails every group goes on with c7 = 0 and the code. -/
def Obligations.RetsParks : Prop :=
  ∀ (c : Ctl) (x y : BitVec 6) (s : State), Issues s (.rets c x y) .none 0 false false false → wellFormed (.rets c x y) = true →
    s.cur.guard c = true → s.cur.sup = false → s.cur.key.shadow = false → s.cur.pend = [] → (s.cur.sget y.toNat).toNat < 2 ^ 30 → Placed s →
    let p := s.setCur { s.cur with wait := .rets (s.cur.sget x.toNat) (s.cur.sget y.toNat), waitSp := c.sp, safe := false }
    ((∃ g ∈ s.groups, g.live = true ∧ g.key.wg = s.wg.uid ∧ g.key.shadow = false ∧ g.wait = .none) → exec (.rets c x y) s = .next p) ∧
    (s.groups = [] → (∀ r ∈ s.atomq, r.from_ ≠ s.cur.key) →
      (∀ code, p.retsRefusal s.wg.uid [p.cur] = some code → exec (.rets c x y) s = .next (p.setCur (((p.cur.cset 7 false).lastRef code).finishWait))) ∧
      (p.retsRefusal s.wg.uid [p.cur] = none → ∃ t, exec (.rets c x y) s = .next t ∧
        t.wg.status = .handing (s.cur.sget x.toNat) (s.cur.sget y.toNat) ∧ t.cur.wait = p.cur.wait))

/-- R115, R116, R147, R148: a SPAN that fails a check goes on with c7 = 0 and the code and opens nothing; one that passes parks at
the rendezvous of its launch on the core, which it opens where it is the first. -/
def Obligations.SpanArrives : Prop :=
  ∀ (c : Ctl) (p : BitVec 2) (s : State), Issues s (.span c p) .none 0 false false true → wellFormed (.span c p) = true → s.cur.guard c = true →
    s.cur.sup = false → s.cur.key.shadow = false → s.cur.pend = [] → s.traces = [] → s.core.id = s.wg.core → Placed s →
    (∀ g ∈ s.groups, g.key.shadow = false) →
    (∀ code, s.spanRefusal p.toNat = some code → s.core.rdv = [] →
      exec (.span c p) s = .next (s.after c.sp s ((s.cur.cset 7 false).lastRef code))) ∧
    (s.spanRefusal p.toNat = none → (∃ g ∈ s.groups, g.live = true ∧ g.key.wg = s.wg.uid ∧ g.atSpan = false) →
      exec (.span c p) s = .next { s with
        cur := { s.cur with wait := .span p.toNat, waitSp := c.sp, safe := false }
        core := if s.core.rdv.any (fun r => r.launch == s.launch.uid) then s.core else
          { s.core with rdv := { launch := s.launch.uid, phase := .opened, target := 0, since := 0 } :: s.core.rdv } })

/-- R56: the integer operations are exact and reduced or clamped once, at 32 and at 64 bits, and their words give them. -/
def Obligations.IntegerArithmetic : Prop :=
  ArithRule 32 ∧ ArithRule 64 ∧ ∀ c d a b, intDoes (.iadd c d a b) ∧ intDoes (.isub c d a b) ∧ intDoes (.imulPair c d a b) ∧
    intDoes (.imadU c d a b)

/-- R57: truncated quotients and their remainders, and the edges of a zero divisor and of overflow. -/
def Obligations.IntegerDivision : Prop :=
  DivisionRule 32 ∧ DivisionRule 64 ∧ ∀ c d a b,
    intDoes (.idivS c d a b) ∧ intDoes (.idivN c d a b) ∧ intDoes (.iremS c d a b) ∧ intDoes (.iremN c d a b) ∧
    intDoes (.idivSPair c d a b) ∧ intDoes (.idivNPair c d a b) ∧ intDoes (.iremSPair c d a b) ∧ intDoes (.iremNPair c d a b) ∧
    intDoes (.idivSU c d a b) ∧ intDoes (.idivNU c d a b) ∧ intDoes (.iremSU c d a b) ∧ intDoes (.iremNU c d a b)

/-- R61: the logic and shift words, by the low 32 bits of b, a count of w or more among them. -/
def Obligations.LogicAndShifts : Prop :=
  ShiftRule 32 ∧ ShiftRule 64 ∧ ∀ c d a b,
    intDoes (.and c d a b) ∧ intDoes (.or c d a b) ∧ intDoes (.xor c d a b) ∧ intDoes (.andn c d a b) ∧ intDoes (.orn c d a b) ∧
    intDoes (.shl c d a b) ∧ intDoes (.shrl c d a b) ∧ intDoes (.shra c d a b) ∧
    intDoes (.andPair c d a b) ∧ intDoes (.orPair c d a b) ∧ intDoes (.xorPair c d a b) ∧ intDoes (.andnPair c d a b) ∧
    intDoes (.ornPair c d a b) ∧ intDoes (.shlPair c d a b) ∧ intDoes (.shrlPair c d a b) ∧ intDoes (.shraPair c d a b) ∧
    intDoes (.andU c d a b) ∧ intDoes (.orU c d a b) ∧ intDoes (.xorU c d a b) ∧ intDoes (.andnU c d a b) ∧ intDoes (.ornU c d a b) ∧
    intDoes (.shlU c d a b) ∧ intDoes (.shrlU c d a b) ∧ intDoes (.shraU c d a b)

/-- R63 with the rows of R62: rotation, counts, reversal and fields, bit by bit. -/
def Obligations.BitOperations : Prop :=
  BitRule 32 ∧ BitRule 64 ∧ ∀ c d a b,
    intDoes (.rotl c d a b) ∧ intDoes (.clz c d a) ∧ intDoes (.ctz c d a) ∧ intDoes (.popc c d a) ∧ intDoes (.brev c d a) ∧
    intDoes (.bfxN c d a b) ∧ intDoes (.bfxS c d a b) ∧
    intDoes (.rotlPair c d a b) ∧ intDoes (.clzPair c d a) ∧ intDoes (.ctzPair c d a) ∧ intDoes (.popcPair c d a) ∧
    intDoes (.brevPair c d a) ∧ intDoes (.bfxNPair c d a b) ∧ intDoes (.bfxSPair c d a b) ∧
    intDoes (.rotlU c d a b) ∧ intDoes (.clzU c d a) ∧ intDoes (.ctzU c d a) ∧ intDoes (.popcU c d a) ∧ intDoes (.brevU c d a) ∧
    intDoes (.bfxNU c d a b) ∧ intDoes (.bfxSU c d a b)

/-- R74: LOOP decrements s(d) and branches while the result is not zero; a counter of 1 falls through, one of 0 wraps and branches;
naming s0 it discards the write and branches. -/
def Obligations.LoopRule : Prop :=
  ∀ (c : Ctl) (d : BitVec 6) (i : BitVec 9) (s : State), Issues s (.loop c d i) .takes 0 false true true → wellFormed (.loop c d i) = true →
    s.cur.guard c = true → (s.cur.key.shadow = true → d.toNat < 16) → s.cur.sup = false →
    let target := s.cur.pc + .ofInt 64 (4 * match s.cur.run.imm with
      | none => i.toInt
      | some v => v.toInt * 512 + i.toNat)
    canonical target = true →
    ∃ t, exec (.loop c d i) s = .next t ∧
      (∀ r, r < 64 → t.cur.sget r = if r = 0 then 0 else if r = d.toNat then s.cur.sget r - 1 else s.cur.sget r) ∧
      (d = 0 → t.cur.pc = target) ∧
      (d ≠ 0 → s.cur.sget d.toNat = 1 → t.cur.pc = s.cur.pc + 4) ∧
      (d ≠ 0 → s.cur.sget d.toNat = 0 → t.cur.sget d.toNat = .ofNat 64 (2 ^ 64 - 1) ∧ t.cur.pc = target) ∧
      (d ≠ 0 → s.cur.sget d.toNat ≠ 1 → t.cur.pc = target) ∧
      t.mem = s.mem ∧ t.cur.act = s.cur.act ∧ ∀ j, t.cur.lane j = s.cur.lane j

/-- R144: VOTE writes c(q) from the threads that act; c0 discards it. -/
def Obligations.Votes : Prop :=
  ∀ (c : Ctl) (q p : BitVec 3) (s : State),
    (∀ i ∈ [Instr.voteAny c q p, .voteAll c q p, .voteSame c q p], Issues s i .none 0 false false true) → s.cur.on c ≠ [] →
    wellFormed (.voteAny c q p) = true → wellFormed (.voteAll c q p) = true → wellFormed (.voteSame c q p) = true →
    let V := (s.cur.on c).filter (fun j => !s.launch.isProt || j % 2 == 0)
    (∃ t, exec (.voteAny c q p) s = .next t ∧ t.cur.cget 0 = true ∧
      (q ≠ 0 → (t.cur.cget q.toNat = true ↔ ∃ j ∈ V, s.cur.pget j p.toNat = true)) ∧
      ∀ r, r < 8 → r ≠ q.toNat → t.cur.cget r = s.cur.cget r) ∧
    (∃ t, exec (.voteAll c q p) s = .next t ∧ t.cur.cget 0 = true ∧
      (q ≠ 0 → (t.cur.cget q.toNat = true ↔ ∀ j ∈ V, s.cur.pget j p.toNat = true)) ∧
      ∀ r, r < 8 → r ≠ q.toNat → t.cur.cget r = s.cur.cget r) ∧
    (∃ t, exec (.voteSame c q p) s = .next t ∧ t.cur.cget 0 = true ∧
      (q ≠ 0 → (t.cur.cget q.toNat = true ↔ ∀ j ∈ V, ∀ k ∈ V, s.cur.pget j p.toNat = s.cur.pget k p.toNat)) ∧
      ∀ r, r < 8 → r ≠ q.toNat → t.cur.cget r = s.cur.cget r)

/-- R95: the codes of the binary8 variants that are no finite numbers. -/
def Obligations.Binary8Specials : Prop :=
  ∀ f code, f < 32 → f % 8 ≠ 0 → code < 256 →
    let v := (b8Of f).decode code
    let finite := f / 8 % 2 = 1
    let unsigned := f / 16 = 1
    (v = .nan false ↔ code = if unsigned then 0xFF else 0x80) ∧ v ≠ .nan true ∧
    (v = .inf false ↔ ¬finite ∧ code = if unsigned then 0xFE else 0x7F) ∧
    (v = .inf true ↔ ¬finite ∧ ¬unsigned ∧ code = 0xFF)

/-- R13, R16, R124: a turn of the current group runs, on the state with the line fetched, the instruction that its mode gives the
word at its program counter; only a B word has its hinted line fetched after it (R355). That turns come from an agenda and that the
instruction cache keeps 1,024 lines and drops the oldest is the model's choice (log entries 31 and 32). -/
def Obligations.StepRunsDecoded : Prop :=
  ∀ (s : State) (ms : List Move) (pa : Nat) (w : Word) (i : Instr), IssuesNext s ms pa w →
    decodeWord s.cur.sup w.toNat = some i →
      step s = turned s (guided i s.cur.pc (exec i (fetched s ms pa))) ∧
      (hintOf i s.cur.pc = none → step s = turned s (exec i (fetched s ms pa)))

/-- R39, R13: a word that decodes to nothing traps ILLEGAL with the word, and a fetch outside the code traps CODE_BOUNDS with the
address in TRAPPC and TRAPVAL. -/
def Obligations.FetchTraps : Prop :=
  ∀ s, Plain s →
    (s.cur.run.bad = none → ∀ w, exec (.illegalWordFetch (.word w)) s = .next (trapped s 1 (w.setWidth 64))) ∧
    (∀ a, exec (.illegalWordFetch (.bounds a)) s = .next (entered s 2 0 a a a))

/-- A step is the next move of the agenda: time passing, before which each die notes what its head launch waits for (R295); a copied word;
the lease manager mapping a page or dropping it; a packet that the network delivers; firmware's power cap of a die; an event. A move
that names an instruction with a word is no event and changes nothing. The agenda is the model's own (log entry 31). -/
def Obligations.StepMoves : Prop :=
  ∀ s ms,
    (∀ ns, s.agenda = .elapse ns :: ms → step s = .next ({ s with agenda := ms }.watchHeads.elapse ns)) ∧
    (∀ id k, s.agenda = .copyWord id k :: ms → step s = .next ({ s with agenda := ms }.copyWord id k)) ∧
    (∀ l, s.agenda = .map l :: ms → step s = .next ({ s with agenda := ms }.mapLeaf l)) ∧
    (∀ l, s.agenda = .pageOut l :: ms → step s = .next ({ s with agenda := ms }.pageOut l)) ∧
    (∀ m k, s.agenda = .packet m k :: ms → step s = .next ({ s with agenda := ms }.placePacket m k)) ∧
    (∀ d w, s.agenda = .cap d w :: ms → step s = .next ({ s with agenda := ms }.setCap d w)) ∧
    (∀ i, s.agenda = .event i :: ms → (encode i).isNone → (∀ f, i ≠ .illegalWordFetch f) → step s = exec i { s with agenda := ms }) ∧
    (∀ i, s.agenda = .event i :: ms → (encode i).isSome → step s = .next { s with agenda := ms })

/-- Words whose bits the spec writes out mean what it prints beside them; a reserved major and the all-ones word mean nothing (R39). -/
def Obligations.DecodedWords : Prop :=
  let c : Ctl := { sp := false, n := false, pi := 0 }
  decodeWord false 0x00000000 = some (.trap c 0) ∧
  decodeWord false 0x08200003 = some (.braLane { c with pi := 1 } 0 3) ∧
  decodeWord false 0x20007141 = some (.iadd c 7 5 1) ∧
  decodeWord false 0x4D618264 = some (.iaddImm { c with n := true, pi := 3 } 3 1 100) ∧
  decodeWord false 0x701CC300 = some (.bfiU c 12 12 0) ∧
  decodeWord false 0x98041404 = some (.qnt c 8 10 4) ∧
  decodeWord false 0xA4206150 = some (.gred { c with pi := 1 } 6 5 2 0) ∧
  decodeWord false 0xB0022A18 = some (.ldg c 1 5 2 6 0) ∧
  decodeWord false 0xD4000104 = some (.xlate c 0 1 1) ∧
  decodeWord false 0xDC000C11 = some (.mmaB8 c 0 12 4 1) ∧
  decodeWord false 0xEC408A30 = some (.ldstep { c with pi := 2 } 0 10 6 0) ∧
  decodeWord false 0xF40000B0 = some (.sched 0xB0) ∧
  decodeWord false 0xF8000000 = none ∧ decodeWord false 0xFFFFFFFF = none

/-- Every word decodes to the instruction it encodes, with every operand, in the mode that gives the word that meaning. -/
def Obligations.RoundTrip : Prop :=
  ∀ i w m, wellFormed i = true → encode i = some w → modeFits i m → w < 2 ^ 32 ∧ decodeWord m w = some i

/-- A word has one meaning: what the decoder reads from a 32-bit word encodes to that word. -/
def Obligations.DecodeSound : Prop := ∀ m w i, w < 2 ^ 32 → decodeWord m w = some i → encode i = some w

/-- Every step goes on: it answers a next state from every state. -/
def Obligations.StepGoesOn : Prop := ∀ s : State, s.Goes

/-- Every step keeps memory in its canonical form. -/
def Obligations.MemoryStaysCanonical : Prop := ∀ s t, Memory.wf s.mem = true → step s = .next t → Memory.wf t.mem = true

/-- R20: no step takes the time base back, and it stays a 64-bit count. That bring-up's time is clamped to such a count is the model's choice
(log entry 34). -/
def Obligations.TimeNeverRunsBack : Prop :=
  ∀ s t, s.time.now < 2 ^ 64 → step s = .next t → s.time.now ≤ t.time.now ∧ t.time.now < 2 ^ 64

/-- The state after reset satisfies the invariant of every state. -/
def Obligations.ResetInvariant : Prop := State.reset.Inv

/-- R364, R365: what stands before bring-up: no launch, group, copy or request, the capability block's GEN 3 and stepping alone, and
memory of zeros. The stepping 0xB1, the zero bytes, and the zeros of SERIAL and of the words that bring-up fills are the model's choice
(log entries 5, 23 and 1). -/
def Obligations.ResetLeaves : Prop :=
  State.reset.allGroups = [] ∧ State.reset.phase = 0 ∧ State.reset.copies = [] ∧ State.reset.atomq = [] ∧ State.reset.launches = [] ∧
  State.reset.capWord 0 = 3 * 2 ^ 56 + 0xB1 * 2 ^ 48 ∧ (∀ o, o ≠ 0 → State.reset.capWord o = 0) ∧ ∀ a, State.reset.byte a = 0

/-- What comes back to a group, and the ends of its waits. The TRAPVAL of a poisoned scratchpad load, that a full TLB drops its last entry, and
an XLATE of 64 bits of base are the model's choice (log entries 65, 83 and 60). -/
def Obligations.LandingEvents : Prop := LandingRules

/-- The engines, the channels and the checker at work. The sign of a block's sum of zeros is the model's choice (log entry 71). -/
def Obligations.EngineEvents : Prop := EngineRules

/-- The span move and the steps of paced cores. -/
def Obligations.SpanEvents : Prop := SpanRules

/-- Launches from their submission to their end. -/
def Obligations.LaunchEvents : Prop := LaunchRules

/-- Pre-emption, parking, saves, restores and tests in the field. That a save takes the first area of the pool is the model's choice (log entry
15). -/
def Obligations.SaveEvents : Prop := SaveRules

/-- Storage errors, power, bring-up and links. That the excesses of a supply path are counted anew after a withdrawal and how far power goes down
without input are the model's reading (log entry 45), and so is a signature that is a function of the identity key and the report (log
entry 4); a link to the hub whose retraining fails stays retraining, the model's choice (log entry 81). -/
def Obligations.DeviceEvents : Prop := DeviceRules

/-- The network, the time base and the application cores. Which port the clock takes when its own is lost is the
model's choice (log entry 29). -/
def Obligations.NetworkEvents : Prop := NetworkRules
end

