-- ==== Sys2Proof/Laws/Memory.lean ====
section
/-!
SUPPORT. Laws/Memory.lean: every operation that writes memory keeps its canonical form, and what a byte reads as after one.
-/

namespace Sys2Proof.Machine

/-- A fold keeps what each of its steps keeps. -/
theorem foldl_inv {α β : Type} (p : α → Prop) (step : α → β → α) (h : ∀ a b, p a → p (step a b)) (bs : List β) :
    ∀ a, p a → p (bs.foldl step a) := by
  induction bs with
  | nil => exact fun _ ha => ha
  | cons b bs ih => exact fun a ha => ih _ (h a b ha)

/-! ### Bytes -/

theorem Memory.wf_put (m : Memory) (pa : Nat) (bs : List Byte) (h : Memory.wf m = true) : Memory.wf (Memory.put m pa bs) = true :=
  mapWf_setList 0 bs m pa h

theorem State.wf_reset : Memory.wf State.reset.mem = true := rfl

/-- Read after write, and a write leaves every other byte alone. -/
theorem Memory.get_put (m : Memory) (pa a : Nat) (bs : List Byte) :
    mapGet 0 (Memory.put m pa bs) a = if pa ≤ a ∧ a < pa + bs.length then bs.getD (a - pa) 0 else mapGet 0 m a := by
  simpa [Memory.put] using mapGet_setList 0 bs m pa a

theorem natBytes_length (v n : Nat) : (natBytes v n).length = n := by
  induction n generalizing v with
  | zero => rfl
  | succ n ih => simp only [natBytes, List.length_cons, ih]

/-- After a change of a word in the L2 memory holds that word, and no other byte changes. -/
theorem State.byte_settleWord (s : State) (w a : Nat) (h : WordHist) :
    (s.settleWord w h).byte a =
      if 4 * w ≤ a ∧ a < 4 * w + 4 then (natBytes (topOf h.init h.inL2).toNat 4).getD (a - 4 * w) 0 else s.byte a := by
  have h := Memory.get_put s.mem (4 * w) a (natBytes (topOf h.init h.inL2).toNat 4)
  rw [natBytes_length] at h
  exact h

/-- A write of one word changes no byte outside the word. -/
theorem State.byte_addVersion_other (s : State) (w a : Nat) (v : Version) (h : a < 4 * w ∨ 4 * w + 4 ≤ a) :
    (s.addVersion w v).byte a = s.byte a := by
  unfold State.addVersion
  dsimp only
  split
  · rw [State.byte_settleWord]
    split
    · omega
    · rfl
  · rfl

theorem overlay_all (low x : Word) : overlay low 15 x = x := by
  have h : byteMask 15 = BitVec.allOnes 32 := rfl
  unfold overlay
  rw [h, BitVec.and_allOnes, BitVec.not_allOnes, BitVec.and_zero, BitVec.or_zero]

/-- A whole word written to the L2 is what memory holds there, whatever an L1 keeps to itself of other words. -/
theorem State.byte_engineWrite (s : State) (w a : Nat) (x : Word) (h : 4 * w ≤ a ∧ a < 4 * w + 4)
    (hL1 : (s.histOf w).inL1 = []) : (s.engineWrite w x).byte a = (natBytes x.toNat 4).getD (a - 4 * w) 0 := by
  have key : ∀ g : WordHist, g.inL1 = [] → ∀ v : Version, v.l2 = true → v.mask = 15 →
      topOf (g.add v).init (g.add v).inL2 = v.val := by
    intro g hg v hl hm
    simp only [WordHist.add, hg, hl, hm, stackOn, if_true, List.nil_append, WordHist.inL2, List.dropWhile_cons, Bool.not_true,
      topOf, Bool.false_eq_true, if_false]
    exact overlay_all _ _
  unfold State.engineWrite State.addVersion
  simp only [if_true]
  rw [State.byte_settleWord, if_pos h, key _ ?_ _ rfl rfl]
  unfold State.histFrom
  dsimp only
  split
  · exact hL1
  · exact hL1

/-! ### The canonical form -/

/-- Memory of a state is in its canonical form. -/
def State.memOk (s : State) : Prop := Memory.wf s.mem = true

/-- Operations that only move parts of the state about keep memory. -/
theorem State.memOk_of {s t : State} (h : t.mem = s.mem) (hs : s.memOk) : t.memOk := by
  unfold State.memOk at *
  rw [h]
  exact hs

theorem State.memOk_ite {c : Prop} [Decidable c] {a b : State} (ha : a.memOk) (hb : b.memOk) : (if c then a else b).memOk := by
  split
  · exact ha
  · exact hb

theorem State.memOk_reset : State.reset.memOk := rfl

theorem State.memOk_settleWord (s : State) (w : Nat) (x : WordHist) (h : s.memOk) : (s.settleWord w x).memOk :=
  Memory.wf_put _ _ _ h

theorem State.memOk_addVersion (s : State) (w : Nat) (v : Version) (h : s.memOk) : (s.addVersion w v).memOk :=
  State.memOk_ite (s.memOk_settleWord w _ h) h

theorem State.memOk_writeBack (s : State) (core w : Nat) (h : s.memOk) : (s.writeBack core w).memOk :=
  State.memOk_ite (s.memOk_settleWord w _ h) h

theorem State.memOk_writeBackCore (s : State) (core : Nat) (only : Nat → Bool) (h : s.memOk) : (s.writeBackCore core only).memOk :=
  foldl_inv State.memOk _ (fun s e hs => s.memOk_writeBack core e.1 hs) _ _ h

theorem State.memOk_engineWrite (s : State) (w : Nat) (x : Word) (h : s.memOk) : (s.engineWrite w x).memOk :=
  s.memOk_addVersion w _ h

theorem State.memOk_poisonMem (s : State) (w : Nat) (h : s.memOk) : (s.poisonMem w).memOk := State.memOk_ite h h

theorem State.memOk_cleanMem (s : State) (pa n : Nat) (h : s.memOk) : (s.cleanMem pa n).memOk := h

theorem State.memOk_flushWord (s : State) (g : Group) (o : GKey) (core : Nat) (ps : List Pub) (sy : List Nat) (l2 : Bool) (w : Nat)
    (h : s.memOk) : (s.flushWord g o core ps sy l2 w).memOk := by
  unfold State.flushWord
  extract_lets bs clean v u
  have hu : u.memOk := State.memOk_addVersion _ w v (State.memOk_ite (s.memOk_writeBack core w h) h)
  exact State.memOk_ite (State.memOk_ite hu hu) (State.memOk_ite hu hu)

theorem State.memOk_flushGroup (s : State) (k o : GKey) (core : Nat) (ps : List Pub) (sy : List Nat) (l2 : Bool) (only : Nat → Bool)
    (h : s.memOk) : (s.flushGroup k o core ps sy l2 only).memOk := by
  unfold State.flushGroup
  split
  · exact h
  · exact foldl_inv State.memOk _ (fun s w hs => s.memOk_flushWord _ _ _ _ _ _ w hs) _ _ h

theorem State.memOk_flushOwn (s : State) (k : GKey) (core w n : Nat) (h : s.memOk) : (s.flushOwn k core w n).memOk :=
  State.memOk_writeBackCore _ _ _ (foldl_inv State.memOk _ (fun s _ hs => s.memOk_flushGroup _ _ _ _ _ _ _ hs) _ _ h)

theorem State.memOk_putRmw (s : State) (o : Option GKey) (p : Party) (k : Know) (own : List Rel) (w : Nat) (x : Word) (h : s.memOk) :
    (s.putRmw o p k own w x).memOk := s.memOk_settleWord w _ h

theorem State.memOk_rmw (s : State) (pa : Nat) (wide : Bool) (f : DWord → DWord) (o : Option GKey) (p : Party) (k : Know)
    (own : List Rel) (h : s.memOk) : (s.rmw pa wide f o p k own).2.2.memOk := by
  unfold State.rmw
  dsimp only
  have h1 := fun x => s.memOk_putRmw o p k own (pa / 4) x h
  have h2 := fun (t : State) x (ht : t.memOk) => t.memOk_putRmw o p k own (pa / 4 + 1) x ht
  refine State.memOk_ite (State.memOk_of rfl (State.memOk_ite (h2 _ _ (h1 _)) (h1 _))) (State.memOk_ite (h2 _ _ (h1 _)) (h1 _))

theorem State.memOk_performAtom (s : State) (r : AtomReq) (h : s.memOk) : (s.performAtom r).memOk := by
  unfold State.performAtom
  extract_lets u k v mine
  have hv : v.memOk := State.memOk_flushOwn u k _ _ _ h
  split
  · exact hv
  · rename_i f p own g d _
    have hq := State.memOk_rmw v r.pa r.wide f (some k) p (g.known.join g.seen) own hv
    generalize State.rmw v r.pa r.wide f (some k) p (g.known.join g.seen) own = q at hq ⊢
    exact hq

theorem State.memOk_serveAtom (s : State) (id : Nat) (h : s.memOk) : (s.serveAtom id).memOk := by
  unfold State.serveAtom
  split
  · exact h
  · exact foldl_inv State.memOk _ (fun s r hs => s.memOk_performAtom r hs) _ _ h

theorem State.memOk_serveRedsOf (s : State) (k : GKey) (h : s.memOk) : (s.serveRedsOf k).memOk :=
  foldl_inv State.memOk _ (fun s r hs => s.memOk_serveAtom r.id hs) _ _ h

theorem State.memOk_flushDirty (s : State) (core : Nat) (only : Nat → Bool) (h : s.memOk) : (s.flushDirty core only).memOk :=
  State.memOk_writeBackCore _ _ _ (foldl_inv State.memOk _ (fun s _ hs => s.memOk_flushGroup _ _ _ _ _ _ _ hs) _ _
    (foldl_inv State.memOk _ (fun s g hs => s.memOk_serveRedsOf (s.physOf g.key core) hs) _ _ h))

theorem State.memOk_evictions (s : State) (w : Nat) (h : s.memOk) : (s.evictions w).memOk := by
  unfold State.evictions
  dsimp only
  refine State.memOk_ite h (foldl_inv State.memOk _ (fun t p ht => State.memOk_ite (t.memOk_flushDirty p.2 _ ht) ht) _ _ ?_)
  exact h

theorem State.memOk_serveAll (s : State) (h : s.memOk) : s.serveAll.memOk :=
  foldl_inv State.memOk _ (fun s r hs => s.memOk_performAtom r hs) _ _ h

theorem State.memOk_serveAllReds (s : State) (h : s.memOk) : s.serveAllReds.memOk :=
  foldl_inv State.memOk _ (fun s r hs => s.memOk_serveAtom r.id hs) _ _ h

theorem State.memOk_publish (s : State) (n : Nat) (h : s.memOk) : (s.publish n).memOk := by
  have ha := s.memOk_serveAll h
  have hf : ∀ (t : State) (b : Pub) (sy : List Nat) (wide : Bool), t.memOk →
      (t.partners.foldl (fun s g => s.flushGroup g.key s.owner s.wg.core [b] sy wide (fun _ => true)) t).memOk := fun t b sy wide ht =>
    foldl_inv State.memOk _ (fun s g hs => s.memOk_flushGroup _ _ _ _ _ _ _ hs) _ _ ht
  unfold State.publish
  split
  · exact h
  · extract_lets u wide b syncs v w x
    have hv : v.memOk := hf u b syncs wide ha
    have hw : w.memOk := State.memOk_ite (v.memOk_writeBackCore _ _ hv) hv
    exact State.memOk_ite hw hw

theorem State.memOk_increment (s : State) (pa inc : Nat) (k : Know) (sc : Nat) (p : Party) (h : s.memOk) :
    (s.increment pa inc k sc p).memOk := by
  refine State.memOk_rmw _ _ _ _ _ _ _ _ ?_
  split
  · exact State.memOk_writeBack _ _ _ (State.memOk_writeBack _ _ _ h)
  · exact h

theorem State.memOk_wgPadWrite (s : State) (u off : Nat) (bs : List Byte) (h : s.memOk) : (s.wgPadWrite u off bs).memOk := by
  unfold State.wgPadWrite
  split
  · exact h
  · split
    · exact Memory.wf_put _ _ _ h
    · exact h

theorem State.memOk_putBytes (s : State) (pa : Nat) (bs : List Byte) (h : s.memOk) : (s.putBytes pa bs).memOk := by
  unfold State.putBytes
  split
  · exact h
  · exact foldl_inv State.memOk _ (fun s i hs => State.memOk_engineWrite _ _ _ hs) _ _ h

theorem State.memOk_tracePut (s : State) (u : Nat) (bs : List Byte) (m : Bool) (h : s.memOk) : (s.tracePut u bs m).memOk := by
  unfold State.tracePut
  split
  · exact h
  · dsimp only
    split
    · exact h
    · exact Memory.wf_put _ _ _ h

theorem State.memOk_trace (s : State) (k e u : Nat) (c sl : Option Nat) (x : BitVec 16) (a b : DWord) (h : s.memOk) :
    (s.trace k e u c sl x a b).memOk := by
  unfold State.trace
  split
  · exact h
  · split
    · exact h
    · dsimp only
      split
      · exact State.memOk_tracePut _ _ _ _ h
      · exact State.memOk_tracePut _ _ _ _ (State.memOk_tracePut _ _ _ _ h)

/-- A machine without trace buffers writes no record. -/
theorem State.trace_none (s : State) (k e u : Nat) (c sl : Option Nat) (x : BitVec 16) (a b : DWord) (h : s.traces = []) :
    s.trace k e u c sl x a b = s := by
  unfold State.trace
  rw [h]
  rfl

theorem State.memOk_placeWord (s : State) (pa w : Nat) (h : s.memOk) : (s.placeWord pa w).memOk := Memory.wf_put _ _ _ h

end Sys2Proof.Machine
end

