-- ==== Sys2Proof/Laws/PerInstr.lean ====
section
/-!
SUPPORT. Laws/PerInstr.lean: the family Coding, one lemma per constructor: the word of an instruction is a word of 32 bits. The lemma
of a constructor that no word encodes holds for want of a word.
-/
set_option Elab.async false

namespace Sys2Proof

/-- The three fields that nearly all words share lie in bits 25 to 21. -/
theorem Ctl.bits_le (c : Ctl) : c.bits + 2097152 ≤ 67108864 := by
  have h := c.pi.isLt
  have hs : c.sp.toNat ≤ 1 := Bool.toNat_le c.sp
  have hn : c.n.toNat ≤ 1 := Bool.toNat_le c.n
  unfold Ctl.bits
  omega

/-- What the family says of an instruction: its word fits 32 bits. -/
def Laws.Coding.Statement (i : Instr) : Prop := ∀ w, encode i = some w → w < 2 ^ 32

theorem Laws.Coding.trap (ctl : Ctl) (c : BitVec 18) : Laws.Coding.Statement (.trap ctl c) := by
  intro w h
  simp only [encode, Option.some.injEq] at h
  have b := Ctl.bits_le ctl
  omega

theorem Laws.Coding.svc (ctl : Ctl) (c : BitVec 18) : Laws.Coding.Statement (.svc ctl c) := by
  intro w h
  simp only [encode, Option.some.injEq] at h
  have b := Ctl.bits_le ctl
  omega

theorem Laws.Coding.eret (ctl : Ctl) : Laws.Coding.Statement (.eret ctl) := by
  intro w h
  simp only [encode, Option.some.injEq] at h
  have b := Ctl.bits_le ctl
  omega

theorem Laws.Coding.nop (ctl : Ctl) : Laws.Coding.Statement (.nop ctl) := by
  intro w h
  simp only [encode, Option.some.injEq] at h
  have b := Ctl.bits_le ctl
  omega

theorem Laws.Coding.idem (ctl : Ctl) : Laws.Coding.Statement (.idem ctl) := by
  intro w h
  simp only [encode, Option.some.injEq] at h
  have b := Ctl.bits_le ctl
  omega

theorem Laws.Coding.nopre (ctl : Ctl) : Laws.Coding.Statement (.nopre ctl) := by
  intro w h
  simp only [encode, Option.some.injEq] at h
  have b := Ctl.bits_le ctl
  omega

theorem Laws.Coding.preon (ctl : Ctl) : Laws.Coding.Statement (.preon ctl) := by
  intro w h
  simp only [encode, Option.some.injEq] at h
  have b := Ctl.bits_le ctl
  omega

theorem Laws.Coding.ifence (ctl : Ctl) : Laws.Coding.Statement (.ifence ctl) := by
  intro w h
  simp only [encode, Option.some.injEq] at h
  have b := Ctl.bits_le ctl
  omega

theorem Laws.Coding.rdsr (ctl : Ctl) (d : BitVec 6) (a : BitVec 6) : Laws.Coding.Statement (.rdsr ctl d a) := by
  intro w h
  simp only [encode, Option.some.injEq] at h
  have b := Ctl.bits_le ctl
  omega

theorem Laws.Coding.wrsr (ctl : Ctl) (d : BitVec 6) (a : BitVec 6) : Laws.Coding.Statement (.wrsr ctl d a) := by
  intro w h
  simp only [encode, Option.some.injEq] at h
  have b := Ctl.bits_le ctl
  omega

theorem Laws.Coding.time (ctl : Ctl) (d : BitVec 6) : Laws.Coding.Statement (.time ctl d) := by
  intro w h
  simp only [encode, Option.some.injEq] at h
  have b := Ctl.bits_le ctl
  omega

theorem Laws.Coding.doze (ctl : Ctl) (a : BitVec 6) : Laws.Coding.Statement (.doze ctl a) := by
  intro w h
  simp only [encode, Option.some.injEq] at h
  have b := Ctl.bits_le ctl
  omega

theorem Laws.Coding.icinv (ctl : Ctl) (a : BitVec 6) (b : BitVec 6) : Laws.Coding.Statement (.icinv ctl a b) := by
  intro w h
  simp only [encode, Option.some.injEq] at h
  have b := Ctl.bits_le ctl
  omega

theorem Laws.Coding.braLane (ctl : Ctl) (h : BitVec 2) (o : BitVec 19) : Laws.Coding.Statement (.braLane ctl h o) := by
  intro w h
  simp only [encode, Option.some.injEq] at h
  have b := Ctl.bits_le ctl
  omega

theorem Laws.Coding.braUniform (ctl : Ctl) (h : BitVec 2) (o : BitVec 19) : Laws.Coding.Statement (.braUniform ctl h o) := by
  intro w h
  simp only [encode, Option.some.injEq] at h
  have b := Ctl.bits_le ctl
  omega

theorem Laws.Coding.call (ctl : Ctl) (h : BitVec 2) (o : BitVec 19) : Laws.Coding.Statement (.call ctl h o) := by
  intro w h
  simp only [encode, Option.some.injEq] at h
  have b := Ctl.bits_le ctl
  omega

theorem Laws.Coding.conv (sp : Bool) (o : BitVec 19) : Laws.Coding.Statement (.conv sp o) := by
  intro w h
  simp only [encode, Option.some.injEq] at h
  have b := Bool.toNat_le sp
  omega

theorem Laws.Coding.loop (ctl : Ctl) (d : BitVec 6) (i : BitVec 9) : Laws.Coding.Statement (.loop ctl d i) := by
  intro w h
  simp only [encode, Option.some.injEq] at h
  have b := Ctl.bits_le ctl
  omega

theorem Laws.Coding.brx (ctl : Ctl) (a : BitVec 6) : Laws.Coding.Statement (.brx ctl a) := by
  intro w h
  simp only [encode, Option.some.injEq] at h
  have b := Ctl.bits_le ctl
  omega

theorem Laws.Coding.ret (ctl : Ctl) (a : BitVec 6) : Laws.Coding.Statement (.ret ctl a) := by
  intro w h
  simp only [encode, Option.some.injEq] at h
  have b := Ctl.bits_le ctl
  omega

theorem Laws.Coding.exit (ctl : Ctl) : Laws.Coding.Statement (.exit ctl) := by
  intro w h
  simp only [encode, Option.some.injEq] at h
  have b := Ctl.bits_le ctl
  omega

theorem Laws.Coding.iadd (ctl : Ctl) (d : BitVec 6) (a : BitVec 6) (b : BitVec 6) : Laws.Coding.Statement (.iadd ctl d a b) := by
  intro w h
  simp only [encode, Option.some.injEq] at h
  have b := Ctl.bits_le ctl
  omega

theorem Laws.Coding.isub (ctl : Ctl) (d : BitVec 6) (a : BitVec 6) (b : BitVec 6) : Laws.Coding.Statement (.isub ctl d a b) := by
  intro w h
  simp only [encode, Option.some.injEq] at h
  have b := Ctl.bits_le ctl
  omega

theorem Laws.Coding.imul (ctl : Ctl) (d : BitVec 6) (a : BitVec 6) (b : BitVec 6) : Laws.Coding.Statement (.imul ctl d a b) := by
  intro w h
  simp only [encode, Option.some.injEq] at h
  have b := Ctl.bits_le ctl
  omega

theorem Laws.Coding.imulhS (ctl : Ctl) (d : BitVec 6) (a : BitVec 6) (b : BitVec 6) : Laws.Coding.Statement (.imulhS ctl d a b) := by
  intro w h
  simp only [encode, Option.some.injEq] at h
  have b := Ctl.bits_le ctl
  omega

theorem Laws.Coding.imulhN (ctl : Ctl) (d : BitVec 6) (a : BitVec 6) (b : BitVec 6) : Laws.Coding.Statement (.imulhN ctl d a b) := by
  intro w h
  simp only [encode, Option.some.injEq] at h
  have b := Ctl.bits_le ctl
  omega

theorem Laws.Coding.imad (ctl : Ctl) (d : BitVec 6) (a : BitVec 6) (b : BitVec 6) : Laws.Coding.Statement (.imad ctl d a b) := by
  intro w h
  simp only [encode, Option.some.injEq] at h
  have b := Ctl.bits_le ctl
  omega

theorem Laws.Coding.iminS (ctl : Ctl) (d : BitVec 6) (a : BitVec 6) (b : BitVec 6) : Laws.Coding.Statement (.iminS ctl d a b) := by
  intro w h
  simp only [encode, Option.some.injEq] at h
  have b := Ctl.bits_le ctl
  omega

theorem Laws.Coding.iminN (ctl : Ctl) (d : BitVec 6) (a : BitVec 6) (b : BitVec 6) : Laws.Coding.Statement (.iminN ctl d a b) := by
  intro w h
  simp only [encode, Option.some.injEq] at h
  have b := Ctl.bits_le ctl
  omega

theorem Laws.Coding.imaxS (ctl : Ctl) (d : BitVec 6) (a : BitVec 6) (b : BitVec 6) : Laws.Coding.Statement (.imaxS ctl d a b) := by
  intro w h
  simp only [encode, Option.some.injEq] at h
  have b := Ctl.bits_le ctl
  omega

theorem Laws.Coding.imaxN (ctl : Ctl) (d : BitVec 6) (a : BitVec 6) (b : BitVec 6) : Laws.Coding.Statement (.imaxN ctl d a b) := by
  intro w h
  simp only [encode, Option.some.injEq] at h
  have b := Ctl.bits_le ctl
  omega

theorem Laws.Coding.idivS (ctl : Ctl) (d : BitVec 6) (a : BitVec 6) (b : BitVec 6) : Laws.Coding.Statement (.idivS ctl d a b) := by
  intro w h
  simp only [encode, Option.some.injEq] at h
  have b := Ctl.bits_le ctl
  omega

theorem Laws.Coding.idivN (ctl : Ctl) (d : BitVec 6) (a : BitVec 6) (b : BitVec 6) : Laws.Coding.Statement (.idivN ctl d a b) := by
  intro w h
  simp only [encode, Option.some.injEq] at h
  have b := Ctl.bits_le ctl
  omega

theorem Laws.Coding.iremS (ctl : Ctl) (d : BitVec 6) (a : BitVec 6) (b : BitVec 6) : Laws.Coding.Statement (.iremS ctl d a b) := by
  intro w h
  simp only [encode, Option.some.injEq] at h
  have b := Ctl.bits_le ctl
  omega

theorem Laws.Coding.iremN (ctl : Ctl) (d : BitVec 6) (a : BitVec 6) (b : BitVec 6) : Laws.Coding.Statement (.iremN ctl d a b) := by
  intro w h
  simp only [encode, Option.some.injEq] at h
  have b := Ctl.bits_le ctl
  omega

theorem Laws.Coding.iabs (ctl : Ctl) (d : BitVec 6) (a : BitVec 6) : Laws.Coding.Statement (.iabs ctl d a) := by
  intro w h
  simp only [encode, Option.some.injEq] at h
  have b := Ctl.bits_le ctl
  omega

theorem Laws.Coding.ineg (ctl : Ctl) (d : BitVec 6) (a : BitVec 6) : Laws.Coding.Statement (.ineg ctl d a) := by
  intro w h
  simp only [encode, Option.some.injEq] at h
  have b := Ctl.bits_le ctl
  omega

theorem Laws.Coding.iaddPair (ctl : Ctl) (d : BitVec 6) (a : BitVec 6) (b : BitVec 6) : Laws.Coding.Statement (.iaddPair ctl d a b) := by
  intro w h
  simp only [encode, Option.some.injEq] at h
  have b := Ctl.bits_le ctl
  omega

theorem Laws.Coding.isubPair (ctl : Ctl) (d : BitVec 6) (a : BitVec 6) (b : BitVec 6) : Laws.Coding.Statement (.isubPair ctl d a b) := by
  intro w h
  simp only [encode, Option.some.injEq] at h
  have b := Ctl.bits_le ctl
  omega

theorem Laws.Coding.imulPair (ctl : Ctl) (d : BitVec 6) (a : BitVec 6) (b : BitVec 6) : Laws.Coding.Statement (.imulPair ctl d a b) := by
  intro w h
  simp only [encode, Option.some.injEq] at h
  have b := Ctl.bits_le ctl
  omega

theorem Laws.Coding.imulhSPair (ctl : Ctl) (d : BitVec 6) (a : BitVec 6) (b : BitVec 6) : Laws.Coding.Statement (.imulhSPair ctl d a b) := by
  intro w h
  simp only [encode, Option.some.injEq] at h
  have b := Ctl.bits_le ctl
  omega

theorem Laws.Coding.imulhNPair (ctl : Ctl) (d : BitVec 6) (a : BitVec 6) (b : BitVec 6) : Laws.Coding.Statement (.imulhNPair ctl d a b) := by
  intro w h
  simp only [encode, Option.some.injEq] at h
  have b := Ctl.bits_le ctl
  omega

theorem Laws.Coding.imadPair (ctl : Ctl) (d : BitVec 6) (a : BitVec 6) (b : BitVec 6) : Laws.Coding.Statement (.imadPair ctl d a b) := by
  intro w h
  simp only [encode, Option.some.injEq] at h
  have b := Ctl.bits_le ctl
  omega

theorem Laws.Coding.iminSPair (ctl : Ctl) (d : BitVec 6) (a : BitVec 6) (b : BitVec 6) : Laws.Coding.Statement (.iminSPair ctl d a b) := by
  intro w h
  simp only [encode, Option.some.injEq] at h
  have b := Ctl.bits_le ctl
  omega

theorem Laws.Coding.iminNPair (ctl : Ctl) (d : BitVec 6) (a : BitVec 6) (b : BitVec 6) : Laws.Coding.Statement (.iminNPair ctl d a b) := by
  intro w h
  simp only [encode, Option.some.injEq] at h
  have b := Ctl.bits_le ctl
  omega

theorem Laws.Coding.imaxSPair (ctl : Ctl) (d : BitVec 6) (a : BitVec 6) (b : BitVec 6) : Laws.Coding.Statement (.imaxSPair ctl d a b) := by
  intro w h
  simp only [encode, Option.some.injEq] at h
  have b := Ctl.bits_le ctl
  omega

theorem Laws.Coding.imaxNPair (ctl : Ctl) (d : BitVec 6) (a : BitVec 6) (b : BitVec 6) : Laws.Coding.Statement (.imaxNPair ctl d a b) := by
  intro w h
  simp only [encode, Option.some.injEq] at h
  have b := Ctl.bits_le ctl
  omega

theorem Laws.Coding.idivSPair (ctl : Ctl) (d : BitVec 6) (a : BitVec 6) (b : BitVec 6) : Laws.Coding.Statement (.idivSPair ctl d a b) := by
  intro w h
  simp only [encode, Option.some.injEq] at h
  have b := Ctl.bits_le ctl
  omega

theorem Laws.Coding.idivNPair (ctl : Ctl) (d : BitVec 6) (a : BitVec 6) (b : BitVec 6) : Laws.Coding.Statement (.idivNPair ctl d a b) := by
  intro w h
  simp only [encode, Option.some.injEq] at h
  have b := Ctl.bits_le ctl
  omega

theorem Laws.Coding.iremSPair (ctl : Ctl) (d : BitVec 6) (a : BitVec 6) (b : BitVec 6) : Laws.Coding.Statement (.iremSPair ctl d a b) := by
  intro w h
  simp only [encode, Option.some.injEq] at h
  have b := Ctl.bits_le ctl
  omega

theorem Laws.Coding.iremNPair (ctl : Ctl) (d : BitVec 6) (a : BitVec 6) (b : BitVec 6) : Laws.Coding.Statement (.iremNPair ctl d a b) := by
  intro w h
  simp only [encode, Option.some.injEq] at h
  have b := Ctl.bits_le ctl
  omega

theorem Laws.Coding.iabsPair (ctl : Ctl) (d : BitVec 6) (a : BitVec 6) : Laws.Coding.Statement (.iabsPair ctl d a) := by
  intro w h
  simp only [encode, Option.some.injEq] at h
  have b := Ctl.bits_le ctl
  omega

theorem Laws.Coding.inegPair (ctl : Ctl) (d : BitVec 6) (a : BitVec 6) : Laws.Coding.Statement (.inegPair ctl d a) := by
  intro w h
  simp only [encode, Option.some.injEq] at h
  have b := Ctl.bits_le ctl
  omega

theorem Laws.Coding.icmp (ctl : Ctl) (c : BitVec 3) (w : BitVec 1) (q : BitVec 3) (a : BitVec 6) (b : BitVec 6) : Laws.Coding.Statement (.icmp ctl c w q a b) := by
  intro w h
  simp only [encode, Option.some.injEq] at h
  have b := Ctl.bits_le ctl
  omega

theorem Laws.Coding.and (ctl : Ctl) (d : BitVec 6) (a : BitVec 6) (b : BitVec 6) : Laws.Coding.Statement (.and ctl d a b) := by
  intro w h
  simp only [encode, Option.some.injEq] at h
  have b := Ctl.bits_le ctl
  omega

theorem Laws.Coding.or (ctl : Ctl) (d : BitVec 6) (a : BitVec 6) (b : BitVec 6) : Laws.Coding.Statement (.or ctl d a b) := by
  intro w h
  simp only [encode, Option.some.injEq] at h
  have b := Ctl.bits_le ctl
  omega

theorem Laws.Coding.xor (ctl : Ctl) (d : BitVec 6) (a : BitVec 6) (b : BitVec 6) : Laws.Coding.Statement (.xor ctl d a b) := by
  intro w h
  simp only [encode, Option.some.injEq] at h
  have b := Ctl.bits_le ctl
  omega

theorem Laws.Coding.andn (ctl : Ctl) (d : BitVec 6) (a : BitVec 6) (b : BitVec 6) : Laws.Coding.Statement (.andn ctl d a b) := by
  intro w h
  simp only [encode, Option.some.injEq] at h
  have b := Ctl.bits_le ctl
  omega

theorem Laws.Coding.orn (ctl : Ctl) (d : BitVec 6) (a : BitVec 6) (b : BitVec 6) : Laws.Coding.Statement (.orn ctl d a b) := by
  intro w h
  simp only [encode, Option.some.injEq] at h
  have b := Ctl.bits_le ctl
  omega

theorem Laws.Coding.shl (ctl : Ctl) (d : BitVec 6) (a : BitVec 6) (b : BitVec 6) : Laws.Coding.Statement (.shl ctl d a b) := by
  intro w h
  simp only [encode, Option.some.injEq] at h
  have b := Ctl.bits_le ctl
  omega

theorem Laws.Coding.shrl (ctl : Ctl) (d : BitVec 6) (a : BitVec 6) (b : BitVec 6) : Laws.Coding.Statement (.shrl ctl d a b) := by
  intro w h
  simp only [encode, Option.some.injEq] at h
  have b := Ctl.bits_le ctl
  omega

theorem Laws.Coding.shra (ctl : Ctl) (d : BitVec 6) (a : BitVec 6) (b : BitVec 6) : Laws.Coding.Statement (.shra ctl d a b) := by
  intro w h
  simp only [encode, Option.some.injEq] at h
  have b := Ctl.bits_le ctl
  omega

theorem Laws.Coding.andPair (ctl : Ctl) (d : BitVec 6) (a : BitVec 6) (b : BitVec 6) : Laws.Coding.Statement (.andPair ctl d a b) := by
  intro w h
  simp only [encode, Option.some.injEq] at h
  have b := Ctl.bits_le ctl
  omega

theorem Laws.Coding.orPair (ctl : Ctl) (d : BitVec 6) (a : BitVec 6) (b : BitVec 6) : Laws.Coding.Statement (.orPair ctl d a b) := by
  intro w h
  simp only [encode, Option.some.injEq] at h
  have b := Ctl.bits_le ctl
  omega

theorem Laws.Coding.xorPair (ctl : Ctl) (d : BitVec 6) (a : BitVec 6) (b : BitVec 6) : Laws.Coding.Statement (.xorPair ctl d a b) := by
  intro w h
  simp only [encode, Option.some.injEq] at h
  have b := Ctl.bits_le ctl
  omega

theorem Laws.Coding.andnPair (ctl : Ctl) (d : BitVec 6) (a : BitVec 6) (b : BitVec 6) : Laws.Coding.Statement (.andnPair ctl d a b) := by
  intro w h
  simp only [encode, Option.some.injEq] at h
  have b := Ctl.bits_le ctl
  omega

theorem Laws.Coding.ornPair (ctl : Ctl) (d : BitVec 6) (a : BitVec 6) (b : BitVec 6) : Laws.Coding.Statement (.ornPair ctl d a b) := by
  intro w h
  simp only [encode, Option.some.injEq] at h
  have b := Ctl.bits_le ctl
  omega

theorem Laws.Coding.shlPair (ctl : Ctl) (d : BitVec 6) (a : BitVec 6) (b : BitVec 6) : Laws.Coding.Statement (.shlPair ctl d a b) := by
  intro w h
  simp only [encode, Option.some.injEq] at h
  have b := Ctl.bits_le ctl
  omega

theorem Laws.Coding.shrlPair (ctl : Ctl) (d : BitVec 6) (a : BitVec 6) (b : BitVec 6) : Laws.Coding.Statement (.shrlPair ctl d a b) := by
  intro w h
  simp only [encode, Option.some.injEq] at h
  have b := Ctl.bits_le ctl
  omega

theorem Laws.Coding.shraPair (ctl : Ctl) (d : BitVec 6) (a : BitVec 6) (b : BitVec 6) : Laws.Coding.Statement (.shraPair ctl d a b) := by
  intro w h
  simp only [encode, Option.some.injEq] at h
  have b := Ctl.bits_le ctl
  omega

theorem Laws.Coding.rotl (ctl : Ctl) (d : BitVec 6) (a : BitVec 6) (b : BitVec 6) : Laws.Coding.Statement (.rotl ctl d a b) := by
  intro w h
  simp only [encode, Option.some.injEq] at h
  have b := Ctl.bits_le ctl
  omega

theorem Laws.Coding.clz (ctl : Ctl) (d : BitVec 6) (a : BitVec 6) : Laws.Coding.Statement (.clz ctl d a) := by
  intro w h
  simp only [encode, Option.some.injEq] at h
  have b := Ctl.bits_le ctl
  omega

theorem Laws.Coding.ctz (ctl : Ctl) (d : BitVec 6) (a : BitVec 6) : Laws.Coding.Statement (.ctz ctl d a) := by
  intro w h
  simp only [encode, Option.some.injEq] at h
  have b := Ctl.bits_le ctl
  omega

theorem Laws.Coding.popc (ctl : Ctl) (d : BitVec 6) (a : BitVec 6) : Laws.Coding.Statement (.popc ctl d a) := by
  intro w h
  simp only [encode, Option.some.injEq] at h
  have b := Ctl.bits_le ctl
  omega

theorem Laws.Coding.brev (ctl : Ctl) (d : BitVec 6) (a : BitVec 6) : Laws.Coding.Statement (.brev ctl d a) := by
  intro w h
  simp only [encode, Option.some.injEq] at h
  have b := Ctl.bits_le ctl
  omega

theorem Laws.Coding.bfxN (ctl : Ctl) (d : BitVec 6) (a : BitVec 6) (b : BitVec 6) : Laws.Coding.Statement (.bfxN ctl d a b) := by
  intro w h
  simp only [encode, Option.some.injEq] at h
  have b := Ctl.bits_le ctl
  omega

theorem Laws.Coding.bfxS (ctl : Ctl) (d : BitVec 6) (a : BitVec 6) (b : BitVec 6) : Laws.Coding.Statement (.bfxS ctl d a b) := by
  intro w h
  simp only [encode, Option.some.injEq] at h
  have b := Ctl.bits_le ctl
  omega

theorem Laws.Coding.bsel (ctl : Ctl) (d : BitVec 6) (a : BitVec 6) (b : BitVec 6) : Laws.Coding.Statement (.bsel ctl d a b) := by
  intro w h
  simp only [encode, Option.some.injEq] at h
  have b := Ctl.bits_le ctl
  omega

theorem Laws.Coding.rotlPair (ctl : Ctl) (d : BitVec 6) (a : BitVec 6) (b : BitVec 6) : Laws.Coding.Statement (.rotlPair ctl d a b) := by
  intro w h
  simp only [encode, Option.some.injEq] at h
  have b := Ctl.bits_le ctl
  omega

theorem Laws.Coding.clzPair (ctl : Ctl) (d : BitVec 6) (a : BitVec 6) : Laws.Coding.Statement (.clzPair ctl d a) := by
  intro w h
  simp only [encode, Option.some.injEq] at h
  have b := Ctl.bits_le ctl
  omega

theorem Laws.Coding.ctzPair (ctl : Ctl) (d : BitVec 6) (a : BitVec 6) : Laws.Coding.Statement (.ctzPair ctl d a) := by
  intro w h
  simp only [encode, Option.some.injEq] at h
  have b := Ctl.bits_le ctl
  omega

theorem Laws.Coding.popcPair (ctl : Ctl) (d : BitVec 6) (a : BitVec 6) : Laws.Coding.Statement (.popcPair ctl d a) := by
  intro w h
  simp only [encode, Option.some.injEq] at h
  have b := Ctl.bits_le ctl
  omega

theorem Laws.Coding.brevPair (ctl : Ctl) (d : BitVec 6) (a : BitVec 6) : Laws.Coding.Statement (.brevPair ctl d a) := by
  intro w h
  simp only [encode, Option.some.injEq] at h
  have b := Ctl.bits_le ctl
  omega

theorem Laws.Coding.bfxNPair (ctl : Ctl) (d : BitVec 6) (a : BitVec 6) (b : BitVec 6) : Laws.Coding.Statement (.bfxNPair ctl d a b) := by
  intro w h
  simp only [encode, Option.some.injEq] at h
  have b := Ctl.bits_le ctl
  omega

theorem Laws.Coding.bfxSPair (ctl : Ctl) (d : BitVec 6) (a : BitVec 6) (b : BitVec 6) : Laws.Coding.Statement (.bfxSPair ctl d a b) := by
  intro w h
  simp only [encode, Option.some.injEq] at h
  have b := Ctl.bits_le ctl
  omega

theorem Laws.Coding.bfiB32 (ctl : Ctl) (d : BitVec 6) (a : BitVec 6) (b : BitVec 6) : Laws.Coding.Statement (.bfiB32 ctl d a b) := by
  intro w h
  simp only [encode, Option.some.injEq] at h
  have b := Ctl.bits_le ctl
  omega

theorem Laws.Coding.bfiB64 (ctl : Ctl) (d : BitVec 6) (a : BitVec 6) (b : BitVec 6) : Laws.Coding.Statement (.bfiB64 ctl d a b) := by
  intro w h
  simp only [encode, Option.some.injEq] at h
  have b := Ctl.bits_le ctl
  omega

theorem Laws.Coding.movB32 (ctl : Ctl) (d : BitVec 6) (b : BitVec 6) : Laws.Coding.Statement (.movB32 ctl d b) := by
  intro w h
  simp only [encode, Option.some.injEq] at h
  have b := Ctl.bits_le ctl
  omega

theorem Laws.Coding.movB64 (ctl : Ctl) (d : BitVec 6) (b : BitVec 6) : Laws.Coding.Statement (.movB64 ctl d b) := by
  intro w h
  simp only [encode, Option.some.injEq] at h
  have b := Ctl.bits_le ctl
  omega

theorem Laws.Coding.movB128 (ctl : Ctl) (d : BitVec 6) (b : BitVec 6) : Laws.Coding.Statement (.movB128 ctl d b) := by
  intro w h
  simp only [encode, Option.some.injEq] at h
  have b := Ctl.bits_le ctl
  omega

theorem Laws.Coding.pmovToReg (ctl : Ctl) (d : BitVec 6) : Laws.Coding.Statement (.pmovToReg ctl d) := by
  intro w h
  simp only [encode, Option.some.injEq] at h
  have b := Ctl.bits_le ctl
  omega

theorem Laws.Coding.pmovToPred (ctl : Ctl) (a : BitVec 6) : Laws.Coding.Statement (.pmovToPred ctl a) := by
  intro w h
  simp only [encode, Option.some.injEq] at h
  have b := Ctl.bits_le ctl
  omega

theorem Laws.Coding.sel (ctl : Ctl) (p : BitVec 3) (d : BitVec 6) (a : BitVec 6) (b : BitVec 6) : Laws.Coding.Statement (.sel ctl p d a b) := by
  intro w h
  simp only [encode, Option.some.injEq] at h
  have b := Ctl.bits_le ctl
  omega

theorem Laws.Coding.iaddImm (ctl : Ctl) (d : BitVec 6) (a : BitVec 6) (i : BitVec 9) : Laws.Coding.Statement (.iaddImm ctl d a i) := by
  intro w h
  simp only [encode, Option.some.injEq] at h
  have b := Ctl.bits_le ctl
  omega

theorem Laws.Coding.iaddImmPair (ctl : Ctl) (d : BitVec 6) (a : BitVec 6) (i : BitVec 9) : Laws.Coding.Statement (.iaddImmPair ctl d a i) := by
  intro w h
  simp only [encode, Option.some.injEq] at h
  have b := Ctl.bits_le ctl
  omega

theorem Laws.Coding.movi (ctl : Ctl) (d : BitVec 6) (w : BitVec 1) (i : BitVec 9) : Laws.Coding.Statement (.movi ctl d w i) := by
  intro w h
  simp only [encode, Option.some.injEq] at h
  have b := Ctl.bits_le ctl
  omega

theorem Laws.Coding.plut (ctl : Ctl) (x : BitVec 3) (d : BitVec 3) (z : BitVec 3) (y : BitVec 3) (f : BitVec 1) (t : BitVec 8) : Laws.Coding.Statement (.plut ctl x d z y f t) := by
  intro w h
  simp only [encode, Option.some.injEq] at h
  have b := Ctl.bits_le ctl
  omega

theorem Laws.Coding.lea (ctl : Ctl) (c : BitVec 3) (d : BitVec 6) (a : BitVec 6) (b : BitVec 6) : Laws.Coding.Statement (.lea ctl c d a b) := by
  intro w h
  simp only [encode, Option.some.injEq] at h
  have b := Ctl.bits_le ctl
  omega

theorem Laws.Coding.iaddU (ctl : Ctl) (d : BitVec 6) (a : BitVec 6) (b : BitVec 6) : Laws.Coding.Statement (.iaddU ctl d a b) := by
  intro w h
  simp only [encode, Option.some.injEq] at h
  have b := Ctl.bits_le ctl
  omega

theorem Laws.Coding.isubU (ctl : Ctl) (d : BitVec 6) (a : BitVec 6) (b : BitVec 6) : Laws.Coding.Statement (.isubU ctl d a b) := by
  intro w h
  simp only [encode, Option.some.injEq] at h
  have b := Ctl.bits_le ctl
  omega

theorem Laws.Coding.imulU (ctl : Ctl) (d : BitVec 6) (a : BitVec 6) (b : BitVec 6) : Laws.Coding.Statement (.imulU ctl d a b) := by
  intro w h
  simp only [encode, Option.some.injEq] at h
  have b := Ctl.bits_le ctl
  omega

theorem Laws.Coding.imulhSU (ctl : Ctl) (d : BitVec 6) (a : BitVec 6) (b : BitVec 6) : Laws.Coding.Statement (.imulhSU ctl d a b) := by
  intro w h
  simp only [encode, Option.some.injEq] at h
  have b := Ctl.bits_le ctl
  omega

theorem Laws.Coding.imulhNU (ctl : Ctl) (d : BitVec 6) (a : BitVec 6) (b : BitVec 6) : Laws.Coding.Statement (.imulhNU ctl d a b) := by
  intro w h
  simp only [encode, Option.some.injEq] at h
  have b := Ctl.bits_le ctl
  omega

theorem Laws.Coding.imadU (ctl : Ctl) (d : BitVec 6) (a : BitVec 6) (b : BitVec 6) : Laws.Coding.Statement (.imadU ctl d a b) := by
  intro w h
  simp only [encode, Option.some.injEq] at h
  have b := Ctl.bits_le ctl
  omega

theorem Laws.Coding.iminSU (ctl : Ctl) (d : BitVec 6) (a : BitVec 6) (b : BitVec 6) : Laws.Coding.Statement (.iminSU ctl d a b) := by
  intro w h
  simp only [encode, Option.some.injEq] at h
  have b := Ctl.bits_le ctl
  omega

theorem Laws.Coding.iminNU (ctl : Ctl) (d : BitVec 6) (a : BitVec 6) (b : BitVec 6) : Laws.Coding.Statement (.iminNU ctl d a b) := by
  intro w h
  simp only [encode, Option.some.injEq] at h
  have b := Ctl.bits_le ctl
  omega

theorem Laws.Coding.imaxSU (ctl : Ctl) (d : BitVec 6) (a : BitVec 6) (b : BitVec 6) : Laws.Coding.Statement (.imaxSU ctl d a b) := by
  intro w h
  simp only [encode, Option.some.injEq] at h
  have b := Ctl.bits_le ctl
  omega

theorem Laws.Coding.imaxNU (ctl : Ctl) (d : BitVec 6) (a : BitVec 6) (b : BitVec 6) : Laws.Coding.Statement (.imaxNU ctl d a b) := by
  intro w h
  simp only [encode, Option.some.injEq] at h
  have b := Ctl.bits_le ctl
  omega

theorem Laws.Coding.idivSU (ctl : Ctl) (d : BitVec 6) (a : BitVec 6) (b : BitVec 6) : Laws.Coding.Statement (.idivSU ctl d a b) := by
  intro w h
  simp only [encode, Option.some.injEq] at h
  have b := Ctl.bits_le ctl
  omega

theorem Laws.Coding.idivNU (ctl : Ctl) (d : BitVec 6) (a : BitVec 6) (b : BitVec 6) : Laws.Coding.Statement (.idivNU ctl d a b) := by
  intro w h
  simp only [encode, Option.some.injEq] at h
  have b := Ctl.bits_le ctl
  omega

theorem Laws.Coding.iremSU (ctl : Ctl) (d : BitVec 6) (a : BitVec 6) (b : BitVec 6) : Laws.Coding.Statement (.iremSU ctl d a b) := by
  intro w h
  simp only [encode, Option.some.injEq] at h
  have b := Ctl.bits_le ctl
  omega

theorem Laws.Coding.iremNU (ctl : Ctl) (d : BitVec 6) (a : BitVec 6) (b : BitVec 6) : Laws.Coding.Statement (.iremNU ctl d a b) := by
  intro w h
  simp only [encode, Option.some.injEq] at h
  have b := Ctl.bits_le ctl
  omega

theorem Laws.Coding.iabsU (ctl : Ctl) (d : BitVec 6) (a : BitVec 6) : Laws.Coding.Statement (.iabsU ctl d a) := by
  intro w h
  simp only [encode, Option.some.injEq] at h
  have b := Ctl.bits_le ctl
  omega

theorem Laws.Coding.inegU (ctl : Ctl) (d : BitVec 6) (a : BitVec 6) : Laws.Coding.Statement (.inegU ctl d a) := by
  intro w h
  simp only [encode, Option.some.injEq] at h
  have b := Ctl.bits_le ctl
  omega

theorem Laws.Coding.icmpU (ctl : Ctl) (c : BitVec 3) (q : BitVec 3) (a : BitVec 6) (b : BitVec 6) : Laws.Coding.Statement (.icmpU ctl c q a b) := by
  intro w h
  simp only [encode, Option.some.injEq] at h
  have b := Ctl.bits_le ctl
  omega

theorem Laws.Coding.andU (ctl : Ctl) (d : BitVec 6) (a : BitVec 6) (b : BitVec 6) : Laws.Coding.Statement (.andU ctl d a b) := by
  intro w h
  simp only [encode, Option.some.injEq] at h
  have b := Ctl.bits_le ctl
  omega

theorem Laws.Coding.orU (ctl : Ctl) (d : BitVec 6) (a : BitVec 6) (b : BitVec 6) : Laws.Coding.Statement (.orU ctl d a b) := by
  intro w h
  simp only [encode, Option.some.injEq] at h
  have b := Ctl.bits_le ctl
  omega

theorem Laws.Coding.xorU (ctl : Ctl) (d : BitVec 6) (a : BitVec 6) (b : BitVec 6) : Laws.Coding.Statement (.xorU ctl d a b) := by
  intro w h
  simp only [encode, Option.some.injEq] at h
  have b := Ctl.bits_le ctl
  omega

theorem Laws.Coding.andnU (ctl : Ctl) (d : BitVec 6) (a : BitVec 6) (b : BitVec 6) : Laws.Coding.Statement (.andnU ctl d a b) := by
  intro w h
  simp only [encode, Option.some.injEq] at h
  have b := Ctl.bits_le ctl
  omega

theorem Laws.Coding.ornU (ctl : Ctl) (d : BitVec 6) (a : BitVec 6) (b : BitVec 6) : Laws.Coding.Statement (.ornU ctl d a b) := by
  intro w h
  simp only [encode, Option.some.injEq] at h
  have b := Ctl.bits_le ctl
  omega

theorem Laws.Coding.shlU (ctl : Ctl) (d : BitVec 6) (a : BitVec 6) (b : BitVec 6) : Laws.Coding.Statement (.shlU ctl d a b) := by
  intro w h
  simp only [encode, Option.some.injEq] at h
  have b := Ctl.bits_le ctl
  omega

theorem Laws.Coding.shrlU (ctl : Ctl) (d : BitVec 6) (a : BitVec 6) (b : BitVec 6) : Laws.Coding.Statement (.shrlU ctl d a b) := by
  intro w h
  simp only [encode, Option.some.injEq] at h
  have b := Ctl.bits_le ctl
  omega

theorem Laws.Coding.shraU (ctl : Ctl) (d : BitVec 6) (a : BitVec 6) (b : BitVec 6) : Laws.Coding.Statement (.shraU ctl d a b) := by
  intro w h
  simp only [encode, Option.some.injEq] at h
  have b := Ctl.bits_le ctl
  omega

theorem Laws.Coding.rotlU (ctl : Ctl) (d : BitVec 6) (a : BitVec 6) (b : BitVec 6) : Laws.Coding.Statement (.rotlU ctl d a b) := by
  intro w h
  simp only [encode, Option.some.injEq] at h
  have b := Ctl.bits_le ctl
  omega

theorem Laws.Coding.clzU (ctl : Ctl) (d : BitVec 6) (a : BitVec 6) : Laws.Coding.Statement (.clzU ctl d a) := by
  intro w h
  simp only [encode, Option.some.injEq] at h
  have b := Ctl.bits_le ctl
  omega

theorem Laws.Coding.ctzU (ctl : Ctl) (d : BitVec 6) (a : BitVec 6) : Laws.Coding.Statement (.ctzU ctl d a) := by
  intro w h
  simp only [encode, Option.some.injEq] at h
  have b := Ctl.bits_le ctl
  omega

theorem Laws.Coding.popcU (ctl : Ctl) (d : BitVec 6) (a : BitVec 6) : Laws.Coding.Statement (.popcU ctl d a) := by
  intro w h
  simp only [encode, Option.some.injEq] at h
  have b := Ctl.bits_le ctl
  omega

theorem Laws.Coding.brevU (ctl : Ctl) (d : BitVec 6) (a : BitVec 6) : Laws.Coding.Statement (.brevU ctl d a) := by
  intro w h
  simp only [encode, Option.some.injEq] at h
  have b := Ctl.bits_le ctl
  omega

theorem Laws.Coding.bfxNU (ctl : Ctl) (d : BitVec 6) (a : BitVec 6) (b : BitVec 6) : Laws.Coding.Statement (.bfxNU ctl d a b) := by
  intro w h
  simp only [encode, Option.some.injEq] at h
  have b := Ctl.bits_le ctl
  omega

theorem Laws.Coding.bfxSU (ctl : Ctl) (d : BitVec 6) (a : BitVec 6) (b : BitVec 6) : Laws.Coding.Statement (.bfxSU ctl d a b) := by
  intro w h
  simp only [encode, Option.some.injEq] at h
  have b := Ctl.bits_le ctl
  omega

theorem Laws.Coding.bfiU (ctl : Ctl) (d : BitVec 6) (a : BitVec 6) (b : BitVec 6) : Laws.Coding.Statement (.bfiU ctl d a b) := by
  intro w h
  simp only [encode, Option.some.injEq] at h
  have b := Ctl.bits_le ctl
  omega

theorem Laws.Coding.movU (ctl : Ctl) (d : BitVec 6) (b : BitVec 6) : Laws.Coding.Statement (.movU ctl d b) := by
  intro w h
  simp only [encode, Option.some.injEq] at h
  have b := Ctl.bits_le ctl
  omega

theorem Laws.Coding.pmovCToS (ctl : Ctl) (d : BitVec 6) : Laws.Coding.Statement (.pmovCToS ctl d) := by
  intro w h
  simp only [encode, Option.some.injEq] at h
  have b := Ctl.bits_le ctl
  omega

theorem Laws.Coding.pmovSToC (ctl : Ctl) (a : BitVec 6) : Laws.Coding.Statement (.pmovSToC ctl a) := by
  intro w h
  simp only [encode, Option.some.injEq] at h
  have b := Ctl.bits_le ctl
  omega

theorem Laws.Coding.selU (ctl : Ctl) (p : BitVec 3) (d : BitVec 6) (a : BitVec 6) (b : BitVec 6) : Laws.Coding.Statement (.selU ctl p d a b) := by
  intro w h
  simp only [encode, Option.some.injEq] at h
  have b := Ctl.bits_le ctl
  omega

theorem Laws.Coding.leaU (ctl : Ctl) (c : BitVec 3) (d : BitVec 6) (a : BitVec 6) (b : BitVec 6) : Laws.Coding.Statement (.leaU ctl c d a b) := by
  intro w h
  simp only [encode, Option.some.injEq] at h
  have b := Ctl.bits_le ctl
  omega

theorem Laws.Coding.fadd (ctl : Ctl) (d : BitVec 6) (a : BitVec 6) (b : BitVec 6) : Laws.Coding.Statement (.fadd ctl d a b) := by
  intro w h
  simp only [encode, Option.some.injEq] at h
  have b := Ctl.bits_le ctl
  omega

theorem Laws.Coding.fsub (ctl : Ctl) (d : BitVec 6) (a : BitVec 6) (b : BitVec 6) : Laws.Coding.Statement (.fsub ctl d a b) := by
  intro w h
  simp only [encode, Option.some.injEq] at h
  have b := Ctl.bits_le ctl
  omega

theorem Laws.Coding.fmul (ctl : Ctl) (d : BitVec 6) (a : BitVec 6) (b : BitVec 6) : Laws.Coding.Statement (.fmul ctl d a b) := by
  intro w h
  simp only [encode, Option.some.injEq] at h
  have b := Ctl.bits_le ctl
  omega

theorem Laws.Coding.ffma (ctl : Ctl) (d : BitVec 6) (a : BitVec 6) (b : BitVec 6) : Laws.Coding.Statement (.ffma ctl d a b) := by
  intro w h
  simp only [encode, Option.some.injEq] at h
  have b := Ctl.bits_le ctl
  omega

theorem Laws.Coding.fmin (ctl : Ctl) (d : BitVec 6) (a : BitVec 6) (b : BitVec 6) : Laws.Coding.Statement (.fmin ctl d a b) := by
  intro w h
  simp only [encode, Option.some.injEq] at h
  have b := Ctl.bits_le ctl
  omega

theorem Laws.Coding.fmax (ctl : Ctl) (d : BitVec 6) (a : BitVec 6) (b : BitVec 6) : Laws.Coding.Statement (.fmax ctl d a b) := by
  intro w h
  simp only [encode, Option.some.injEq] at h
  have b := Ctl.bits_le ctl
  omega

theorem Laws.Coding.fdiv (ctl : Ctl) (d : BitVec 6) (a : BitVec 6) (b : BitVec 6) : Laws.Coding.Statement (.fdiv ctl d a b) := by
  intro w h
  simp only [encode, Option.some.injEq] at h
  have b := Ctl.bits_le ctl
  omega

theorem Laws.Coding.fsqrt (ctl : Ctl) (d : BitVec 6) (a : BitVec 6) : Laws.Coding.Statement (.fsqrt ctl d a) := by
  intro w h
  simp only [encode, Option.some.injEq] at h
  have b := Ctl.bits_le ctl
  omega

theorem Laws.Coding.frnd (ctl : Ctl) (d : BitVec 6) (a : BitVec 6) : Laws.Coding.Statement (.frnd ctl d a) := by
  intro w h
  simp only [encode, Option.some.injEq] at h
  have b := Ctl.bits_le ctl
  omega

theorem Laws.Coding.frcp (ctl : Ctl) (d : BitVec 6) (a : BitVec 6) : Laws.Coding.Statement (.frcp ctl d a) := by
  intro w h
  simp only [encode, Option.some.injEq] at h
  have b := Ctl.bits_le ctl
  omega

theorem Laws.Coding.frsq (ctl : Ctl) (d : BitVec 6) (a : BitVec 6) : Laws.Coding.Statement (.frsq ctl d a) := by
  intro w h
  simp only [encode, Option.some.injEq] at h
  have b := Ctl.bits_le ctl
  omega

theorem Laws.Coding.fexp2 (ctl : Ctl) (d : BitVec 6) (a : BitVec 6) : Laws.Coding.Statement (.fexp2 ctl d a) := by
  intro w h
  simp only [encode, Option.some.injEq] at h
  have b := Ctl.bits_le ctl
  omega

theorem Laws.Coding.flog2 (ctl : Ctl) (d : BitVec 6) (a : BitVec 6) : Laws.Coding.Statement (.flog2 ctl d a) := by
  intro w h
  simp only [encode, Option.some.injEq] at h
  have b := Ctl.bits_le ctl
  omega

theorem Laws.Coding.fsin (ctl : Ctl) (d : BitVec 6) (a : BitVec 6) : Laws.Coding.Statement (.fsin ctl d a) := by
  intro w h
  simp only [encode, Option.some.injEq] at h
  have b := Ctl.bits_le ctl
  omega

theorem Laws.Coding.fcos (ctl : Ctl) (d : BitVec 6) (a : BitVec 6) : Laws.Coding.Statement (.fcos ctl d a) := by
  intro w h
  simp only [encode, Option.some.injEq] at h
  have b := Ctl.bits_le ctl
  omega

theorem Laws.Coding.fclass (ctl : Ctl) (d : BitVec 6) (a : BitVec 6) : Laws.Coding.Statement (.fclass ctl d a) := by
  intro w h
  simp only [encode, Option.some.injEq] at h
  have b := Ctl.bits_le ctl
  omega

theorem Laws.Coding.faddF64 (ctl : Ctl) (d : BitVec 6) (a : BitVec 6) (b : BitVec 6) : Laws.Coding.Statement (.faddF64 ctl d a b) := by
  intro w h
  simp only [encode, Option.some.injEq] at h
  have b := Ctl.bits_le ctl
  omega

theorem Laws.Coding.fsubF64 (ctl : Ctl) (d : BitVec 6) (a : BitVec 6) (b : BitVec 6) : Laws.Coding.Statement (.fsubF64 ctl d a b) := by
  intro w h
  simp only [encode, Option.some.injEq] at h
  have b := Ctl.bits_le ctl
  omega

theorem Laws.Coding.fmulF64 (ctl : Ctl) (d : BitVec 6) (a : BitVec 6) (b : BitVec 6) : Laws.Coding.Statement (.fmulF64 ctl d a b) := by
  intro w h
  simp only [encode, Option.some.injEq] at h
  have b := Ctl.bits_le ctl
  omega

theorem Laws.Coding.ffmaF64 (ctl : Ctl) (d : BitVec 6) (a : BitVec 6) (b : BitVec 6) : Laws.Coding.Statement (.ffmaF64 ctl d a b) := by
  intro w h
  simp only [encode, Option.some.injEq] at h
  have b := Ctl.bits_le ctl
  omega

theorem Laws.Coding.fminF64 (ctl : Ctl) (d : BitVec 6) (a : BitVec 6) (b : BitVec 6) : Laws.Coding.Statement (.fminF64 ctl d a b) := by
  intro w h
  simp only [encode, Option.some.injEq] at h
  have b := Ctl.bits_le ctl
  omega

theorem Laws.Coding.fmaxF64 (ctl : Ctl) (d : BitVec 6) (a : BitVec 6) (b : BitVec 6) : Laws.Coding.Statement (.fmaxF64 ctl d a b) := by
  intro w h
  simp only [encode, Option.some.injEq] at h
  have b := Ctl.bits_le ctl
  omega

theorem Laws.Coding.fdivF64 (ctl : Ctl) (d : BitVec 6) (a : BitVec 6) (b : BitVec 6) : Laws.Coding.Statement (.fdivF64 ctl d a b) := by
  intro w h
  simp only [encode, Option.some.injEq] at h
  have b := Ctl.bits_le ctl
  omega

theorem Laws.Coding.fsqrtF64 (ctl : Ctl) (d : BitVec 6) (a : BitVec 6) : Laws.Coding.Statement (.fsqrtF64 ctl d a) := by
  intro w h
  simp only [encode, Option.some.injEq] at h
  have b := Ctl.bits_le ctl
  omega

theorem Laws.Coding.frndF64 (ctl : Ctl) (d : BitVec 6) (a : BitVec 6) : Laws.Coding.Statement (.frndF64 ctl d a) := by
  intro w h
  simp only [encode, Option.some.injEq] at h
  have b := Ctl.bits_le ctl
  omega

theorem Laws.Coding.frcpF64 (ctl : Ctl) (d : BitVec 6) (a : BitVec 6) : Laws.Coding.Statement (.frcpF64 ctl d a) := by
  intro w h
  simp only [encode, Option.some.injEq] at h
  have b := Ctl.bits_le ctl
  omega

theorem Laws.Coding.frsqF64 (ctl : Ctl) (d : BitVec 6) (a : BitVec 6) : Laws.Coding.Statement (.frsqF64 ctl d a) := by
  intro w h
  simp only [encode, Option.some.injEq] at h
  have b := Ctl.bits_le ctl
  omega

theorem Laws.Coding.fclassF64 (ctl : Ctl) (d : BitVec 6) (a : BitVec 6) : Laws.Coding.Statement (.fclassF64 ctl d a) := by
  intro w h
  simp only [encode, Option.some.injEq] at h
  have b := Ctl.bits_le ctl
  omega

theorem Laws.Coding.fcmp (ctl : Ctl) (c : BitVec 3) (w : BitVec 1) (q : BitVec 3) (a : BitVec 6) (b : BitVec 6) : Laws.Coding.Statement (.fcmp ctl c w q a b) := by
  intro w h
  simp only [encode, Option.some.injEq] at h
  have b := Ctl.bits_le ctl
  omega

theorem Laws.Coding.pkaddF16 (ctl : Ctl) (d : BitVec 6) (a : BitVec 6) (b : BitVec 6) : Laws.Coding.Statement (.pkaddF16 ctl d a b) := by
  intro w h
  simp only [encode, Option.some.injEq] at h
  have b := Ctl.bits_le ctl
  omega

theorem Laws.Coding.pkmulF16 (ctl : Ctl) (d : BitVec 6) (a : BitVec 6) (b : BitVec 6) : Laws.Coding.Statement (.pkmulF16 ctl d a b) := by
  intro w h
  simp only [encode, Option.some.injEq] at h
  have b := Ctl.bits_le ctl
  omega

theorem Laws.Coding.pkfmaF16 (ctl : Ctl) (d : BitVec 6) (a : BitVec 6) (b : BitVec 6) : Laws.Coding.Statement (.pkfmaF16 ctl d a b) := by
  intro w h
  simp only [encode, Option.some.injEq] at h
  have b := Ctl.bits_le ctl
  omega

theorem Laws.Coding.pkaddBf16 (ctl : Ctl) (d : BitVec 6) (a : BitVec 6) (b : BitVec 6) : Laws.Coding.Statement (.pkaddBf16 ctl d a b) := by
  intro w h
  simp only [encode, Option.some.injEq] at h
  have b := Ctl.bits_le ctl
  omega

theorem Laws.Coding.pkmulBf16 (ctl : Ctl) (d : BitVec 6) (a : BitVec 6) (b : BitVec 6) : Laws.Coding.Statement (.pkmulBf16 ctl d a b) := by
  intro w h
  simp only [encode, Option.some.injEq] at h
  have b := Ctl.bits_le ctl
  omega

theorem Laws.Coding.pkfmaBf16 (ctl : Ctl) (d : BitVec 6) (a : BitVec 6) (b : BitVec 6) : Laws.Coding.Statement (.pkfmaBf16 ctl d a b) := by
  intro w h
  simp only [encode, Option.some.injEq] at h
  have b := Ctl.bits_le ctl
  omega

theorem Laws.Coding.idp4S8 (ctl : Ctl) (d : BitVec 6) (a : BitVec 6) (b : BitVec 6) : Laws.Coding.Statement (.idp4S8 ctl d a b) := by
  intro w h
  simp only [encode, Option.some.injEq] at h
  have b := Ctl.bits_le ctl
  omega

theorem Laws.Coding.idp4N8 (ctl : Ctl) (d : BitVec 6) (a : BitVec 6) (b : BitVec 6) : Laws.Coding.Statement (.idp4N8 ctl d a b) := by
  intro w h
  simp only [encode, Option.some.injEq] at h
  have b := Ctl.bits_le ctl
  omega

theorem Laws.Coding.qnt (ctl : Ctl) (d : BitVec 6) (a : BitVec 6) (f : BitVec 5) : Laws.Coding.Statement (.qnt ctl d a f) := by
  intro w h
  simp only [encode, Option.some.injEq] at h
  have b := Ctl.bits_le ctl
  omega

theorem Laws.Coding.deq (ctl : Ctl) (d : BitVec 6) (a : BitVec 6) (f : BitVec 5) : Laws.Coding.Statement (.deq ctl d a f) := by
  intro w h
  simp only [encode, Option.some.injEq] at h
  have b := Ctl.bits_le ctl
  omega

theorem Laws.Coding.scale (ctl : Ctl) (d : BitVec 6) (a : BitVec 6) (f : BitVec 5) : Laws.Coding.Statement (.scale ctl d a f) := by
  intro w h
  simp only [encode, Option.some.injEq] at h
  have b := Ctl.bits_le ctl
  omega

theorem Laws.Coding.sacc (ctl : Ctl) (d : BitVec 6) (a : BitVec 6) (f : BitVec 5) : Laws.Coding.Statement (.sacc ctl d a f) := by
  intro w h
  simp only [encode, Option.some.injEq] at h
  have b := Ctl.bits_le ctl
  omega

theorem Laws.Coding.cvt (ctl : Ctl) (c : BitVec 3) (d : BitVec 6) (a : BitVec 6) (f : BitVec 6) : Laws.Coding.Statement (.cvt ctl c d a f) := by
  intro w h
  simp only [encode, Option.some.injEq] at h
  have b := Ctl.bits_le ctl
  omega

theorem Laws.Coding.lgetAt (ctl : Ctl) (d : BitVec 6) (a : BitVec 6) (b : BitVec 6) : Laws.Coding.Statement (.lgetAt ctl d a b) := by
  intro w h
  simp only [encode, Option.some.injEq] at h
  have b := Ctl.bits_le ctl
  omega

theorem Laws.Coding.lgetLo (ctl : Ctl) (d : BitVec 6) (a : BitVec 6) (b : BitVec 6) : Laws.Coding.Statement (.lgetLo ctl d a b) := by
  intro w h
  simp only [encode, Option.some.injEq] at h
  have b := Ctl.bits_le ctl
  omega

theorem Laws.Coding.lgetHi (ctl : Ctl) (d : BitVec 6) (a : BitVec 6) (b : BitVec 6) : Laws.Coding.Statement (.lgetHi ctl d a b) := by
  intro w h
  simp only [encode, Option.some.injEq] at h
  have b := Ctl.bits_le ctl
  omega

theorem Laws.Coding.lgetXr (ctl : Ctl) (d : BitVec 6) (a : BitVec 6) (b : BitVec 6) : Laws.Coding.Statement (.lgetXr ctl d a b) := by
  intro w h
  simp only [encode, Option.some.injEq] at h
  have b := Ctl.bits_le ctl
  omega

theorem Laws.Coding.ballot (ctl : Ctl) (d : BitVec 6) (p : BitVec 3) : Laws.Coding.Statement (.ballot ctl d p) := by
  intro w h
  simp only [encode, Option.some.injEq] at h
  have b := Ctl.bits_le ctl
  omega

theorem Laws.Coding.voteAny (ctl : Ctl) (q : BitVec 3) (p : BitVec 3) : Laws.Coding.Statement (.voteAny ctl q p) := by
  intro w h
  simp only [encode, Option.some.injEq] at h
  have b := Ctl.bits_le ctl
  omega

theorem Laws.Coding.voteAll (ctl : Ctl) (q : BitVec 3) (p : BitVec 3) : Laws.Coding.Statement (.voteAll ctl q p) := by
  intro w h
  simp only [encode, Option.some.injEq] at h
  have b := Ctl.bits_le ctl
  omega

theorem Laws.Coding.voteSame (ctl : Ctl) (q : BitVec 3) (p : BitVec 3) : Laws.Coding.Statement (.voteSame ctl q p) := by
  intro w h
  simp only [encode, Option.some.injEq] at h
  have b := Ctl.bits_le ctl
  omega

theorem Laws.Coding.gred (ctl : Ctl) (d : BitVec 6) (a : BitVec 6) (t : BitVec 3) (o : BitVec 3) : Laws.Coding.Statement (.gred ctl d a t o) := by
  intro w h
  simp only [encode, Option.some.injEq] at h
  have b := Ctl.bits_le ctl
  omega

theorem Laws.Coding.gscan (ctl : Ctl) (d : BitVec 6) (a : BitVec 6) (t : BitVec 3) (o : BitVec 3) : Laws.Coding.Statement (.gscan ctl d a t o) := by
  intro w h
  simp only [encode, Option.some.injEq] at h
  have b := Ctl.bits_le ctl
  omega

theorem Laws.Coding.bxch (ctl : Ctl) (d : BitVec 6) (a : BitVec 6) (m : BitVec 6) (k : BitVec 3) : Laws.Coding.Statement (.bxch ctl d a m k) := by
  intro w h
  simp only [encode, Option.some.injEq] at h
  have b := Ctl.bits_le ctl
  omega

theorem Laws.Coding.span (ctl : Ctl) (p : BitVec 2) : Laws.Coding.Statement (.span ctl p) := by
  intro w h
  simp only [encode, Option.some.injEq] at h
  have b := Ctl.bits_le ctl
  omega

theorem Laws.Coding.spanq (ctl : Ctl) (d : BitVec 6) : Laws.Coding.Statement (.spanq ctl d) := by
  intro w h
  simp only [encode, Option.some.injEq] at h
  have b := Ctl.bits_le ctl
  omega

theorem Laws.Coding.give (ctl : Ctl) (b : BitVec 6) : Laws.Coding.Statement (.give ctl b) := by
  intro w h
  simp only [encode, Option.some.injEq] at h
  have b := Ctl.bits_le ctl
  omega

theorem Laws.Coding.claim (ctl : Ctl) (b : BitVec 6) : Laws.Coding.Statement (.claim ctl b) := by
  intro w h
  simp only [encode, Option.some.injEq] at h
  have b := Ctl.bits_le ctl
  omega

theorem Laws.Coding.ldg (ctl : Ctl) (l : BitVec 4) (r : BitVec 6) (t : BitVec 3) (o : BitVec 6) (w : BitVec 2) : Laws.Coding.Statement (.ldg ctl l r t o w) := by
  intro w h
  simp only [encode, Option.some.injEq] at h
  have b := Ctl.bits_le ctl
  omega

theorem Laws.Coding.stg (ctl : Ctl) (r : BitVec 6) (t : BitVec 3) (o : BitVec 6) (w : BitVec 2) : Laws.Coding.Statement (.stg ctl r t o w) := by
  intro w h
  simp only [encode, Option.some.injEq] at h
  have b := Ctl.bits_le ctl
  omega

theorem Laws.Coding.ldk (ctl : Ctl) (l : BitVec 4) (r : BitVec 6) (t : BitVec 3) (o : BitVec 6) (w : BitVec 2) : Laws.Coding.Statement (.ldk ctl l r t o w) := by
  intro w h
  simp only [encode, Option.some.injEq] at h
  have b := Ctl.bits_le ctl
  omega

theorem Laws.Coding.stk (ctl : Ctl) (r : BitVec 6) (t : BitVec 3) (o : BitVec 6) (w : BitVec 2) : Laws.Coding.Statement (.stk ctl r t o w) := by
  intro w h
  simp only [encode, Option.some.injEq] at h
  have b := Ctl.bits_le ctl
  omega

theorem Laws.Coding.lds (ctl : Ctl) (l : BitVec 4) (r : BitVec 6) (o : BitVec 6) (w : BitVec 2) : Laws.Coding.Statement (.lds ctl l r o w) := by
  intro w h
  simp only [encode, Option.some.injEq] at h
  have b := Ctl.bits_le ctl
  omega

theorem Laws.Coding.sts (ctl : Ctl) (r : BitVec 6) (o : BitVec 6) (w : BitVec 2) : Laws.Coding.Statement (.sts ctl r o w) := by
  intro w h
  simp only [encode, Option.some.injEq] at h
  have b := Ctl.bits_le ctl
  omega

theorem Laws.Coding.ldfTake (ctl : Ctl) (l : BitVec 4) (r : BitVec 6) (o : BitVec 6) : Laws.Coding.Statement (.ldfTake ctl l r o) := by
  intro w h
  simp only [encode, Option.some.injEq] at h
  have b := Ctl.bits_le ctl
  omega

theorem Laws.Coding.ldfPeek (ctl : Ctl) (l : BitVec 4) (r : BitVec 6) (o : BitVec 6) : Laws.Coding.Statement (.ldfPeek ctl l r o) := by
  intro w h
  simp only [encode, Option.some.injEq] at h
  have b := Ctl.bits_le ctl
  omega

theorem Laws.Coding.ste (ctl : Ctl) (l : BitVec 4) (r : BitVec 6) (o : BitVec 6) : Laws.Coding.Statement (.ste ctl l r o) := by
  intro w h
  simp only [encode, Option.some.injEq] at h
  have b := Ctl.bits_le ctl
  omega

theorem Laws.Coding.stf (ctl : Ctl) (r : BitVec 6) (o : BitVec 6) : Laws.Coding.Statement (.stf ctl r o) := by
  intro w h
  simp only [encode, Option.some.injEq] at h
  have b := Ctl.bits_le ctl
  omega

theorem Laws.Coding.tagq (ctl : Ctl) (l : BitVec 4) (r : BitVec 6) (o : BitVec 6) : Laws.Coding.Statement (.tagq ctl l r o) := by
  intro w h
  simp only [encode, Option.some.injEq] at h
  have b := Ctl.bits_le ctl
  omega

theorem Laws.Coding.tags (ctl : Ctl) (v : BitVec 1) (o : BitVec 6) (w : BitVec 2) : Laws.Coding.Statement (.tags ctl v o w) := by
  intro w h
  simp only [encode, Option.some.injEq] at h
  have b := Ctl.bits_le ctl
  omega

theorem Laws.Coding.ldd (ctl : Ctl) (l : BitVec 4) (r : BitVec 6) (o : BitVec 6) (w : BitVec 2) : Laws.Coding.Statement (.ldd ctl l r o w) := by
  intro w h
  simp only [encode, Option.some.injEq] at h
  have b := Ctl.bits_le ctl
  omega

theorem Laws.Coding.std (ctl : Ctl) (r : BitVec 6) (o : BitVec 6) (w : BitVec 2) : Laws.Coding.Statement (.std ctl r o w) := by
  intro w h
  simp only [encode, Option.some.injEq] at h
  have b := Ctl.bits_le ctl
  omega

theorem Laws.Coding.atomAdd (ctl : Ctl) (l : BitVec 4) (r : BitVec 5) (t : BitVec 3) (o : BitVec 6) (w : BitVec 1) : Laws.Coding.Statement (.atomAdd ctl l r t o w) := by
  intro w h
  simp only [encode, Option.some.injEq] at h
  have b := Ctl.bits_le ctl
  omega

theorem Laws.Coding.atomExch (ctl : Ctl) (l : BitVec 4) (r : BitVec 5) (t : BitVec 3) (o : BitVec 6) (w : BitVec 1) : Laws.Coding.Statement (.atomExch ctl l r t o w) := by
  intro w h
  simp only [encode, Option.some.injEq] at h
  have b := Ctl.bits_le ctl
  omega

theorem Laws.Coding.atomCas (ctl : Ctl) (l : BitVec 4) (r : BitVec 5) (t : BitVec 3) (o : BitVec 6) (w : BitVec 1) : Laws.Coding.Statement (.atomCas ctl l r t o w) := by
  intro w h
  simp only [encode, Option.some.injEq] at h
  have b := Ctl.bits_le ctl
  omega

theorem Laws.Coding.atomAnd (ctl : Ctl) (l : BitVec 4) (r : BitVec 5) (t : BitVec 3) (o : BitVec 6) (w : BitVec 1) : Laws.Coding.Statement (.atomAnd ctl l r t o w) := by
  intro w h
  simp only [encode, Option.some.injEq] at h
  have b := Ctl.bits_le ctl
  omega

theorem Laws.Coding.atomOr (ctl : Ctl) (l : BitVec 4) (r : BitVec 5) (t : BitVec 3) (o : BitVec 6) (w : BitVec 1) : Laws.Coding.Statement (.atomOr ctl l r t o w) := by
  intro w h
  simp only [encode, Option.some.injEq] at h
  have b := Ctl.bits_le ctl
  omega

theorem Laws.Coding.atomXor (ctl : Ctl) (l : BitVec 4) (r : BitVec 5) (t : BitVec 3) (o : BitVec 6) (w : BitVec 1) : Laws.Coding.Statement (.atomXor ctl l r t o w) := by
  intro w h
  simp only [encode, Option.some.injEq] at h
  have b := Ctl.bits_le ctl
  omega

theorem Laws.Coding.atomMinS (ctl : Ctl) (l : BitVec 4) (r : BitVec 5) (t : BitVec 3) (o : BitVec 6) (w : BitVec 1) : Laws.Coding.Statement (.atomMinS ctl l r t o w) := by
  intro w h
  simp only [encode, Option.some.injEq] at h
  have b := Ctl.bits_le ctl
  omega

theorem Laws.Coding.atomMaxS (ctl : Ctl) (l : BitVec 4) (r : BitVec 5) (t : BitVec 3) (o : BitVec 6) (w : BitVec 1) : Laws.Coding.Statement (.atomMaxS ctl l r t o w) := by
  intro w h
  simp only [encode, Option.some.injEq] at h
  have b := Ctl.bits_le ctl
  omega

theorem Laws.Coding.atomMinN (ctl : Ctl) (l : BitVec 4) (r : BitVec 5) (t : BitVec 3) (o : BitVec 6) (w : BitVec 1) : Laws.Coding.Statement (.atomMinN ctl l r t o w) := by
  intro w h
  simp only [encode, Option.some.injEq] at h
  have b := Ctl.bits_le ctl
  omega

theorem Laws.Coding.atomMaxN (ctl : Ctl) (l : BitVec 4) (r : BitVec 5) (t : BitVec 3) (o : BitVec 6) (w : BitVec 1) : Laws.Coding.Statement (.atomMaxN ctl l r t o w) := by
  intro w h
  simp only [encode, Option.some.injEq] at h
  have b := Ctl.bits_le ctl
  omega

theorem Laws.Coding.atomFadd (ctl : Ctl) (l : BitVec 4) (r : BitVec 5) (t : BitVec 3) (o : BitVec 6) (w : BitVec 1) : Laws.Coding.Statement (.atomFadd ctl l r t o w) := by
  intro w h
  simp only [encode, Option.some.injEq] at h
  have b := Ctl.bits_le ctl
  omega

theorem Laws.Coding.xlate (ctl : Ctl) (l : BitVec 4) (t : BitVec 3) (o : BitVec 6) : Laws.Coding.Statement (.xlate ctl l t o) := by
  intro w h
  simp only [encode, Option.some.injEq] at h
  have b := Ctl.bits_le ctl
  omega

theorem Laws.Coding.pref (ctl : Ctl) (l : BitVec 4) (t : BitVec 3) (o : BitVec 6) : Laws.Coding.Statement (.pref ctl l t o) := by
  intro w h
  simp only [encode, Option.some.injEq] at h
  have b := Ctl.bits_le ctl
  omega

theorem Laws.Coding.cflush (ctl : Ctl) (l : BitVec 4) (t : BitVec 3) (o : BitVec 6) : Laws.Coding.Statement (.cflush ctl l t o) := by
  intro w h
  simp only [encode, Option.some.injEq] at h
  have b := Ctl.bits_le ctl
  omega

theorem Laws.Coding.cinv (ctl : Ctl) (l : BitVec 4) (t : BitVec 3) (o : BitVec 6) : Laws.Coding.Statement (.cinv ctl l t o) := by
  intro w h
  simp only [encode, Option.some.injEq] at h
  have b := Ctl.bits_le ctl
  omega

theorem Laws.Coding.phase (ctl : Ctl) (l : BitVec 4) (t : BitVec 3) : Laws.Coding.Statement (.phase ctl l t) := by
  intro w h
  simp only [encode, Option.some.injEq] at h
  have b := Ctl.bits_le ctl
  omega

theorem Laws.Coding.fence (ctl : Ctl) (l : BitVec 4) (t : BitVec 3) : Laws.Coding.Statement (.fence ctl l t) := by
  intro w h
  simp only [encode, Option.some.injEq] at h
  have b := Ctl.bits_le ctl
  omega

theorem Laws.Coding.fenceE (ctl : Ctl) (l : BitVec 4) (t : BitVec 3) : Laws.Coding.Statement (.fenceE ctl l t) := by
  intro w h
  simp only [encode, Option.some.injEq] at h
  have b := Ctl.bits_le ctl
  omega

theorem Laws.Coding.red32 (ctl : Ctl) (c : BitVec 4) (r : BitVec 6) (t : BitVec 3) (o : BitVec 6) : Laws.Coding.Statement (.red32 ctl c r t o) := by
  intro w h
  simp only [encode, Option.some.injEq] at h
  have b := Ctl.bits_le ctl
  omega

theorem Laws.Coding.red64 (ctl : Ctl) (c : BitVec 4) (r : BitVec 6) (t : BitVec 3) (o : BitVec 6) : Laws.Coding.Statement (.red64 ctl c r t o) := by
  intro w h
  simp only [encode, Option.some.injEq] at h
  have b := Ctl.bits_le ctl
  omega

theorem Laws.Coding.copy (ctl : Ctl) (l : BitVec 4) (x : BitVec 6) (y : BitVec 6) : Laws.Coding.Statement (.copy ctl l x y) := by
  intro w h
  simp only [encode, Option.some.injEq] at h
  have b := Ctl.bits_le ctl
  omega

theorem Laws.Coding.waitge (ctl : Ctl) (x : BitVec 6) (y : BitVec 6) : Laws.Coding.Statement (.waitge ctl x y) := by
  intro w h
  simp only [encode, Option.some.injEq] at h
  have b := Ctl.bits_le ctl
  omega

theorem Laws.Coding.waitgeContinuation (ctl : Ctl) (x : BitVec 6) (y : BitVec 6) : Laws.Coding.Statement (.waitgeContinuation ctl x y) := by
  intro w h
  simp only [encode, Option.some.injEq] at h
  have b := Ctl.bits_le ctl
  omega

theorem Laws.Coding.qstat (ctl : Ctl) (x : BitVec 6) : Laws.Coding.Statement (.qstat ctl x) := by
  intro w h
  simp only [encode, Option.some.injEq] at h
  have b := Ctl.bits_le ctl
  omega

theorem Laws.Coding.mmaB8 (ctl : Ctl) (a : BitVec 3) (x : BitVec 6) (c : BitVec 5) (k : BitVec 2) : Laws.Coding.Statement (.mmaB8 ctl a x c k) := by
  intro w h
  simp only [encode, Option.some.injEq] at h
  have b := Ctl.bits_le ctl
  omega

theorem Laws.Coding.mmaF (ctl : Ctl) (a : BitVec 3) (x : BitVec 6) (c : BitVec 2) (k : BitVec 2) : Laws.Coding.Statement (.mmaF ctl a x c k) := by
  intro w h
  simp only [encode, Option.some.injEq] at h
  have b := Ctl.bits_le ctl
  omega

theorem Laws.Coding.mscl (ctl : Ctl) (x : BitVec 6) (a : BitVec 3) : Laws.Coding.Statement (.mscl ctl x a) := by
  intro w h
  simp only [encode, Option.some.injEq] at h
  have b := Ctl.bits_le ctl
  omega

theorem Laws.Coding.mzero (ctl : Ctl) (a : BitVec 3) : Laws.Coding.Statement (.mzero ctl a) := by
  intro w h
  simp only [encode, Option.some.injEq] at h
  have b := Ctl.bits_le ctl
  omega

theorem Laws.Coding.accld (ctl : Ctl) (x : BitVec 6) (a : BitVec 3) : Laws.Coding.Statement (.accld ctl x a) := by
  intro w h
  simp only [encode, Option.some.injEq] at h
  have b := Ctl.bits_le ctl
  omega

theorem Laws.Coding.accst (ctl : Ctl) (x : BitVec 6) (a : BitVec 3) : Laws.Coding.Statement (.accst ctl x a) := by
  intro w h
  simp only [encode, Option.some.injEq] at h
  have b := Ctl.bits_le ctl
  omega

theorem Laws.Coding.mwait (ctl : Ctl) (w : BitVec 1) (a : BitVec 3) : Laws.Coding.Statement (.mwait ctl w a) := by
  intro w h
  simp only [encode, Option.some.injEq] at h
  have b := Ctl.bits_le ctl
  omega

theorem Laws.Coding.chsend (ctl : Ctl) (x : BitVec 6) (c : BitVec 3) : Laws.Coding.Statement (.chsend ctl x c) := by
  intro w h
  simp only [encode, Option.some.injEq] at h
  have b := Ctl.bits_le ctl
  omega

theorem Laws.Coding.chrecv (ctl : Ctl) (l : BitVec 4) (x : BitVec 6) (c : BitVec 3) : Laws.Coding.Statement (.chrecv ctl l x c) := by
  intro w h
  simp only [encode, Option.some.injEq] at h
  have b := Ctl.bits_le ctl
  omega

theorem Laws.Coding.chpoll (ctl : Ctl) (x : BitVec 3) (c : BitVec 3) (k : BitVec 1) : Laws.Coding.Statement (.chpoll ctl x c k) := by
  intro w h
  simp only [encode, Option.some.injEq] at h
  have b := Ctl.bits_le ctl
  omega

theorem Laws.Coding.ldstep (ctl : Ctl) (l : BitVec 4) (x : BitVec 6) (y : BitVec 5) (k : BitVec 2) : Laws.Coding.Statement (.ldstep ctl l x y k) := by
  intro w h
  simp only [encode, Option.some.injEq] at h
  have b := Ctl.bits_le ctl
  omega

theorem Laws.Coding.rets (ctl : Ctl) (x : BitVec 6) (y : BitVec 6) : Laws.Coding.Statement (.rets ctl x y) := by
  intro w h
  simp only [encode, Option.some.injEq] at h
  have b := Ctl.bits_le ctl
  omega

theorem Laws.Coding.launch (ctl : Ctl) (l : BitVec 4) (x : BitVec 6) : Laws.Coding.Statement (.launch ctl l x) := by
  intro w h
  simp only [encode, Option.some.injEq] at h
  have b := Ctl.bits_le ctl
  omega

theorem Laws.Coding.accldFrameImage (ctl : Ctl) (x : BitVec 6) : Laws.Coding.Statement (.accldFrameImage ctl x) := by
  intro w h
  simp only [encode, Option.some.injEq] at h
  have b := Ctl.bits_le ctl
  omega

theorem Laws.Coding.accstFrameImage (ctl : Ctl) (x : BitVec 6) : Laws.Coding.Statement (.accstFrameImage ctl x) := by
  intro w h
  simp only [encode, Option.some.injEq] at h
  have b := Ctl.bits_le ctl
  omega

theorem Laws.Coding.stepend (ctl : Ctl) : Laws.Coding.Statement (.stepend ctl) := by
  intro w h
  simp only [encode, Option.some.injEq] at h
  have b := Ctl.bits_le ctl
  omega

theorem Laws.Coding.slot (ctl : Ctl) (x : BitVec 6) (y : BitVec 6) (k : BitVec 2) : Laws.Coding.Statement (.slot ctl x y k) := by
  intro w h
  simp only [encode, Option.some.injEq] at h
  have b := Ctl.bits_le ctl
  omega

theorem Laws.Coding.npost (ctl : Ctl) (l : BitVec 4) (x : BitVec 6) (y : BitVec 6) : Laws.Coding.Statement (.npost ctl l x y) := by
  intro w h
  simp only [encode, Option.some.injEq] at h
  have b := Ctl.bits_le ctl
  omega

theorem Laws.Coding.sched (p : BitVec 24) : Laws.Coding.Statement (.sched p) := by
  intro w h
  simp only [encode, Option.some.injEq] at h
  omega

theorem Laws.Coding.imm (p : BitVec 24) : Laws.Coding.Statement (.imm p) := by
  intro w h
  simp only [encode, Option.some.injEq] at h
  omega

theorem Laws.Coding.mod (p : BitVec 24) : Laws.Coding.Statement (.mod p) := by
  intro w h
  simp only [encode, Option.some.injEq] at h
  omega

theorem Laws.Coding.live (p : BitVec 24) : Laws.Coding.Statement (.live p) := by
  intro w h
  simp only [encode, Option.some.injEq] at h
  omega

theorem Laws.Coding.loadResultLanding (g : GKey) (k : Nat) : Laws.Coding.Statement (.loadResultLanding g k) := by
  intro w h
  cases h

theorem Laws.Coding.pageTableWalk (core : Nat) (va : DWord) : Laws.Coding.Statement (.pageTableWalk core va) := by
  intro w h
  cases h

theorem Laws.Coding.nopreWindowExpiry (g : GKey) : Laws.Coding.Statement (.nopreWindowExpiry g) := by
  intro w h
  cases h

theorem Laws.Coding.dozeWake (g : GKey) : Laws.Coding.Statement (.dozeWake g) := by
  intro w h
  cases h

theorem Laws.Coding.tagStepPerformed (g : GKey) (k : Nat) : Laws.Coding.Statement (.tagStepPerformed g k) := by
  intro w h
  cases h

theorem Laws.Coding.atomicServiceRequest (k : Nat) : Laws.Coding.Statement (.atomicServiceRequest k) := by
  intro w h
  cases h

theorem Laws.Coding.copyCompletion (id : Nat) : Laws.Coding.Statement (.copyCompletion id) := by
  intro w h
  cases h

theorem Laws.Coding.counterWaitSatisfied (g : GKey) : Laws.Coding.Statement (.counterWaitSatisfied g) := by
  intro w h
  cases h

theorem Laws.Coding.matrixCommandEntry (wg quad : Nat) : Laws.Coding.Statement (.matrixCommandEntry wg quad) := by
  intro w h
  cases h

theorem Laws.Coding.matrixCommandCompletion (core : Nat) : Laws.Coding.Statement (.matrixCommandCompletion core) := by
  intro w h
  cases h

theorem Laws.Coding.channelEntryArrival (launch k : Nat) : Laws.Coding.Statement (.channelEntryArrival launch k) := by
  intro w h
  cases h

theorem Laws.Coding.toyBoxExtension (launch k : Nat) : Laws.Coding.Statement (.toyBoxExtension launch k) := by
  intro w h
  cases h

theorem Laws.Coding.waitForCheckerReport : Laws.Coding.Statement (.waitForCheckerReport) := by
  intro w h
  cases h

theorem Laws.Coding.spanEnergyGrant (core : Nat) : Laws.Coding.Statement (.spanEnergyGrant core) := by
  intro w h
  cases h

theorem Laws.Coding.spanEnergyTimeout (core : Nat) : Laws.Coding.Statement (.spanEnergyTimeout core) := by
  intro w h
  cases h

theorem Laws.Coding.spanMoveResume (core : Nat) : Laws.Coding.Statement (.spanMoveResume core) := by
  intro w h
  cases h

theorem Laws.Coding.stepEndArrival (launch src dst : Nat) : Laws.Coding.Statement (.stepEndArrival launch src dst) := by
  intro w h
  cases h

theorem Laws.Coding.stepBegin (launch core : Nat) : Laws.Coding.Statement (.stepBegin launch core) := by
  intro w h
  cases h

theorem Laws.Coding.retsHandover (wg : Nat) : Laws.Coding.Statement (.retsHandover wg) := by
  intro w h
  cases h

theorem Laws.Coding.workgroupRetirement (wg : Nat) : Laws.Coding.Statement (.workgroupRetirement wg) := by
  intro w h
  cases h

theorem Laws.Coding.launchPortSubmit (port : LaunchPort) (value : DWord) : Laws.Coding.Statement (.launchPortSubmit port value) := by
  intro w h
  cases h

theorem Laws.Coding.launchPortKill (ctx : BitVec 16) (value : DWord) (supervisor : Bool) : Laws.Coding.Statement (.launchPortKill ctx value supervisor) := by
  intro w h
  cases h

theorem Laws.Coding.homeQuery (ctx : BitVec 16) (va : DWord) : Laws.Coding.Statement (.homeQuery ctx va) := by
  intro w h
  cases h

theorem Laws.Coding.workgroupPlacement (die : Nat) : Laws.Coding.Statement (.workgroupPlacement die) := by
  intro w h
  cases h

theorem Laws.Coding.preemptionRequest (die : Nat) : Laws.Coding.Statement (.preemptionRequest die) := by
  intro w h
  cases h

theorem Laws.Coding.preemptOverdue (wg : Nat) : Laws.Coding.Statement (.preemptOverdue wg) := by
  intro w h
  cases h

theorem Laws.Coding.workgroupSave (wg : Nat) : Laws.Coding.Statement (.workgroupSave wg) := by
  intro w h
  cases h

theorem Laws.Coding.parkedGroupsUnpark (wg : Nat) : Laws.Coding.Statement (.parkedGroupsUnpark wg) := by
  intro w h
  cases h

theorem Laws.Coding.workgroupRestore (wg core : Nat) : Laws.Coding.Statement (.workgroupRestore wg core) := by
  intro w h
  cases h

theorem Laws.Coding.launchCompletion (launch : Nat) : Laws.Coding.Statement (.launchCompletion launch) := by
  intro w h
  cases h

theorem Laws.Coding.launchEndCompletion (launch : Nat) : Laws.Coding.Statement (.launchEndCompletion launch) := by
  intro w h
  cases h

theorem Laws.Coding.storageError (e : StorageError) : Laws.Coding.Statement (.storageError e) := by
  intro w h
  cases h

theorem Laws.Coding.floorFreezeLift (core : Nat) : Laws.Coding.Statement (.floorFreezeLift core) := by
  intro w h
  cases h

theorem Laws.Coding.droopRegulation (core : Nat) (readings : List Nat) : Laws.Coding.Statement (.droopRegulation core readings) := by
  intro w h
  cases h

theorem Laws.Coding.supplyPathTest (cluster : Nat) (r : SupplyReading) : Laws.Coding.Statement (.supplyPathTest cluster r) := by
  intro w h
  cases h

theorem Laws.Coding.thermalHeadroomReport (die : Nat) (sensors : List Int) : Laws.Coding.Statement (.thermalHeadroomReport die sensors) := by
  intro w h
  cases h

theorem Laws.Coding.inFieldTestDue (cluster : Nat) : Laws.Coding.Statement (.inFieldTestDue cluster) := by
  intro w h
  cases h

theorem Laws.Coding.inFieldTestDeadline (cluster : Nat) : Laws.Coding.Statement (.inFieldTestDeadline cluster) := by
  intro w h
  cases h

theorem Laws.Coding.inputVoltageFault : Laws.Coding.Statement (.inputVoltageFault) := by
  intro w h
  cases h

theorem Laws.Coding.bringUp (fw : Firmware) : Laws.Coding.Statement (.bringUp fw) := by
  intro w h
  cases h

theorem Laws.Coding.attestationReport (r : ReportRequest) : Laws.Coding.Statement (.attestationReport r) := by
  intro w h
  cases h

theorem Laws.Coding.linkFlitReplay (link : Nat) : Laws.Coding.Statement (.linkFlitReplay link) := by
  intro w h
  cases h

theorem Laws.Coding.linkRetrain (link : Nat) (ok : Bool) : Laws.Coding.Statement (.linkRetrain link ok) := by
  intro w h
  cases h

theorem Laws.Coding.networkMessageReceive (m : Message) : Laws.Coding.Statement (.networkMessageReceive m) := by
  intro w h
  cases h

theorem Laws.Coding.noBufferRetransmit (r : SendRetry) : Laws.Coding.Statement (.noBufferRetransmit r) := by
  intro w h
  cases h

theorem Laws.Coding.sendQueueTimeout (msg : Nat) : Laws.Coding.Statement (.sendQueueTimeout msg) := by
  intro w h
  cases h

theorem Laws.Coding.sendAcknowledgement (msg : Nat) : Laws.Coding.Statement (.sendAcknowledgement msg) := by
  intro w h
  cases h

theorem Laws.Coding.trimmedPacketReceive (port queue : Nat) : Laws.Coding.Statement (.trimmedPacketReceive port queue) := by
  intro w h
  cases h

theorem Laws.Coding.unsupportedPacketDrop (port queue : Nat) (peer : DWord) (answer : Bool) : Laws.Coding.Statement (.unsupportedPacketDrop port queue peer answer) := by
  intro w h
  cases h

theorem Laws.Coding.ptpEventMessage (src : PtpSource) (stamp : DWord) (ppm : Int) : Laws.Coding.Statement (.ptpEventMessage src stamp ppm) := by
  intro w h
  cases h

theorem Laws.Coding.ptpMasterLoss (port : Nat) : Laws.Coding.Statement (.ptpMasterLoss port) := by
  intro w h
  cases h

theorem Laws.Coding.illegalWordFetch (why : FetchFault) : Laws.Coding.Statement (.illegalWordFetch why) := by
  intro w h
  cases h

theorem Laws.Coding.inFieldTestEnd (cluster : Nat) : Laws.Coding.Statement (.inFieldTestEnd cluster) := by
  intro w h
  cases h

theorem Laws.Coding.applicationCoreAccess (a : AppAccess) : Laws.Coding.Statement (.applicationCoreAccess a) := by
  intro w h
  cases h

theorem Laws.Coding.networkQueueOpen (q : QueueSpec) : Laws.Coding.Statement (.networkQueueOpen q) := by
  intro w h
  cases h

theorem Laws.Coding.codeObjectLoad (ctx : BitVec 16) (header : Nat) : Laws.Coding.Statement (.codeObjectLoad ctx header) := by
  intro w h
  cases h

end Sys2Proof
end

