-- ==== Sys2Proof/Tests/Slice0.lean ====
section
/-!
SUPPORT. Tests/Slice0.lean: words decoded as the spec's tables place their fields, the spec's worked examples, and for the
hypotheses of every statement a state that meets them.
-/
set_option Elab.async false

namespace Sys2Proof.Tests
open Sys2Proof Sys2Proof.Machine

/-! ### Helpers -/

def c0 : Ctl := { sp := false, n := false, pi := 0 }
def c5 : Ctl := { sp := true, n := true, pi := 5 }

/-- One thread of one group on core 0 in user mode, at address 256. -/
def running : State := State.reset.placeGroup

/-- That state with its group, workgroup, core or launch changed. -/
def onCur (f : Group → Group) : State := { running with cur := f running.cur }
def onWg (f : Workgroup → Workgroup) : State := { running with wg := f running.wg }
def onCore (f : Core → Core) : State := { running with core := f running.core }
def onLaunch (f : Launch → Launch) : State := { running with launch := f running.launch }

/-- The state a step leaves; reset where it stops. -/
def left (o : Out) : State :=
  match o with
  | .next t => t
  | _ => .reset

/-- v1, v2 and s1, s2 hold x and y, and the run holds a MOD and an IMM payload. -/
def with2 (x y : DWord) (mod imm : Option (BitVec 24)) : State := onCur (fun g => { g with
  lanes := [(0, { Lane.empty with thread := some 0, v := [(1, x.setWidth 32), (2, y.setWidth 32)] })], s := [(1, x), (2, y)]
  run := { g.run with mod := mod, imm := imm } })

/-- t1 maps its first 4 KiB to the same physical addresses. -/
def low : TReg := { base := 0, frame := 0, limit := 0x1000, rd := true, wr := true }
def mapped (s : State) : State := { s with cur := { s.cur with t := [(1, low)] } }

/-- v3 of lane 0 after the word. -/
def v3 (i : Instr) (s : State) : Nat := ((left (exec i s)).cur.vget 0 3).toNat

/-! ### Decoding: for every row of the opcode table its match value with the fields written in, SP, N and PI = 5 among them -/

theorem test_decode_system_and_control_1 : ∀ x ∈ ([
    (0x03A2C3D5, .trap c5 181205), (0x03A6C3D5, .svc c5 181205), (0x03A80000, .eret c5), (0x03AC0000, .nop c5), (0x03B00000, .idem c5),
    (0x03B40000, .nopre c5), (0x03B80000, .preon c5), (0x03BC0000, .ifence c5), (0x07A2B4C0, .rdsr c5 43 19),
    (0x07A53580, .wrsr c5 19 22), (0x07AAB000, .time c5 43), (0x07AC0580, .doze c5 22), (0x07B005B5, .icinv c5 22 53),
    (0x0BB5A5A3, .braLane c5 2 370083), (0x0FB5A5A3, .braUniform c5 2 370083), (0x13B5A5A3, .call c5 2 370083),
    (0x1605A5A3, .conv true 370083), (0x1BB581A5, .loop c5 43 421), (0x1FA00580, .brx c5 22), (0x1FA40580, .ret c5 22)] : List (Nat × Instr)), decodeWord false x.1 = some x.2 := by
  decide +kernel

theorem test_decode_system_and_control_2 : ∀ x ∈ ([
    (0x1FA80000, .exit c5)] : List (Nat × Instr)), decodeWord false x.1 = some x.2 := by
  decide +kernel

theorem test_decode_integer_lanes_1 : ∀ x ∈ ([
    (0x23A2B5B5, .iadd c5 43 22 53), (0x23A6B5B5, .isub c5 43 22 53), (0x23AAB5B5, .imul c5 43 22 53),
    (0x23AEB5B5, .imulhS c5 43 22 53), (0x23B2B5B5, .imulhN c5 43 22 53), (0x23B6B5B5, .imad c5 43 22 53),
    (0x23BAB5B5, .iminS c5 43 22 53), (0x23BEB5B5, .iminN c5 43 22 53), (0x27A2B5B5, .imaxS c5 43 22 53),
    (0x27A6B5B5, .imaxN c5 43 22 53), (0x27AAB5B5, .idivS c5 43 22 53), (0x27AEB5B5, .idivN c5 43 22 53),
    (0x27B2B5B5, .iremS c5 43 22 53), (0x27B6B5B5, .iremN c5 43 22 53), (0x27BAB580, .iabs c5 43 22), (0x27BEB580, .ineg c5 43 22),
    (0x2BA2B5B5, .iaddPair c5 43 22 53), (0x2BA6B5B5, .isubPair c5 43 22 53), (0x2BAAB5B5, .imulPair c5 43 22 53),
    (0x2BAEB5B5, .imulhSPair c5 43 22 53)] : List (Nat × Instr)), decodeWord false x.1 = some x.2 := by
  decide +kernel

theorem test_decode_integer_lanes_2 : ∀ x ∈ ([
    (0x2BB2B5B5, .imulhNPair c5 43 22 53), (0x2BB6B5B5, .imadPair c5 43 22 53), (0x2BBAB5B5, .iminSPair c5 43 22 53),
    (0x2BBEB5B5, .iminNPair c5 43 22 53), (0x2FA2B5B5, .imaxSPair c5 43 22 53), (0x2FA6B5B5, .imaxNPair c5 43 22 53),
    (0x2FAAB5B5, .idivSPair c5 43 22 53), (0x2FAEB5B5, .idivNPair c5 43 22 53), (0x2FB2B5B5, .iremSPair c5 43 22 53),
    (0x2FB6B5B5, .iremNPair c5 43 22 53), (0x2FBAB580, .iabsPair c5 43 22), (0x2FBEB580, .inegPair c5 43 22),
    (0x33B635B5, .icmp c5 5 1 3 22 53), (0x37A2B5B5, .and c5 43 22 53), (0x37A6B5B5, .or c5 43 22 53), (0x37AAB5B5, .xor c5 43 22 53),
    (0x37AEB5B5, .andn c5 43 22 53), (0x37B2B5B5, .orn c5 43 22 53), (0x37B6B5B5, .shl c5 43 22 53), (0x37BAB5B5, .shrl c5 43 22 53)] : List (Nat × Instr)), decodeWord false x.1 = some x.2 := by
  decide +kernel

theorem test_decode_integer_lanes_3 : ∀ x ∈ ([
    (0x37BEB5B5, .shra c5 43 22 53), (0x3BA2B5B5, .andPair c5 43 22 53), (0x3BA6B5B5, .orPair c5 43 22 53),
    (0x3BAAB5B5, .xorPair c5 43 22 53), (0x3BAEB5B5, .andnPair c5 43 22 53), (0x3BB2B5B5, .ornPair c5 43 22 53),
    (0x3BB6B5B5, .shlPair c5 43 22 53), (0x3BBAB5B5, .shrlPair c5 43 22 53), (0x3BBEB5B5, .shraPair c5 43 22 53),
    (0x3FA2B5B5, .rotl c5 43 22 53), (0x3FA6B580, .clz c5 43 22), (0x3FAAB580, .ctz c5 43 22), (0x3FAEB580, .popc c5 43 22),
    (0x3FB2B580, .brev c5 43 22), (0x3FB6B5B5, .bfxN c5 43 22 53), (0x3FBAB5B5, .bfxS c5 43 22 53), (0x3FBEB5B5, .bsel c5 43 22 53)] : List (Nat × Instr)), decodeWord false x.1 = some x.2 := by
  decide +kernel

theorem test_decode_logic_and_shifts : ∀ x ∈ ([
    (0x43A2B5B5, .rotlPair c5 43 22 53), (0x43A6B580, .clzPair c5 43 22), (0x43AAB580, .ctzPair c5 43 22),
    (0x43AEB580, .popcPair c5 43 22), (0x43B2B580, .brevPair c5 43 22), (0x43B6B5B5, .bfxNPair c5 43 22 53),
    (0x43BAB5B5, .bfxSPair c5 43 22 53), (0x47A2B5B5, .bfiB32 c5 43 22 53), (0x47A6B5B5, .bfiB64 c5 43 22 53),
    (0x47AAB035, .movB32 c5 43 53), (0x47AEB035, .movB64 c5 43 53), (0x47B2B035, .movB128 c5 43 53), (0x47B6B000, .pmovToReg c5 43),
    (0x47B80580, .pmovToPred c5 22), (0x4BBAB5B5, .sel c5 6 43 22 53), (0x4FB5ADA5, .iaddImm c5 43 22 421),
    (0x53B5ADA5, .iaddImmPair c5 43 22 421), (0x57B583A5, .movi c5 43 1 421), (0x5BA5B905, .plut c5 1 3 3 4 1 5),
    (0x5FB6B5B5, .lea c5 5 43 22 53)] : List (Nat × Instr)), decodeWord false x.1 = some x.2 := by
  decide +kernel

theorem test_decode_uniform_1 : ∀ x ∈ ([
    (0x63A2B5B5, .iaddU c5 43 22 53), (0x63A6B5B5, .isubU c5 43 22 53), (0x63AAB5B5, .imulU c5 43 22 53),
    (0x63AEB5B5, .imulhSU c5 43 22 53), (0x63B2B5B5, .imulhNU c5 43 22 53), (0x63B6B5B5, .imadU c5 43 22 53),
    (0x63BAB5B5, .iminSU c5 43 22 53), (0x63BEB5B5, .iminNU c5 43 22 53), (0x67A2B5B5, .imaxSU c5 43 22 53),
    (0x67A6B5B5, .imaxNU c5 43 22 53), (0x67AAB5B5, .idivSU c5 43 22 53), (0x67AEB5B5, .idivNU c5 43 22 53),
    (0x67B2B5B5, .iremSU c5 43 22 53), (0x67B6B5B5, .iremNU c5 43 22 53), (0x67BAB580, .iabsU c5 43 22), (0x67BEB580, .inegU c5 43 22),
    (0x6BB435B5, .icmpU c5 5 3 22 53), (0x6FA2B5B5, .andU c5 43 22 53), (0x6FA6B5B5, .orU c5 43 22 53), (0x6FAAB5B5, .xorU c5 43 22 53)] : List (Nat × Instr)), decodeWord false x.1 = some x.2 := by
  decide +kernel

theorem test_decode_uniform_2 : ∀ x ∈ ([
    (0x6FAEB5B5, .andnU c5 43 22 53), (0x6FB2B5B5, .ornU c5 43 22 53), (0x6FB6B5B5, .shlU c5 43 22 53),
    (0x6FBAB5B5, .shrlU c5 43 22 53), (0x6FBEB5B5, .shraU c5 43 22 53), (0x73A2B5B5, .rotlU c5 43 22 53), (0x73A6B580, .clzU c5 43 22),
    (0x73AAB580, .ctzU c5 43 22), (0x73AEB580, .popcU c5 43 22), (0x73B2B580, .brevU c5 43 22), (0x73B6B5B5, .bfxNU c5 43 22 53),
    (0x73BAB5B5, .bfxSU c5 43 22 53), (0x73BEB5B5, .bfiU c5 43 22 53), (0x77A2B035, .movU c5 43 53), (0x77A6B000, .pmovCToS c5 43),
    (0x77A80580, .pmovSToC c5 22), (0x7BBAB5B5, .selU c5 6 43 22 53), (0x7FB6B5B5, .leaU c5 5 43 22 53)] : List (Nat × Instr)), decodeWord false x.1 = some x.2 := by
  decide +kernel

theorem test_decode_floating_point_1 : ∀ x ∈ ([
    (0x83A2B5B5, .fadd c5 43 22 53), (0x83A6B5B5, .fsub c5 43 22 53), (0x83AAB5B5, .fmul c5 43 22 53), (0x83AEB5B5, .ffma c5 43 22 53),
    (0x83B2B5B5, .fmin c5 43 22 53), (0x83B6B5B5, .fmax c5 43 22 53), (0x83BAB5B5, .fdiv c5 43 22 53), (0x83BEB580, .fsqrt c5 43 22),
    (0x87A2B580, .frnd c5 43 22), (0x87A6B580, .frcp c5 43 22), (0x87AAB580, .frsq c5 43 22), (0x87AEB580, .fexp2 c5 43 22),
    (0x87B2B580, .flog2 c5 43 22), (0x87B6B580, .fsin c5 43 22), (0x87BAB580, .fcos c5 43 22), (0x87BEB580, .fclass c5 43 22),
    (0x8BA2B5B5, .faddF64 c5 43 22 53), (0x8BA6B5B5, .fsubF64 c5 43 22 53), (0x8BAAB5B5, .fmulF64 c5 43 22 53),
    (0x8BAEB5B5, .ffmaF64 c5 43 22 53)] : List (Nat × Instr)), decodeWord false x.1 = some x.2 := by
  decide +kernel

theorem test_decode_floating_point_2 : ∀ x ∈ ([
    (0x8BB2B5B5, .fminF64 c5 43 22 53), (0x8BB6B5B5, .fmaxF64 c5 43 22 53), (0x8BBAB5B5, .fdivF64 c5 43 22 53),
    (0x8BBEB580, .fsqrtF64 c5 43 22), (0x8FA2B580, .frndF64 c5 43 22), (0x8FA6B580, .frcpF64 c5 43 22),
    (0x8FAAB580, .frsqF64 c5 43 22), (0x8FAEB580, .fclassF64 c5 43 22), (0x93B235B5, .fcmp c5 4 1 3 22 53),
    (0x97A2B5B5, .pkaddF16 c5 43 22 53), (0x97A6B5B5, .pkmulF16 c5 43 22 53), (0x97AAB5B5, .pkfmaF16 c5 43 22 53),
    (0x97AEB5B5, .pkaddBf16 c5 43 22 53), (0x97B2B5B5, .pkmulBf16 c5 43 22 53), (0x97B6B5B5, .pkfmaBf16 c5 43 22 53),
    (0x97BAB5B5, .idp4S8 c5 43 22 53), (0x97BEB5B5, .idp4N8 c5 43 22 53), (0x9BB5AC13, .qnt c5 43 22 19),
    (0x9BB5AC5C, .deq c5 43 22 28), (0x9BB5AC8D, .scale c5 43 22 13)] : List (Nat × Instr)), decodeWord false x.1 = some x.2 := by
  decide +kernel

theorem test_decode_floating_point_3 : ∀ x ∈ ([
    (0x9BB5ACC6, .sacc c5 43 22 6), (0x9FB6B5AA, .cvt c5 5 43 22 42)] : List (Nat × Instr)), decodeWord false x.1 = some x.2 := by
  decide +kernel

theorem test_decode_cross_lane_and_span : ∀ x ∈ ([
    (0xA3A2B5B5, .lgetAt c5 43 22 53), (0xA3A6B5B5, .lgetLo c5 43 22 53), (0xA3AAB5B5, .lgetHi c5 43 22 53),
    (0xA3AEB5B5, .lgetXr c5 43 22 53), (0xA3B2B180, .ballot c5 43 6), (0xA3B43180, .voteAny c5 3 6), (0xA3B83180, .voteAll c5 3 6),
    (0xA3BC3180, .voteSame c5 3 6), (0xA7A2B59C, .gred c5 43 22 3 4), (0xA7A6B59C, .gscan c5 43 22 3 4),
    (0xABB5AD75, .bxch c5 43 22 46 5), (0xAFA00002, .span c5 2), (0xAFA6B000, .spanq c5 43), (0xAFA80007, .give c5 7),
    (0xAFAC0005, .claim c5 5)] : List (Nat × Instr)), decodeWord false x.1 = some x.2 := by
  decide +kernel

theorem test_decode_memory_and_scratchpad_1 : ∀ x ∈ ([
    (0xB3B6ED9D, .ldg c5 11 29 5 39 1), (0xB7A0ED9D, .stg c5 29 5 39 1), (0xBBB6ED9D, .ldk c5 11 29 5 39 1),
    (0xBFA0ED9D, .stk c5 29 5 39 1), (0xC3B6E89D, .lds c5 11 29 39 1), (0xC3A0E99D, .sts c5 29 39 1),
    (0xC3B6EA9C, .ldfTake c5 11 29 39), (0xC3B6EB9C, .ldfPeek c5 11 29 39), (0xC3B6EC9C, .ste c5 11 29 39),
    (0xC3A0ED9C, .stf c5 29 39), (0xC3B6EE9C, .tagq c5 11 29 39), (0xC3A00F9D, .tags c5 1 39 1), (0xC7B6E89D, .ldd c5 11 29 39 1),
    (0xC7A0E99D, .std c5 29 39 1), (0xCBB7D59D, .atomAdd c5 11 29 5 39 1), (0xCBB7DD9D, .atomExch c5 11 29 5 39 1),
    (0xCBB7D59F, .atomCas c5 11 29 5 39 1), (0xCBB7DD9F, .atomAnd c5 11 29 5 39 1), (0xCFB7D59D, .atomOr c5 11 29 5 39 1),
    (0xCFB7DD9D, .atomXor c5 11 29 5 39 1)] : List (Nat × Instr)), decodeWord false x.1 = some x.2 := by
  decide +kernel

theorem test_decode_memory_and_scratchpad_2 : ∀ x ∈ ([
    (0xCFB7D59F, .atomMinS c5 11 29 5 39 1), (0xCFB7DD9F, .atomMaxS c5 11 29 5 39 1), (0xD3B7D59D, .atomMinN c5 11 29 5 39 1),
    (0xD3B7DD9D, .atomMaxN c5 11 29 5 39 1), (0xD3B7D59F, .atomFadd c5 11 29 5 39 1), (0xD7B6059C, .xlate c5 11 5 39),
    (0xD7B60D9C, .pref c5 11 5 39), (0xD7B6159C, .cflush c5 11 5 39), (0xD7B61D9C, .cinv c5 11 5 39), (0xD7B62500, .phase c5 11 5),
    (0xD7B62D00, .fence c5 11 5), (0xD7B63500, .fenceE c5 11 5), (0xD7AEED9D, .red32 c5 7 29 5 39), (0xD7B0ED9E, .red64 c5 8 29 5 39)] : List (Nat × Instr)), decodeWord false x.1 = some x.2 := by
  decide +kernel

theorem test_decode_engines_channels_and_steps_1 : (∀ x ∈ ([
    (0xDBB60C70, .copy c5 11 12 28), (0xDBA07170, .waitge c5 49 28), (0xDBA0B170, .waitgeContinuation c5 49 28),
    (0xDBA0F100, .qstat c5 49), (0xDFA1B14E, .mmaB8 c5 6 49 19 2), (0xE3A1B189, .mmaF c5 6 49 2 1), (0xE7A03118, .mscl c5 49 6),
    (0xE7A04018, .mzero c5 6), (0xE7A0B118, .accld c5 49 6), (0xE7A0F118, .accst c5 49 6), (0xE7A10018, .mwait c5 0 6),
    (0xEBA03114, .chsend c5 49 5), (0xEBB67114, .chrecv c5 11 49 5), (0xEBA08115, .chpoll c5 1 5 1), (0xEFA00000, .stepend c5),
    (0xEFA07171, .slot c5 49 28 1), (0xEFB6B1E1, .ldstep c5 11 49 28 1), (0xF3A03170, .rets c5 49 28)] : List (Nat × Instr)), decodeWord false x.1 = some x.2) ∧
    (∀ x ∈ ([
    (0xE7A0B100, .accldFrameImage c5 49), (0xE7A0F100, .accstFrameImage c5 49)] : List (Nat × Instr)), decodeWord true x.1 = some x.2) := by
  decide +kernel

theorem test_decode_engines_channels_and_steps_2 : ∀ x ∈ ([
    (0xF3B67100, .launch c5 11 49), (0xF3B6B170, .npost c5 11 49 28)] : List (Nat × Instr)), decodeWord false x.1 = some x.2 := by
  decide +kernel

theorem test_decode_hints : ∀ x ∈ ([
    (0xF4A5C3E1, .sched 10863585), (0xF5A5C3E1, .imm 10863585), (0xF6A5C3E1, .mod 10863585), (0xF7A5C3E1, .live 10863585)] : List (Nat × Instr)), decodeWord false x.1 = some x.2 := by
  decide +kernel

/-- Spec: 0x240C_5187, 0x9C00_9128, 0x9803_0404, 0x8000_4E05, 0xEC00_4519 and 0xF703_0201 are printed with their words
(R57, R139, R140, 13, 15 and 03). -/
theorem test_printed_words : (∀ x ∈ ([(0x240C5187, .idivN c0 5 6 7), (0x9C009128, .cvt c0 0 9 4 0x28), (0x98030404, .qnt c0 6 2 4),
    (0x80004E05, .fadd c0 4 56 5), (0xEC004519, .slot c0 5 6 1), (0xF7030201, .live 0x030201), (0xC4002818, .ldd c0 0 5 6 0),
    (0x00000000, .trap c0 0)] : List (Nat × Instr)), decodeWord false x.1 = some x.2) ∧ decodeWord false 0xFFFFFFFF = none := by
  decide +kernel

/-- The decoder on the bits of the opcode table, and encode as its inverse there. -/
theorem test_decode_table_word : decodeTableWord 32 0x240C5187 = some (.idivN c0 5 6 7) ∧ encode (.idivN c0 5 6 7) = some 0x240C5187 := by
  decide +kernel

/-! ### Ill-formed terms are refused, one for each check, and trap ILLEGAL with their word (R30, R37) -/

theorem test_ill_formed : ∀ i ∈ ([.rdsr c0 1 0x15, .wrsr c0 0x15 1, .icmp c0 7 0 1 1 1, .icmpU c0 7 1 1 1, .fcmp c0 6 0 1 1 1,
    .qnt c0 1 2 8, .deq c0 1 2 0, .scale c0 1 2 16, .sacc c0 1 2 24, .cvt c0 0 1 2 0x2C, .cvt c0 0 1 2 8, .gred c0 1 2 3 0, .gred c0 1 2 4 0,
    .gscan c0 1 2 0 3, .bxch c0 1 2 3 7, .give c0 0, .give c0 9, .claim c0 0, .claim c0 9, .ldk c0 0 5 1 1 2, .stk c0 5 1 1 2,
    .phase c0 0 0, .phase c0 0 7, .fence c0 0 7, .fenceE c0 0 0, .red32 c0 9 1 1 1, .red64 c0 15 1 1 1, .copy c0 0 0 1, .copy c0 0 6 1,
    .mmaB8 c0 0 1 8 0, .mmaB8 c0 0 1 4 3, .mmaF c0 0 1 3 0, .mmaF c0 0 1 0 3, .mwait c0 1 2] : List Instr),
    wellFormed i = false ∧
    (let g := (left (exec i running)).cur; g.trapCause = 1 ∧ some g.trapVal.toNat = encode i) := by
  decide +kernel

/-! ### Worked examples of the spec -/

/-- R57's table. -/
theorem test_division_table :
    v3 (.idivN c0 3 1 2) (with2 9 0 none none) = 0xFFFFFFFF ∧ v3 (.idivS c0 3 1 2) (with2 9 0 none none) = 0x80000000 ∧
    v3 (.iremN c0 3 1 2) (with2 9 0 none none) = 9 ∧ v3 (.idivS c0 3 1 2) (with2 0x80000000 0xFFFFFFFF none none) = 0x80000000 ∧
    v3 (.idivS c0 3 1 2) (with2 0x80000000 0xFFFFFFFF (some 0x100000) none) = 0x7FFFFFFF := by decide +kernel

theorem test_integer_table :
    v3 (.iadd c0 3 1 2) (with2 0x7FFFFFFF 1 none none) = 0x80000000 ∧
    v3 (.iadd c0 3 1 2) (with2 0x7FFFFFFF 1 (some 0x140000) none) = 0x7FFFFFFF ∧
    v3 (.iadd c0 3 1 2) (with2 0xFFFFFFFF 1 (some 0x100000) none) = 0xFFFFFFFF ∧
    v3 (.isub c0 3 1 2) (with2 0 1 (some 0x100000) none) = 0 ∧ v3 (.iabs c0 3 1) (with2 0x80000000 0 none none) = 0x80000000 ∧
    v3 (.iabs c0 3 1) (with2 0x80000000 0 (some 0x100000) none) = 0x7FFFFFFF ∧
    v3 (.imulhN c0 3 1 2) (with2 0xFFFFFFFF 0xFFFFFFFF none none) = 0xFFFFFFFE := by decide +kernel

/-- R58: LEA v3, v1, v2, 2. -/
theorem test_lea : v3 (.lea c0 2 3 1 2) (with2 0x1000 5 none none) = 0x1014 := by decide +kernel

/-- R61's example; a count of w shifts everything out. -/
theorem test_shifts : v3 (.shra c0 3 1 2) (with2 0x80000000 40 none none) = 0xFFFFFFFF ∧
    v3 (.shl c0 3 1 2) (with2 1 32 none none) = 0 := by decide +kernel

/-- R63's example. -/
theorem test_bfx : v3 (.bfxS c0 3 1 0) (with2 0xF00 0 none (some 0x408)) = 0xFFFFFFFF ∧
    v3 (.bfxN c0 3 1 0) (with2 0xF00 0 none (some 0x408)) = 0xF := by decide +kernel

/-- R5, R56: a pair carries from its low register into its high one. -/
theorem test_pair_carry : (let t := left (exec (.iaddPair c0 4 2 2) (with2 0 0x80000000 none none));
    (t.cur.vget 0 4, t.cur.vget 0 5)) = (0, 1) := by decide +kernel

/-- R60, R66: SEL with p0 takes a; R59: an unsigned and a signed comparison of −1 with 1 differ. -/
theorem test_compare : v3 (.sel c0 0 3 1 2) (with2 7 9 none none) = 7 ∧
    (left (exec (.icmp c0 2 0 1 1 2) (with2 0xFFFFFFFF 1 none none))).cur.pget 0 1 = true ∧
    (left (exec (.icmp c0 4 0 1 1 2) (with2 0xFFFFFFFF 1 none none))).cur.pget 0 1 = false := by decide +kernel

/-- R4: s0 reads 0 and a write to it is discarded; s4 := s1 + s2. -/
theorem test_uniform : (left (exec (.iaddU c0 0 1 2) (with2 3 4 none none))).cur.sget 0 = 0 ∧
    (left (exec (.iaddU c0 4 1 2) (with2 3 4 none none))).cur.sget 4 = 7 := by decide +kernel

/-- FRND.rna of 2.5 is 3.0 and FRND of it 2.0 (chapter 7's example). -/
theorem test_round : v3 (.frnd c0 3 1) (with2 0x40200000 0 (some 0xA00000) none) = 0x40400000 ∧
    v3 (.frnd c0 3 1) (with2 0x40200000 0 none none) = 0x40000000 := by decide +kernel

/-- 1.5 + 2.25 = 3.75, and the largest number doubled overflows to +∞ with OF and NX (R91, R92). -/
theorem test_fadd : v3 (.fadd c0 3 1 2) (with2 0x3FC00000 0x40100000 none none) = 0x40700000 ∧
    v3 (.fadd c0 3 1 2) (with2 0x7F7FFFFF 0x7F7FFFFF none none) = 0x7F800000 := by decide +kernel

/-- CVT.s8.s32 of 300 (R139). -/
theorem test_convert : v3 (.cvt c0 5 3 1 0x24) (with2 300 0 none none) = 44 ∧
    v3 (.cvt c0 5 3 1 0x24) (with2 300 0 (some 0x100000) none) = 127 := by decide +kernel

/-- R140's traveller: 1.3 with the scale 0x7C80 quantises to 0x72 and sets NX. -/
theorem test_quantise : (let t := left (exec (.qnt c0 6 2 4) (onCur (fun g => { g with
    lanes := [(0, { Lane.empty with thread := some 0, v := [(2, 0x3FA66666), (3, 0x7C80)] })] })));
    (t.cur.vget 0 6, t.cur.gstat)) = (0x72000000, 1) := by decide +kernel

/-- R11 and R12: t2 of the example with its three routes and its trap. -/
def t2 : TReg := { base := 0x00007F0000100000, frame := 0x480200000, limit := 0x200000, rd := true, wr := true }
theorem test_frame_route : (onCur (fun g => { g with t := [(2, t2)] })).route 2 0x1FFFFC 4 false = .to 0x4803FFFFC ∧
    (onCur (fun g => { g with t := [(2, t2)] })).route 2 2 4 false = .align 0x00007F0000100002 := by decide +kernel

/-- R190's example. -/
theorem test_owner : ownerHash 0x480200000 = 4 := by decide +kernel

/-- R39: the all-zero word traps BREAK with code 0, TRAPPC at the next word, and TRAPORG at the word itself (R16). -/
theorem test_break : (let t := left (exec (.trap c0 5) running);
    (t.cur.sup, t.cur.trapCause, t.cur.trapPc, t.cur.trapOrg)) = (true, 0x5000D, 260, 256) := by decide +kernel

/-- R23, R69, R71: a taken whole branch goes to PC + 4 × off19; CALL writes s63. -/
theorem test_branch : (left (exec (.braUniform c0 0 (BitVec.ofInt 19 (-2))) running)).cur.pc = 248 ∧
    (left (exec (.call c0 0 2) running)).cur.sget 63 = 260 := by decide +kernel

/-- R74: LOOP with a counter of 1 falls through. -/
theorem test_loop : (left (exec (.loop c0 1 (BitVec.ofInt 9 (-4))) (with2 1 0 none none))).cur.pc = 260 ∧
    (left (exec (.loop c0 1 (BitVec.ofInt 9 (-4))) (with2 2 0 none none))).cur.pc = 240 := by decide +kernel

/-- R166, R183: a scratchpad store is little-endian and stays out of the next word. -/
theorem test_sts : (left (exec (.sts c0 2 1 0) (with2 8 0xA1B2C3D4 none none))).wg.pad = [(8, 0xD4), (9, 0xC3), (10, 0xB2), (11, 0xA1)] := by
  decide +kernel

/-- R77: a store stays among the group's own unpublished bytes. -/
theorem test_stg : (let t := left (exec (.stg c0 2 1 1 0) (mapped (with2 0x40 0x11223344 none none)));
    (t.cur.dirty, t.mem)) = ([(0x40, some 0x44), (0x41, some 0x33), (0x42, some 0x22), (0x43, some 0x11)], []) := by decide +kernel

/-- A load stands in its window until its result lands (R26, R76). -/
theorem test_ldg : (left (exec (.ldg c0 1 3 1 1 0) (mapped (with2 0x40 0 none none)))).cur.pend.length = 1 ∧
    v3 (.loadResultLanding running.cur.key 0)
      (left (exec (.ldg c0 0 3 1 1 0) { mapped (with2 0x40 0 none none) with mem := [(0x40, 0x2A)] })) = 0x2A := by decide +kernel

/-- R144, R143: the vote and ballot of the one thread. -/
theorem test_ballot : (left (exec (.ballot c0 4 0) running)).cur.sget 4 = 1 ∧
    (left (exec (.voteAny c0 2 1) running)).cur.cget 2 = false := by decide +kernel

/-- The next step after reset, with a word placed, is that word's: MOVI v3, 5. -/
theorem test_step_runs : (left (step (State.reset.withFetchWord 32 0x54018005))).cur.vget 0 3 =
    (left (exec (.movi c0 3 0 5) running)).cur.vget 0 3 ∧ decodeWord false 0x54018005 = some (.movi c0 3 0 5) := by decide +kernel

/-! ### Witnesses: words -/

theorem accepts_none (u : ImmUse) : u.accepts none := by cases u <;> simp [ImmUse.accepts]
theorem clears (s : State) (i : Instr) (h : s.cur.live = true ∧ s.cur.run = .none ∧ s.cur.key.shadow = false ∧ s.cur.held = false ∧
    s.cur.pend.all (fun e => !e.act.isFence) = true) (u : ImmUse) (m : Nat) (x y z : Bool) : Clears s i u m x y z := by
  obtain ⟨h1, h2, h3, h4, h5⟩ := h
  exact ⟨h1, by rw [h2]; rfl, by rw [h2]; exact accepts_none u, by rw [h2]; exact fun _ h => absurd h (by simp [Run.none]),
    fun _ h => absurd (h.symm.trans h3) (by decide), fun _ h => absurd (h.symm.trans h4) (by decide),
    fun _ e he => by simpa using List.all_eq_true.mp h5 e he⟩

theorem issues (s : State) (i : Instr) (h : s.cur.live = true ∧ s.cur.run = .none ∧ s.cur.key.shadow = false ∧ s.cur.held = false ∧
    s.cur.pend.all (fun e => !e.act.isFence) = true ∧ canonical (s.cur.pc + 4) = true) (u : ImmUse) (m : Nat) (x y z : Bool) :
    Issues s i u m x y z := ⟨clears s i ⟨h.1, h.2.1, h.2.2.1, h.2.2.2.1, h.2.2.2.2.1⟩ u m x y z, h.2.2.2.2.2⟩

theorem plain (s : State) (h : s.cur.live = true ∧ s.cur.sup = false ∧ s.cur.key.shadow = false ∧ s.cur.pend = []) : Plain s :=
  ⟨h.1, h.2.1, h.2.2.1, h.2.2.2⟩

theorem placed (s : State) (h : s.wg.uid = s.cur.key.wg ∧ s.wg.uid ≠ 0 ∧ s.wg.status = .running ∧ s.wg.launch = s.launch.uid ∧
    s.launch.state = .running) : Placed s := ⟨h.1, h.2.1, h.2.2.1, h.2.2.2.1, h.2.2.2.2⟩

theorem alone (s : State) (h : s.cur.live = true ∧ s.cur.key.shadow = false ∧ s.groups = [] ∧ s.wgs = [] ∧ s.core.id = s.wg.core ∧
    s.cores = [] ∧ s.traces = []) (p : Placed s) : Alone s := ⟨h.1, h.2.1, h.2.2.1, h.2.2.2.1, h.2.2.2.2.1, h.2.2.2.2.2.1, h.2.2.2.2.2.2, p⟩

/-- Every lane of the list has a good address. -/
theorem routes {l : List Nat} {f : Nat → Route} (h : l.all (fun j => match f j with | .to _ => true | _ => false) = true) :
    ∀ j ∈ l, ∃ a, f j = .to a := by
  intro j hj
  have := List.all_eq_true.mp h j hj
  cases hf : f j <;> simp_all

theorem goodRoute {r : Route} (h : (match r with | .to _ => true | _ => false) = true) : ∃ a, r = .to a := by cases r <;> simp_all

/-- Nothing of the physical group is outstanding. -/
theorem noneOwn {s : State} (f : Pend → Bool) (h : s.partners.all (fun g => g.pend.isEmpty) = true) : s.noneOwn f := by
  intro g hg e he
  rw [List.isEmpty_iff.mp (List.all_eq_true.mp h g hg)] at he
  exact absurd he List.not_mem_nil

/-- The same where nothing is outstanding that must come first. -/
theorem freeRoute {s : State} {r : Route} {g : Pend → Nat → Bool} (h : (match r with | .to _ => true | _ => false) = true)
    (hp : s.partners.all (fun g => g.pend.isEmpty) = true) : ∃ a, r = .to a ∧ s.noneOwn (fun e => g e a) := by
  obtain ⟨a, ha⟩ := goodRoute h
  exact ⟨a, ha, noneOwn _ hp⟩

theorem freeRoutes {s : State} {l : List Nat} {f : Nat → Route} {g : Pend → Nat → Bool}
    (h : l.all (fun j => match f j with | .to _ => true | _ => false) = true) (hp : s.partners.all (fun g => g.pend.isEmpty) = true) :
    ∀ j ∈ l, ∃ a, f j = .to a ∧ s.noneOwn (fun e => g e a) := fun j hj => freeRoute (List.all_eq_true.mp h j hj) hp

theorem noReds (s : State) (h : s.myRequests.all (fun r => r.reg.isSome) = true) : s.noReds := by
  intro r hr he
  have := List.all_eq_true.mp h r hr
  rw [he] at this
  exact absurd this (by decide)

/-- The hypotheses of LaneWord.Does, with a lane that acts. -/
def LaneOk (i : Instr) (x : LaneWord) (s : State) : Prop :=
  Issues s i x.imm x.mods x.sx x.slice true ∧ wellFormed i = true ∧ x.also s ∧ s.lanesReady (s.cur.on x.ctl) x.dsts (x.srcs s) ∧
    s.cur.on x.ctl ≠ []

/-- The hypotheses of GroupWord.Does, where the word acts. -/
def GroupOk (i : Instr) (x : GroupWord) (s : State) : Prop :=
  Issues s i x.imm x.mods x.sx x.slice x.held ∧ wellFormed i = true ∧ x.also s ∧ x.acts s = true ∧ x.ready s ∧
    (s.cur.key.shadow = true → ∀ r ∈ x.regs s, r < 16)

theorem witness_IntegerLaneWords : ∃ i x s, intWord i = some x ∧ LaneOk i x s :=
  ⟨.iadd c0 3 1 2, _, with2 1 2 none none, rfl, issues _ _ (by decide +kernel) .., rfl, trivial, by unfold State.lanesReady; decide +kernel, by decide +kernel⟩

theorem witness_IntegerPairWords : ∃ i x s, intPairWord i = some x ∧ LaneOk i x s :=
  ⟨.iaddPair c0 4 2 6, _, with2 1 2 none none, rfl, issues _ _ (by decide +kernel) .., rfl, trivial, by unfold State.lanesReady; decide +kernel, by decide +kernel⟩

theorem witness_LogicLaneWords : ∃ i x s, logicWord i = some x ∧ LaneOk i x s :=
  ⟨.shl c0 3 1 2, _, with2 1 2 none none, rfl, issues _ _ (by decide +kernel) .., rfl, trivial, by unfold State.lanesReady; decide +kernel, by decide +kernel⟩

theorem witness_FloatLaneWords : ∃ i x s, floatWord i = some x ∧ LaneOk i x s :=
  ⟨.fadd c0 3 1 2, _, with2 1 2 none none, rfl, issues _ _ (by decide +kernel) .., rfl, trivial, by unfold State.lanesReady; decide +kernel, by decide +kernel⟩

/-- 1.0, 0 and −1.0 in f32, two NaNs and an infinity: the operands of FloatRule. -/
theorem witness_FloatRounding : (f32.decode 0x3F800000).Is 1 ∧ (f32.decode 0).Is 0 ∧ (f32.decode 0xBF800000).Is (-1) ∧
    f32.decode 0x7FC00000 = .nan false ∧ f32.decode 0x7F800001 = .nan true ∧ f32.decode 0x7F800000 = .inf false ∧
    f32.decode 0xFF800000 = .inf true := by
  refine ⟨?_, ?_, ?_, by decide +kernel, by decide +kernel, by decide +kernel, by decide +kernel⟩
  · rw [show f32.decode 0x3F800000 = .fin false 8388608 (-23) by decide +kernel]; norm_num [FVal.Is, zpow_neg]
  · rw [show f32.decode 0 = .fin false 0 (-149) by decide +kernel]; simp [FVal.Is]
  · rw [show f32.decode 0xBF800000 = .fin true 8388608 (-23) by decide +kernel]; norm_num [FVal.Is, zpow_neg]

/-- CVT of 1.0 and of the integer 5. -/
theorem witness_ConversionRounding : sourceIs 0 0x3F800000 1 ∧ sourceIs 4 5 5 ∧ (0x12 : Nat) % 8 ≠ 0 ∧
    ((fmtFrom 0).decode ((0x7FC00000 : DWord).toNat % 2 ^ ((fmtFrom 0).eb + (fmtFrom 0).mb + 1))).isNan = true ∧
    (fmtFrom 0).decode ((0x7F800000 : DWord).toNat % 2 ^ ((fmtFrom 0).eb + (fmtFrom 0).mb + 1)) = .inf false := by
  refine ⟨?_, ?_, by decide, by decide +kernel, by decide +kernel⟩
  · have e : (fmtFrom 0).decode ((0x3F800000 : DWord).toNat % 2 ^ ((fmtFrom 0).eb + (fmtFrom 0).mb + 1)) = .fin false 8388608 (-23) := by decide +kernel
    rw [sourceIs, if_pos (by decide), e]; norm_num [FVal.Is, zpow_neg]
  · rw [sourceIs, if_neg (by decide), show intFrom 4 5 = 5 by decide]; norm_num

theorem witness_ConversionWords : ∃ i x s, convertWord i = some x ∧ LaneOk i x s :=
  ⟨.cvt c0 0 9 4 0x28, _, running, rfl, issues _ _ (by decide +kernel) .., rfl, trivial, by unfold State.lanesReady; decide +kernel, by decide +kernel⟩

theorem witness_CrossLaneWords : ∃ i x s, crossWord i = some x ∧ LaneOk i x s :=
  ⟨.lgetXr c0 3 1 2, _, with2 1 2 none none, rfl, issues _ _ (by decide +kernel) .., rfl, fun j hj i hi => by
      rw [show (with2 1 2 none none).cur.on c0 = [0] by decide +kernel, List.mem_singleton] at hj
      subst hj
      have e : lgetLane 3 (with2 1 2 none none).visW ((with2 1 2 none none).laneId 0) ((with2 1 2 none none).bLane 0 2).toNat = some 2 := by
        decide +kernel
      cases e.symm.trans hi; decide +kernel,
    by unfold State.lanesReady; decide +kernel, by decide +kernel⟩

theorem witness_UniformWords : ∃ i x s, uniWord i = some x ∧ GroupOk i x s :=
  ⟨.iaddU c0 4 1 2, _, with2 1 2 none none, rfl, issues _ _ (by decide +kernel) .., rfl, trivial, by decide +kernel, trivial, fun h => absurd h (by decide +kernel)⟩

theorem witness_SystemWords : ∃ i x s, systemWord i = some x ∧ GroupOk i x s :=
  ⟨.doze c0 1, _, running, rfl, issues _ _ (by decide +kernel) .., rfl, trivial, by decide +kernel, (by change _ ≤ _; decide +kernel), fun h => absurd h (by decide +kernel)⟩

theorem witness_SpecialRegisters : (∃ i x s, readWord i = some x ∧ GroupOk i x s) ∧ ∃ i x s, writeWord i = some x ∧ GroupOk i x s :=
  ⟨⟨.rdsr c0 4 0x11, _, onCur (fun g => { g with sup := true }), rfl, issues _ _ (by decide +kernel) .., rfl, trivial, by decide +kernel,
    ⟨fun _ => rfl, fun h => absurd h (by decide)⟩, fun h => absurd h (by decide +kernel)⟩,
   ⟨.wrsr c0 0x0D 1, _, running, rfl, issues _ _ (by decide +kernel) .., rfl, trivial, by decide +kernel,
    .inl rfl, fun h => absurd h (by decide +kernel)⟩⟩

theorem witness_VoteWords : ∃ i x s, voteWord i = some x ∧ GroupOk i x s :=
  ⟨.ballot c0 4 0, _, running, rfl, issues _ _ (by decide +kernel) .., rfl, trivial, by decide +kernel, fun h => absurd h (by decide +kernel), fun h => absurd h (by decide +kernel)⟩

theorem witness_ControlWords : ∃ i x s, jumpWord i = some x ∧ GroupOk i x s :=
  ⟨.braLane c0 0 2, _, running, rfl, issues _ _ (by decide +kernel) .., rfl, trivial, by decide +kernel,
    ⟨by decide +kernel, by decide +kernel, .inl (by decide +kernel)⟩, fun h => absurd h (by decide +kernel)⟩

/-- LoadWords: a lane load with and without a lookahead, a tagged step, a tag write, and a uniform load. -/
theorem witness_LoadWords : (∀ i ∈ [Instr.ldg c0 1 3 1 1 0, .ldg c0 0 3 1 1 0, .stf c0 2 1, .tags c0 1 1 0], ∃ x s, laneLoad i = some x ∧
      Issues s i .takes x.mods false x.slice false ∧ wellFormed i = true ∧ s.lanesReady (s.cur.on x.ctl) (x.dsts s) x.srcs ∧
      x.split s = none ∧ (∀ j ∈ s.served (s.cur.on x.ctl), ∃ a, x.route s j = .to a) ∧ s.served (s.cur.on x.ctl) = [0]) ∧
    ∃ i x s, uniLoad i = some x ∧ GroupOk i x s := by
  refine ⟨fun i hi => ?_, .ldk c0 1 4 1 1 0, _, mapped (with2 0x40 0 none none), rfl, issues _ _ (by decide +kernel) .., rfl, trivial,
    by decide +kernel, goodRoute (by decide +kernel), fun h => absurd h (by decide +kernel)⟩
  simp only [List.mem_cons, List.not_mem_nil, or_false] at hi
  rcases hi with rfl | rfl | rfl | rfl <;>
    exact ⟨_, mapped (with2 0x40 0 none none), rfl, issues _ _ (by decide +kernel) .., rfl, by unfold State.lanesReady; decide +kernel,
      by decide +kernel, routes (by decide +kernel), by decide +kernel⟩

theorem witness_StoreWords : (∃ i x s, laneStore i = some x ∧ Issues s i .takes x.mods false false false ∧ wellFormed i = true ∧
      s.lanesReady (s.cur.on x.ctl) [] x.srcs ∧ x.split s = none ∧ s.noReds ∧
      (∀ j ∈ s.served (s.cur.on x.ctl), ∃ a, x.route s j = .to a ∧ s.noneOwn (fun e => x.after s e a)) ∧ s.served (s.cur.on x.ctl) = [0]) ∧
    ∃ i x s, uniStore i = some x ∧ GroupOk i x s :=
  ⟨⟨.sts c0 2 1 0, _, with2 0x40 7 none none, rfl, issues _ _ (by decide +kernel) .., rfl, by unfold State.lanesReady; decide +kernel, by decide +kernel,
    noReds _ (by decide +kernel), freeRoutes (by decide +kernel) (by decide +kernel), by decide +kernel⟩,
   ⟨.stk c0 2 1 1 0, _, mapped (with2 0x40 7 none none), rfl, issues _ _ (by decide +kernel) .., rfl, trivial, by decide +kernel,
    ⟨noReds _ (by decide +kernel), freeRoute (by decide +kernel) (by decide +kernel)⟩, fun h => absurd h (by decide +kernel)⟩⟩

theorem witness_StoreFrame : ∃ x s, laneStore (.stg c0 2 1 1 0) = some x ∧ Issues s (.stg c0 2 1 1 0) .takes x.mods false false false ∧
    wellFormed (.stg c0 2 1 1 0) = true ∧ s.lanesReady (s.cur.on c0) [] x.srcs ∧ x.split s = none ∧ s.noReds ∧
    (∀ j ∈ s.served (s.cur.on c0), ∃ a, x.route s j = .to a ∧ s.noneOwn (fun e => x.after s e a)) ∧
    (s.served (s.cur.on c0)).getLast? = some 0 :=
  ⟨_, mapped (with2 0x40 7 none none), rfl, issues _ _ (by decide +kernel) .., rfl, by unfold State.lanesReady; decide +kernel, by decide +kernel,
    noReds _ (by decide +kernel), freeRoutes (by decide +kernel) (by decide +kernel), by decide +kernel⟩

/-- An ATOM with and without a lookahead, and a RED. -/
theorem witness_AtomWords : ∀ i ∈ [Instr.atomAdd c0 2 2 1 1 0, .atomAdd c0 0 2 1 1 0, .red32 c0 0 2 1 1], ∃ x s, atomWord i = some x ∧
    Issues s i .takes (if x.ret then mORD + mSC else 0x800 + mSC) false false false ∧
    wellFormed i = true ∧ s.lanesReady (s.cur.on x.ctl) x.dsts x.srcs ∧
    s.pairMismatch (s.cur.on x.ctl) (fun j => [(s.laneX x.o j).toNat, (x.xOf s j).toNat, if x.op = .cas then (x.yOf s j).toNat else 0]) = none ∧
    (∀ j ∈ s.served (s.cur.on x.ctl), ∃ a, s.route x.t (s.laneX x.o j) x.bytes true = .to a ∧
      s.noneOwn (fun e => s.touchesMem e a x.bytes)) ∧ s.served (s.cur.on x.ctl) = [0] := by
  intro i hi
  simp only [List.mem_cons, List.not_mem_nil, or_false] at hi
  rcases hi with rfl | rfl | rfl <;>
    exact ⟨_, mapped (with2 0x40 7 none none), rfl, issues _ _ (by decide +kernel) .., rfl, by unfold State.lanesReady; decide +kernel,
      by decide +kernel, freeRoutes (by decide +kernel) (by decide +kernel), by decide +kernel⟩

theorem witness_FenceWords : ∃ i x s, fenceWord i = some x ∧ GroupOk i x s :=
  ⟨.phase c0 0 5, _, running, rfl, issues _ _ (by decide +kernel) .., rfl, trivial, by decide +kernel, trivial, fun h => absurd h (by decide +kernel)⟩

/-! ### Witnesses: engine, step and waiting words -/

/-- The first MiB under a lease. -/
def leased (s : State) : State := { s with launch := { s.launch with leases := [{ base := 0, len := 2 ^ 20, tier := 0, wr := true }] } }

/-- A channel from core 0 to itself. -/
def chan (fifo : List Entry) : Chan :=
  { bind := { sender := 0, out := 0, recv := 0, inp := 0 }, transit := [], fifo := fifo, toy := [], toyOn := false, toyAt := 0, toyCap := 0
    toyNext := 0, closed := false }

def channelled (fifo : List Entry) : State := onLaunch (fun l => { l with chans := [chan fifo] })
def entry : Entry := { words := List.replicate 16 7, know := [] }

/-- A paced launch with one step buffer of two slots of 64 bytes. -/
def paced : State := { running with
  launch := { running.launch with words := [0, 0x0001000100000001, 0x40001001001, 0, 0, 0, 0, 0] }
  wg := { running.wg with kern := { running.wg.kern with bufs := [(2, 64)] } } }

def pace0 : Pace := .fresh paced.launch.uid { core := 0, up := [], down := [] }
def stepping (p : Pace) : State := { paced with core := { running.core with paces := [p] } }

/-- The registers of a COPY: 64 bytes from 0x1000 to offset 0 of the scratchpad, counter at 0x2000. -/
def copyRegs (g : Group) : Group := { g with s := [(4, 0x1000), (6, 0x100040), (7, 0x40000000), (8, 0x2000), (9, 1)] }
def aCopy (id : Nat) : Copy :=
  { id := id, core := 0, wg := 1, launch := 1, from_ := running.cur.key, src := 0, dst := 64, sstride := 0, dstride := 0, rows := 1, rowb := 4,
    skind := 1, dkind := 1, zero := false, full := false, scope := 5, counter := 0x2000, counterVa := 0x2000, inc := 1, moved := [], data := [], known := [],
    fresh := [], sent := none }

def spec (n : Nat) (send : Bool) : QueueSpec :=
  { launch := 1, number := n, send := send, port := none, ordered := true, op := .send, peer := 0, job := 0, tclass := 0, timeout := some 1000000 }

/-- A supervisor group on a device with memory. -/
def super : State := { onCur (fun g => { g with sup := true }) with cap := { running.cap with near := [64] } }

theorem witness_QueryWords_span : ∃ x, queryWord (.spanq c0 4) = some x ∧ GroupOk (.spanq c0 4) x running :=
  ⟨_, rfl, issues _ _ (by decide +kernel) .., rfl, trivial, by decide +kernel, trivial, fun h => absurd h (by decide +kernel)⟩

theorem witness_QueryWords_give : ∃ x, queryWord (.give c0 7) = some x ∧ GroupOk (.give c0 7) x running :=
  ⟨_, rfl, issues _ _ (by decide +kernel) .., rfl, trivial, by decide +kernel, ⟨by unfold userMode; decide +kernel, by decide +kernel⟩,
    fun h => absurd h (by decide +kernel)⟩

theorem witness_QueryWords_claim : ∃ x s, queryWord (.claim c0 1) = some x ∧ GroupOk (.claim c0 1) x s :=
  ⟨_, { onCur (fun g => { g with count := 56 }) with wg := { running.wg with account := 256 } }, rfl, issues _ _ (by decide +kernel) .., rfl, trivial,
    by decide +kernel, ⟨by unfold userMode; decide +kernel, by decide +kernel⟩, fun h => absurd h (by decide +kernel)⟩

theorem witness_QueryWords_queue : ∃ x, queryWord (.qstat c0 4) = some x ∧ GroupOk (.qstat c0 4) x running :=
  ⟨_, rfl, issues _ _ (by decide +kernel) .., rfl, trivial, by decide +kernel, trivial, fun h => absurd h (by decide +kernel)⟩

theorem witness_QueryWords_poll : ∃ x, queryWord (.chpoll c0 1 0 0) = some x ∧ GroupOk (.chpoll c0 1 0 0) x (channelled [entry]) :=
  ⟨_, rfl, issues _ _ (by decide +kernel) .., rfl, trivial, by decide +kernel, ⟨by unfold userMode; decide +kernel, by decide +kernel⟩,
    fun h => absurd h (by decide +kernel)⟩

theorem witness_QueryWords_slot : ∃ x, queryWord (.slot c0 4 5 0) = some x ∧ GroupOk (.slot c0 4 5 0) x paced :=
  ⟨_, rfl, issues _ _ (by decide +kernel) .., rfl, trivial, by decide +kernel, ⟨by unfold userMode; decide +kernel, by decide +kernel⟩,
    fun h => absurd h (by decide +kernel)⟩

theorem witness_QueryWords_mwait : ∃ x, queryWord (.mwait c0 0 3) = some x ∧ GroupOk (.mwait c0 0 3) x running :=
  ⟨_, rfl, issues _ _ (by decide +kernel) .., rfl, trivial, by decide +kernel,
    ⟨by unfold userMode; decide +kernel, fun m h => absurd h (by rw [show running.core.mq = [] by decide +kernel]; exact List.not_mem_nil),
      fun m h => absurd h (by rw [show running.cur.matBad = [] by decide +kernel]; exact List.not_mem_nil)⟩,
    fun h => absurd h (by decide +kernel)⟩

theorem witness_EngineWords_copy : ∃ x s, engineWord (.copy c0 0 4 8) = some x ∧ GroupOk (.copy c0 0 4 8) x s :=
  ⟨_, leased (onCur copyRegs), rfl, issues _ _ (by decide +kernel) .., rfl, trivial, by decide +kernel,
    ⟨by unfold userMode; decide +kernel, by unfold copyGood; decide +kernel⟩, fun h => absurd h (by decide +kernel)⟩

/-- A counter wait whose target is reached, and one with a target of 0. -/
theorem witness_EngineWords_wait : ∃ x s, engineWord (.waitge c0 8 9) = some x ∧ GroupOk (.waitge c0 8 9) x s :=
  ⟨_, { leased (onCur copyRegs) with mem := [(0x2000, 1)] }, rfl, issues _ _ (by decide +kernel) .., rfl, trivial, by decide +kernel,
    ⟨by unfold userMode; decide +kernel, by decide +kernel, by decide +kernel, noneOwn _ (by decide +kernel), by unfold counterMet; decide +kernel⟩,
    fun h => absurd h (by decide +kernel)⟩

theorem witness_EngineWords_npost : ∃ x s, engineWord (.npost c0 0 4 8) = some x ∧ GroupOk (.npost c0 0 4 8) x s :=
  ⟨_, let s := leased (onCur copyRegs)
    { s with launch := { s.launch with queues := [{ spec := spec 0 false, error := false, next := 0 }] }, mem := [(0x1001, 0x30), (0x1008, 0x40)] },
    rfl, issues _ _ (by decide +kernel) .., rfl, trivial, by decide +kernel,
    ⟨by unfold userMode; decide +kernel, by decide +kernel⟩, fun h => absurd h (by decide +kernel)⟩

theorem witness_EngineWords_send : ∃ x s, engineWord (.chsend c0 3 0) = some x ∧ GroupOk (.chsend c0 3 0) x s :=
  ⟨_, channelled [], rfl, issues _ _ (by decide +kernel) .., rfl, trivial, by decide +kernel,
    (by refine ⟨by unfold userMode; decide +kernel, ?_, ?_, ?_, chan [], ?_⟩ <;> decide +kernel),
    fun h => absurd h (by decide +kernel)⟩

theorem witness_EngineWords_receive : ∃ x s, engineWord (.chrecv c0 1 3 0) = some x ∧ GroupOk (.chrecv c0 1 3 0) x s :=
  ⟨_, channelled [entry, entry], rfl, issues _ _ (by decide +kernel) .., rfl, trivial, by decide +kernel,
    ⟨by unfold userMode; decide +kernel, by decide +kernel, chan [entry, entry], by decide +kernel, rfl, by decide +kernel⟩,
    fun h => absurd h (by decide +kernel)⟩

theorem witness_LaunchAndStepWords_launch : ∃ x s, launchWord (.launch c0 0 4) = some x ∧ GroupOk (.launch c0 0 4) x s :=
  ⟨_, leased (onCur copyRegs), rfl, issues _ _ (by decide +kernel) .., rfl, trivial, by decide +kernel,
    ⟨by unfold userMode; decide +kernel, by decide +kernel⟩, fun h => absurd h (by decide +kernel)⟩

theorem witness_LaunchAndStepWords_step : ∃ x s, launchWord (.ldstep c0 1 3 2 0) = some x ∧ GroupOk (.ldstep c0 1 3 2 0) x s :=
  ⟨_, stepping { pace0 with step := 1, ended := 1 }, rfl, issues _ _ (by decide +kernel) .., rfl, trivial, by decide +kernel,
    (by refine ⟨by unfold userMode; decide +kernel, ?_, ?_, ?_, ?_, ?_, ?_,
      .inr (by decide +kernel), ?_, ?_, paced.wg, ?_, fun off => by
        unfold State.wgPadPoison; rw [show State.findWg _ paced.wg.uid = some paced.wg by decide +kernel]
        simp [Workgroup.padPoison, show paced.wg.padBad = [] by decide +kernel, show paced.wg.status = .running by decide +kernel]⟩ <;> decide +kernel),
    fun h => absurd h (by decide +kernel)⟩

theorem witness_LaunchAndStepWords_image : ∃ x, launchWord (.accstFrameImage c0 1) = some x ∧ GroupOk (.accstFrameImage c0 1) x super :=
  ⟨_, rfl, issues _ _ (by decide +kernel) .., rfl, trivial, by decide +kernel,
    (by refine ⟨?_, ?_, ?_, ?_, fun _ h => absurd h (by rw [show super.core.frame _ = Frame.free by decide +kernel]; exact fun h => nomatch h)⟩ <;> decide +kernel),
    fun h => absurd h (by decide +kernel)⟩

/-- A frame image whose descriptor names the running launch's tile. -/
theorem witness_LaunchAndStepWords_restore : ∃ x s, launchWord (.accldFrameImage c0 1) = some x ∧ GroupOk (.accldFrameImage c0 1) x s :=
  ⟨_, super, rfl, issues _ _ (by decide +kernel) .., rfl, trivial, by decide +kernel,
    ⟨by decide +kernel, by decide +kernel⟩, fun h => absurd h (by decide +kernel)⟩

/-- The hypotheses of WaitWord.Does. -/
def WaitOk (i : Instr) (x : WaitWord) (s : State) : Prop :=
  Issues s i x.imm x.mods false false false ∧ wellFormed i = true ∧ s.cur.sup = false ∧ s.cur.guard x.ctl = true ∧ x.when_ s

theorem witness_WaitingWords_copy : ∃ x s, waitWord (.copy c0 0 4 8) = some x ∧ WaitOk (.copy c0 0 4 8) x s :=
  ⟨_, { leased (onCur copyRegs) with copies := (List.range 16).map aCopy }, rfl, issues _ _ (by decide +kernel) .., rfl, by decide +kernel⟩

theorem witness_WaitingWords_mwait : ∃ x s, waitWord (.mwait c0 0 3) = some x ∧ WaitOk (.mwait c0 0 3) x s :=
  ⟨_, onCore (fun c => { c with mq := [{ wg := 1, quad := 0, tile := 3, word := { major := 0x39, fn := 1, y := 3, k := 0, x := 0 }, known := [], serial := 0, taken := none }] }),
    rfl, issues _ _ (by decide +kernel) .., rfl, by decide +kernel, by decide +kernel, _, .head _, by decide +kernel, by decide +kernel, .inr (by decide)⟩

theorem witness_WaitingWords_send : ∃ x s, waitWord (.chsend c0 3 0) = some x ∧ WaitOk (.chsend c0 3 0) x s := by
  refine ⟨_, channelled (List.replicate 63 entry), rfl, issues _ _ (by decide +kernel) .., rfl, ?_, ?_,
    ?_, ?_, ?_, ?_, chan (List.replicate 63 entry), ?_⟩ <;> decide +kernel

theorem witness_WaitingWords_receive : ∃ x s, waitWord (.chrecv c0 1 3 0) = some x ∧ WaitOk (.chrecv c0 1 3 0) x s := by
  refine ⟨_, channelled [entry], rfl, issues _ _ (by decide +kernel) .., rfl, ?_, ?_,
    ?_, chan [entry], ?_⟩ <;> decide +kernel

theorem witness_WaitingWords_step : ∃ x s, waitWord (.ldstep c0 1 3 2 0) = some x ∧ WaitOk (.ldstep c0 1 3 2 0) x s :=
  ⟨_, paced, rfl, issues _ _ (by decide +kernel) .., rfl, by decide +kernel⟩

/-- A counter below its target. -/
theorem witness_WaitingWords_waitge : ∃ (s : State) (pa : Nat), Issues s (.waitge c0 8 9) .none mSC false false false ∧ wellFormed (.waitge c0 8 9) = true ∧
    s.cur.guard c0 = true ∧ s.cur.sup = false ∧ (s.cur.sget 8).toNat % 8 = 0 ∧ s.viaTlb s.launch (s.cur.sget 8).toNat 8 false = some pa ∧
    s.noneOwn (fun e => s.touchesMem e pa 8) ∧ ¬counterMet (counterFirst s pa) pa (s.cur.sget 9) :=
  ⟨leased (onCur copyRegs), 0x2000, issues _ _ (by decide +kernel) .., rfl, by decide +kernel, by decide +kernel, by decide +kernel,
    by decide +kernel, noneOwn _ (by decide +kernel), by unfold counterMet; decide +kernel⟩

theorem witness_WaitingWords_doze : ∃ s : State, Issues s (.doze c0 1) .none 0 false false false ∧ wellFormed (.doze c0 1) = true ∧ s.cur.guard c0 = true ∧
    s.time.now < (s.cur.sget (1 : BitVec 6).toNat).toNat :=
  ⟨with2 5 0 none none, issues _ _ (by decide +kernel) .., rfl, by decide +kernel⟩

/-! ### Witnesses: traps, control of groups, steps -/

/-- At an ordinary word, and at the last one before the gap. -/
theorem witness_SoftwareTraps : ∀ s ∈ [running, onCur (fun g => { g with pc := 2 ^ 56 - 4 })],
    (∀ i ∈ [Instr.trap c0 5, .svc c0 5], Clears s i .none 0 false false false) ∧ Plain s ∧
    s.cur.guard c0 = true ∧ wellFormed (.trap c0 5) = true ∧ wellFormed (.svc c0 5) = true := by
  intro s hs
  simp only [List.mem_cons, List.not_mem_nil, or_false] at hs
  rcases hs with rfl | rfl <;>
    exact ⟨fun _ _ => clears _ _ (by decide +kernel) .., plain _ (by decide +kernel), by decide +kernel, rfl, rfl⟩

theorem witness_TrapReturn : ∃ s : State, Issues s (.eret c0) .none 0 false false false ∧ wellFormed (.eret c0) = true ∧ s.cur.guard c0 = true ∧
    s.cur.sup = true ∧ s.cur.pend = [] :=
  ⟨super, issues _ _ (by decide +kernel) .., rfl, by decide +kernel⟩

/-- A bad hint, an IMM on a word that takes none, and a MOD field that is not accepted. -/
theorem witness_IllegalRuns :
    (∃ f s, formOf (.iadd c0 3 1 2) = some f ∧ wellFormed (.iadd c0 3 1 2) = true ∧ Plain s ∧ f.also s ∧ s.cur.run.bad = some 7) ∧
    (∃ f s v, formOf (.clz c0 3 1) = some f ∧ wellFormed (.clz c0 3 1) = true ∧ Plain s ∧ f.also s ∧ s.cur.run.bad = none ∧
      s.cur.run.imm = some v ∧ ¬f.imm.accepts (some v)) ∧
    ∃ f s m, formOf (.iadd c0 3 1 2) = some f ∧ wellFormed (.iadd c0 3 1 2) = true ∧ Plain s ∧ f.also s ∧ s.cur.run.bad = none ∧
      f.imm.accepts s.cur.run.imm ∧ s.cur.run.mod = some m ∧ modPairBad m.toNat f.mods f.sx = true :=
  ⟨⟨_, onCur (fun g => { g with run := { g.run with bad := some 7 } }), rfl, rfl, plain _ (by decide +kernel), trivial, by decide +kernel⟩,
   ⟨_, with2 1 2 none (some 5), 5, rfl, rfl, plain _ (by decide +kernel), trivial, by decide +kernel, by decide +kernel, by simp [ImmUse.accepts, w1]⟩,
   _, with2 1 2 (some 2) none, 2, rfl, rfl, plain _ (by decide +kernel), trivial, by decide +kernel, .inl (by decide +kernel), by decide +kernel⟩

/-- The hypotheses of TrapWord.Does. -/
def TrapOk (i : Instr) (x : TrapWord) (s : State) : Prop :=
  Issues s i x.imm x.mods false false false ∧ wellFormed i = true ∧ Plain s ∧ s.cur.guard x.ctl = true ∧ x.when_ s

/-- BRX to an address that is not canonical, and to one at an odd byte; the boundary values of the two rows. -/
theorem witness_OperandTraps_brx : ∃ x y, trapWord (.brx c0 1) = [x, y] ∧ TrapOk (.brx c0 1) x (with2 (2 ^ 56) 0 none none) ∧
    TrapOk (.brx c0 1) y (with2 (2 ^ 56 - 1) 0 none none) :=
  ⟨_, _, rfl, ⟨issues _ _ (by decide +kernel) .., rfl, plain _ (by decide +kernel), by decide +kernel, by change _ = _; decide +kernel⟩,
    issues _ _ (by decide +kernel) .., rfl, plain _ (by decide +kernel), by decide +kernel⟩

theorem witness_OperandTraps_loop : ∃ x, trapWord (.loop c0 1 8) = [x] ∧ TrapOk (.loop c0 1 8) x { with2 2 0 none none with
      cur := { (with2 2 0 none none).cur with pc := 2 ^ 56 - 8 } } :=
  ⟨_, rfl, issues _ _ (by decide +kernel) .., rfl, plain _ (by decide +kernel), by decide +kernel, by decide +kernel, by decide +kernel⟩

theorem witness_OperandTraps_rdsr : ∃ x y, trapWord (.rdsr c0 60 0x11) = [x, y] ∧ TrapOk (.rdsr c0 60 0x11) x running ∧
    ∃ z w, trapWord (.rdsr c0 60 0) = [z, w] ∧ TrapOk (.rdsr c0 60 0) w (onCur (fun g => { g with count := 60 })) :=
  ⟨_, _, rfl, ⟨issues _ _ (by decide +kernel) .., rfl, plain _ (by decide +kernel), by decide +kernel, Nat.le_refl _⟩, _, _, rfl,
    issues _ _ (by decide +kernel) .., rfl, plain _ (by decide +kernel), by decide +kernel, .inl (by decide), by decide +kernel⟩

/-- GIVE and CLAIM under 16-lane compatibility, and GIVE of more registers than the group may give. -/
def narrow : State := onWg (fun w => { w with kern := { w.kern with compat := true } })
theorem witness_OperandTraps_give : ∃ x y, trapWord (.give c0 8) = [x, y] ∧ TrapOk (.give c0 8) x narrow ∧
    TrapOk (.give c0 8) y (onCur (fun g => { g with count := 64 })) :=
  ⟨_, _, rfl, ⟨issues _ _ (by decide +kernel) .., rfl, plain _ (by decide +kernel), by decide +kernel, by change _ = _; decide +kernel⟩,
    issues _ _ (by decide +kernel) .., rfl, plain _ (by decide +kernel), by decide +kernel⟩

theorem witness_OperandTraps_claim : ∃ x, trapWord (.claim c0 1) = [x] ∧ TrapOk (.claim c0 1) x narrow :=
  ⟨_, rfl, issues _ _ (by decide +kernel) .., rfl, plain _ (by decide +kernel), by decide +kernel, by change _ = _; decide +kernel⟩

theorem witness_OperandTraps_step : ∃ x, trapWord (.stepend c0) = [x] ∧ TrapOk (.stepend c0) x running :=
  ⟨_, rfl, issues _ _ (by decide +kernel) .., rfl, plain _ (by decide +kernel), by decide +kernel, by change _ = _; decide +kernel⟩

theorem witness_OperandTraps_rets : ∃ x, trapWord (.rets c0 1 2) = [x] ∧ TrapOk (.rets c0 1 2) x (with2 0 (2 ^ 30) none none) :=
  ⟨_, rfl, issues _ _ (by decide +kernel) .., rfl, plain _ (by decide +kernel), by decide +kernel, by change _ ≤ _; decide +kernel⟩

/-- A group of 40 registers. -/
def small : State := onCur (fun g => { g with count := 40 })

/-- Of a group of 40 registers: v40 as a destination, v40 as the second source, an odd pair as a destination; of a load the datum, of a store
the offset, of an ATOM the pair. -/
theorem witness_RegisterTraps :
    (∀ y ∈ ([(.iadd c0 40 1 2, (40, 1)), (.fadd c0 3 1 40, (40, 1)), (.iaddPair c0 33 2 2, (33, 2)), (.shl c0 3 41 2, (41, 1)), (.cvt c0 0 9 44 0x28, (44, 1)),
        (.lgetXr c0 42 1 2, (42, 1))] : List (Instr × VReg)),
      wellFormed y.1 = true ∧ ∃ x, laneTable y.1 = some x ∧ Clears small y.1 x.imm x.mods x.sx x.slice true ∧ small.cur.on x.ctl ≠ [] ∧
        firstBad small x.dsts (x.srcs small) = some y.2) ∧
    Plain small ∧ (∀ i ∈ [Instr.iadd c0 40 1 2, .fadd c0 3 1 40, .iaddPair c0 33 2 2, .shl c0 3 41 2, .cvt c0 0 9 44 0x28], ∀ x, laneTable i = some x → x.also small) ∧
    (∃ x, laneLoad (.ldg c0 1 40 1 1 0) = some x ∧ Clears small (.ldg c0 1 40 1 1 0) .takes x.mods false x.slice false ∧ small.cur.on x.ctl ≠ [] ∧
      firstBad small (x.dsts small) x.srcs = some (40, 1)) ∧
    (∃ x, laneStore (.sts c0 2 40 0) = some x ∧ Clears small (.sts c0 2 40 0) .takes x.mods false false false ∧ small.cur.on x.ctl ≠ [] ∧
      firstBad small [] x.srcs = some (40, 1)) ∧
    ∃ x, atomWord (.atomAdd c0 1 20 1 1 1) = some x ∧ Clears small (.atomAdd c0 1 20 1 1 1) .takes (if x.ret then mORD + mSC else 0x800 + mSC) false false false ∧
      small.cur.on x.ctl ≠ [] ∧ firstBad small x.dsts x.srcs = some (40, 2) := by
  have k : ∀ i u m x y z, Clears small i u m x y z := fun i => clears _ _ (by decide +kernel)
  refine ⟨fun y hy => ?_, plain _ (by decide +kernel), fun i hi x hx => ?_, ⟨_, rfl, k .., ?_, ?_⟩, ⟨_, rfl, k .., ?_, ?_⟩, _, rfl, k .., ?_, ?_⟩
  · simp only [List.mem_cons, List.not_mem_nil, or_false] at hy
    rcases hy with rfl | rfl | rfl | rfl | rfl | rfl <;> exact ⟨rfl, _, rfl, k .., by decide +kernel⟩
  · simp only [List.mem_cons, List.not_mem_nil, or_false] at hi
    rcases hi with rfl | rfl | rfl | rfl | rfl <;> cases hx <;> trivial
  all_goals decide +kernel

theorem witness_SupervisorTrapEndsLaunch : ∃ s : State, userOnly (.mzero c0 0) = some (c0, .none, 0) ∧ Issues s (.mzero c0 0) .none 0 false false false ∧
    wellFormed (.mzero c0 0) = true ∧ s.cur.guard c0 = true ∧ s.cur.sup = true ∧ s.cur.key.shadow = false ∧ s.cur.pend = [] ∧ s.traces = [] ∧ Placed s := by
  refine ⟨super, rfl, issues _ _ (by decide +kernel) .., rfl, ?_, ?_, ?_, ?_, ?_,
    placed _ (by decide +kernel)⟩ <;> decide +kernel

/-- The last word below the gap of the address space. -/
def lastWord : State := mapped { with2 0x40 7 none none with cur := { (with2 0x40 7 none none).cur with pc := 2 ^ 56 - 4 } }

/-- A word of each kind there: lane, uniform, load, store, atomic. -/
theorem witness_SequentialWrap : Plain lastWord ∧ canonical (lastWord.cur.pc + 4) = false ∧ canonical lastWord.cur.pc = true ∧
    ∀ i ∈ [Instr.iadd c0 3 1 2, .iaddU c0 4 1 2, .ldg c0 1 3 1 1 0, .sts c0 2 1 0, .red32 c0 0 2 1 1], wellFormed i = true ∧ Completes i lastWord := by
  have k : ∀ i u m x y z, Clears lastWord i u m x y z := fun i => clears _ _ (by decide +kernel)
  refine ⟨plain _ (by decide +kernel), by decide +kernel, by decide +kernel, fun i hi => ?_⟩
  simp only [List.mem_cons, List.not_mem_nil, or_false] at hi
  rcases hi with rfl | rfl | rfl | rfl | rfl <;> refine ⟨rfl, ?_⟩
  · exact .lane _ rfl (k ..) trivial (by unfold State.lanesReady; decide +kernel)
  · exact .group _ rfl (k ..) trivial (fun _ => trivial)
  · exact .load _ rfl (k ..) (by unfold State.lanesReady; decide +kernel) (by decide +kernel) (routes (by decide +kernel))
  · exact .store _ rfl (k ..) (by unfold State.lanesReady; decide +kernel) (by decide +kernel) (noReds _ (by decide +kernel)) (by decide +kernel)
      (freeRoutes (by decide +kernel) (by decide +kernel))
  · exact .atom _ rfl (k ..) (by unfold State.lanesReady; decide +kernel) (by decide +kernel) (freeRoutes (by decide +kernel) (by decide +kernel))

theorem witness_SequentialWrap_call : ∃ s : State, Clears s (.call c0 0 1) .none 0 false false true ∧ wellFormed (.call c0 0 1) = true ∧ Plain s ∧
    s.cur.guard c0 = true ∧ canonical (branchAt s (1 : BitVec 19).toInt) = false :=
  ⟨lastWord, clears _ _ (by decide +kernel) .., rfl, plain _ (by decide +kernel), by decide +kernel, by decide +kernel⟩

/-- A quad of four groups, three of which have issued MZERO of tile 0, whose frame is frame 5. -/
def zero0 : MatWord := { major := 0x39, fn := 1, y := 0, k := 0, x := 0 }
def quad (issued : List Nat) : State := { running with
  groups := [1, 2, 3].map (fun g => { running.cur with key := { wg := 1, gid := g, shadow := false }, wait := .joint 0 })
  wg := { running.wg with joint := issued.map (fun g => (g, zero0)), groupsN := 4 }
  core := { running.core with frames := [(5, { Frame.free with owner := some { ctx := 0, packet := 0, l := 0, wg := 1, quad := 0, tile := 0 } })] } }

theorem witness_JointIssueWaits : ∃ x, jointWord (.mzero c0 0) = some x ∧ Issues (quad [1]) (.mzero c0 0) .none 0 false false false ∧
    wellFormed (.mzero c0 0) = true ∧ (quad [1]).cur.guard x.ctl = true ∧ (quad [1]).cur.sup = false ∧
    (quad [1]).quadComplete (quad [1]).wg.uid ((quad [1]).cur.key.gid / 4) = true ∧ x.low = false ∧
    ((quad [1]).wg.joint.filter (fun e => e.1 / 4 == (quad [1]).cur.key.gid / 4 && e.1 != (quad [1]).cur.key.gid)).length < 3 := by
  refine ⟨_, rfl, issues _ _ (by decide +kernel) .., rfl, ?_, ?_, ?_, rfl, ?_⟩ <;> decide +kernel

theorem witness_JointIssueEnters : ∃ x s, jointWord (.mzero c0 0) = some x ∧ Issues s (.mzero c0 0) .none 0 false false false ∧
    wellFormed (.mzero c0 0) = true ∧
    s.cur.guard x.ctl = true ∧ s.cur.sup = false ∧ s.cur.key.shadow = false ∧ s.quadComplete s.wg.uid (s.cur.key.gid / 4) = true ∧ x.low = false ∧
    Placed s ∧ s.noReds ∧ s.core.id = s.wg.core ∧ s.traces = [] ∧ JointReady s x := by
  refine ⟨_, quad [1, 2, 3], rfl, issues _ _ (by decide +kernel) .., rfl, ?_, ?_, ?_, ?_, rfl,
    placed _ (by decide +kernel), noReds _ (by decide +kernel), ?_, ?_,
    { others := ?_, same := ?_, areas := ?_, own := ?_, kept := ?_, frame := ?_, room := ?_ }⟩ <;> decide +kernel

theorem witness_HintWords : running.cur.live = true ∧ canonical (running.cur.pc + 4) = true := by decide +kernel

/-- Two threads, one of which diverged. -/
def forked : State := onCur (fun g => { g with
  width := 16, act := 1, exited := 0, stack := [{ pend := true, pc := 512, mask := 2 }]
  lanes := [(0, { Lane.empty with thread := some 0 }), (1, { Lane.empty with thread := some 1 })] })

theorem witness_ExitContinues : Issues forked (.exit c0) .none 0 false true true ∧ wellFormed (.exit c0) = true ∧ forked.cur.guard c0 = true ∧
    forked.cur.stack = [{ pend := true, pc := 512, mask := 2 }] ∧ (2 : Mask) ≠ 0 :=
  ⟨issues _ _ (by decide +kernel) .., rfl, by decide +kernel, by decide +kernel, by decide⟩

theorem witness_ExitRetires : Issues running (.exit c0) .none 0 false false true ∧ wellFormed (.exit c0) = true ∧ running.cur.guard c0 = true ∧
    running.cur.pend = [] ∧ (∀ r ∈ running.atomq, r.from_ ≠ running.cur.key) ∧ running.cur.stack = [] ∧ running.cur.key.shadow = false ∧
    running.groups = [] ∧ running.wg.claimQ = [] ∧ running.core.id = running.wg.core ∧ running.core.rdv = [] ∧ running.launch.paced = false ∧
    Placed running := by
  refine ⟨issues _ _ (by decide +kernel) .., rfl, ?_, ?_, ?_, ?_, ?_, ?_,
    ?_, ?_, ?_, ?_, placed _ (by decide +kernel)⟩ <;> decide +kernel

/-- A second group of the workgroup. -/
def second : Group := { running.cur with key := { wg := 1, gid := 1, shadow := false } }
theorem witness_StepEnds : ∀ s ∈ [stepping pace0, { stepping pace0 with groups := [second] }], Issues s (.stepend c0) .none 0 false false false ∧ wellFormed (.stepend c0) = true ∧
    s.cur.guard c0 = true ∧ s.cur.sup = false ∧ s.launch.paced = true ∧ Placed s ∧
    ((s.groups = [] ∧ s.cur.key.shadow = false ∧ s.noReds ∧ s.core.id = s.wg.core ∧ (∃ p ∈ s.core.paces, p.launch = s.launch.uid) ∧
        (s.core.pace s.launch.uid).ended = (s.core.pace s.launch.uid).step) ∨
      ∃ g ∈ s.groups, g.live = true ∧ g.key.wg = s.wg.uid ∧ g.key.shadow = false ∧ g.held = false) := by
  intro s hs
  rcases List.mem_cons.mp hs with rfl | hs
  · refine ⟨issues _ _ (by decide +kernel) .., rfl, ?_, ?_, ?_, placed _ (by decide +kernel),
      .inl ⟨by decide +kernel, by decide +kernel, noReds _ (by decide +kernel), by decide +kernel⟩⟩ <;> decide +kernel
  · rcases List.mem_singleton.mp hs with rfl
    refine ⟨issues _ _ (by decide +kernel) .., rfl, ?_, ?_, ?_, placed _ (by decide +kernel),
      .inr ⟨second, by decide +kernel⟩⟩ <;> decide +kernel

/-- RETS: another group still runs; alone with no object at the handle; alone with one that passes. -/
def succ : Kernel := { running.wg.kern with addr := 0x1000, extent := 64, regs := 1, pad := 0 }
theorem witness_RetsParks : ∀ s ∈ [{ running with groups := [second] }, running,
      { leased (with2 0x1000 0 none none) with objects := [succ] }],
    Issues s (.rets c0 1 2) .none 0 false false false ∧ wellFormed (.rets c0 1 2) = true ∧ s.cur.guard c0 = true ∧ s.cur.sup = false ∧ s.cur.key.shadow = false ∧
    s.cur.pend = [] ∧ (s.cur.sget 2).toNat < 2 ^ 30 ∧ Placed s := by
  intro s hs
  simp only [List.mem_cons, List.not_mem_nil, or_false] at hs
  rcases hs with rfl | rfl | rfl <;>
    refine ⟨issues _ _ (by decide +kernel) .., rfl, ?_, ?_, ?_, ?_, ?_,
      placed _ (by decide +kernel)⟩ <;> decide +kernel

theorem witness_RetsParks_clauses : (second.live = true ∧ second.key.wg = 1 ∧ second.key.shadow = false ∧ second.wait = .none) ∧
    (let p := running.setCur { running.cur with wait := .rets 0 0, waitSp := false, safe := false }; p.retsRefusal 1 [p.cur] = some 0x41) ∧
    (let s := { leased (with2 0x1000 0 none none) with objects := [succ] }
     let p := s.setCur { s.cur with wait := .rets 0x1000 0, waitSp := false, safe := false }; p.retsRefusal 1 [p.cur] = none) := by decide +kernel

/-- A SPAN at no mark, and one at a mark of a movable launch with another group on its way. -/
def marked : State := { running with
  groups := [second], core := { running.core with curve := 15 }
  wg := { running.wg with kern := { running.wg.kern with marks := [0] } }
  launch := { running.launch with words := [0, 0x0001000100000001, 0x3C001001001, 0, 0, 0, 0, 0] } }

theorem witness_SpanArrives : ∀ s ∈ [running, marked], Issues s (.span c0 2) .none 0 false false true ∧ wellFormed (.span c0 2) = true ∧ s.cur.guard c0 = true ∧
    s.cur.sup = false ∧ s.cur.key.shadow = false ∧ s.cur.pend = [] ∧ s.traces = [] ∧ s.core.id = s.wg.core ∧ Placed s ∧
    (∀ g ∈ s.groups, g.key.shadow = false) := by
  intro s hs
  simp only [List.mem_cons, List.not_mem_nil, or_false] at hs
  rcases hs with rfl | rfl <;>
    refine ⟨issues _ _ (by decide +kernel) .., rfl, ?_, ?_, ?_, ?_, ?_,
      ?_, placed _ (by decide +kernel), ?_⟩ <;> decide +kernel

theorem witness_SpanArrives_clauses : running.spanRefusal 2 = some 1 ∧ running.core.rdv = [] ∧ marked.spanRefusal 2 = none ∧
    ∃ g ∈ marked.groups, g.live = true ∧ g.key.wg = marked.wg.uid ∧ g.atSpan = false := by
  refine ⟨?_, ?_, ?_, second, ?_⟩ <;> decide +kernel

theorem witness_IntegerDivision : (7 : BitVec 32).toInt ≠ 0 ∧ ¬((7 : BitVec 32).toInt = lowest 32 ∧ (7 : BitVec 32).toInt = -1) ∧
    (0x80000000 : BitVec 32).toInt = lowest 32 ∧ (0xFFFFFFFF : BitVec 32).toInt = -1 ∧ (remS 0xFFFFFFF9 (2 : BitVec 32)).toInt ≠ 0 := by decide +kernel

theorem witness_IntegerArithmetic : (with2 0 0 none none).cur.run.sat = false ∧ (with2 0 0 (some 0x100000) none).cur.run.sat = true ∧
    (with2 0 0 (some 0x100000) none).cur.run.sx = false ∧ (with2 0 0 (some 0x140000) none).cur.run.sx = true := by decide +kernel

/-- LOOP with a counter of 0, of 1 and of 2, and naming s0. -/
theorem witness_LoopRule : ∀ x ∈ ([0, 1, 2] : List DWord),
    (∀ d ∈ ([0, 1] : List (BitVec 6)), Issues (with2 x 0 none none) (.loop c0 d 8) .takes 0 false true true ∧ wellFormed (.loop c0 d 8) = true) ∧
    (with2 x 0 none none).cur.guard c0 = true ∧
    (with2 x 0 none none).cur.key.shadow = false ∧ (with2 x 0 none none).cur.sup = false ∧ canonical ((with2 x 0 none none).cur.pc + 32) = true := by
  intro x hx
  simp only [List.mem_cons, List.not_mem_nil, or_false] at hx
  rcases hx with rfl | rfl | rfl <;>
    exact ⟨fun _ _ => ⟨issues _ _ (by decide +kernel) .., rfl⟩, by decide +kernel⟩

theorem witness_Votes : (∀ i ∈ [Instr.voteAny c0 2 1, .voteAll c0 2 1, .voteSame c0 2 1], Issues running i .none 0 false false true) ∧
    running.cur.on c0 ≠ [] ∧ wellFormed (.voteAny c0 2 1) = true ∧ wellFormed (.voteAll c0 2 1) = true ∧ wellFormed (.voteSame c0 2 1) = true :=
  ⟨fun _ _ => issues _ _ (by decide +kernel) .., by decide +kernel, rfl, rfl, rfl⟩

theorem witness_Binary8Specials : 0x1D < 32 ∧ 0x1D % 8 ≠ 0 ∧ 0xFF < 256 := by decide

/-- A group at a word of MOVI v3, 5 at address 256. -/
def fetching : State := { running with agenda := [.issue running.cur.key], mem := [(256, 5), (257, 0x80), (258, 1), (259, 0x54)] }
theorem witness_StepRunsDecoded : IssuesNext fetching [] 256 0x54018005 ∧
    decodeWord fetching.cur.sup (0x54018005 : Word).toNat = some (.movi c0 3 0 5) :=
  ⟨by constructor <;> decide +kernel, by decide +kernel⟩

/-- R355: of a taken branch to the line after next, TH 01 brings the target's line, 11 both, 00 the fall-through's. -/
theorem test_target_hint : (let s := { fetching with cur := { fetching.cur with pc := 384 } }
    [0, 1, 3].map (fun h => (left (guided (.braUniform c0 h 32) 256 (.next s))).cur.fbuf.map (·.num))) = [[4], [6], [6, 4]] := by
  decide +kernel

theorem witness_FetchTraps : Plain running ∧ running.cur.run.bad = none := ⟨plain _ (by decide +kernel), by decide +kernel⟩
def aLeaf : Leaf := { ctx := 0, va := 0, size := 65536, pa := 0, wr := true, cow := false, used := false, dirtied := false }
theorem witness_StepMoves_more : ∃ s t u : State, s.agenda = [.pageOut aLeaf] ∧ (∃ m, t.agenda = [.packet m 0]) ∧ u.agenda = [.cap 0 300] :=
  ⟨{ running with agenda := [.pageOut aLeaf] },
   { running with agenda := [.packet { launch := 1, queue := 0, port := 0, peer := 0, job := 0, seq := 0, op := .send, tag := 0, bytes := [] } 0] },
   { running with agenda := [.cap 0 300] }, rfl, ⟨_, rfl⟩, rfl⟩

theorem witness_StepMoves : ∃ s t u v w : State, s.agenda = [.elapse 5] ∧ t.agenda = [.copyWord 1 0] ∧
    u.agenda = [.map aLeaf] ∧
    (v.agenda = [.event .inputVoltageFault] ∧ (encode .inputVoltageFault).isNone = true) ∧
    w.agenda = [.event (.nop c0)] ∧ (encode (.nop c0)).isSome = true :=
  ⟨{ running with agenda := [.elapse 5] }, { running with agenda := [.copyWord 1 0] },
   { running with agenda := [.map aLeaf] }, { running with agenda := [.event .inputVoltageFault] },
   { running with agenda := [.event (.nop c0)] }, rfl, rfl, rfl, ⟨rfl, rfl⟩, rfl, rfl⟩

theorem witness_RoundTrip : wellFormed (.idivN c0 5 6 7) = true ∧ encode (.idivN c0 5 6 7) = some 0x240C5187 ∧ modeFits (.idivN c0 5 6 7) false :=
  ⟨rfl, by decide +kernel, trivial⟩

theorem witness_DecodeSound : 0x240C5187 < 2 ^ 32 ∧ decodeWord false 0x240C5187 = some (.idivN c0 5 6 7) := by decide +kernel

/-- Time passes over a memory with a program. -/
theorem witness_MemoryStaysCanonical : ∃ s t, Memory.wf s.mem = true ∧ step s = .next t :=
  ⟨{ fetching with agenda := [.elapse 5] }, _, by decide +kernel, rfl⟩

theorem witness_TimeNeverRunsBack : ∃ s t : State, s.time.now < 2 ^ 64 ∧ step s = .next t :=
  ⟨{ fetching with agenda := [.elapse 5] }, _, by decide +kernel, rfl⟩

/-! ### Witnesses: events -/

theorem runAlone : Alone running := alone _ (by decide +kernel) (placed _ (by decide +kernel))
def pendAt (l : Option Nat) (a : PendAct) : Pend :=
  { lane := l, rem := 1, org := 256, kept := false, act := a, know := [], from_ := { num := 1, owner := running.cur.key, point := 0, lane := l.getD 0 } }

def pendOf (a : PendAct) : Pend := pendAt (some 0) a

/-- Every link between dies, retraining or not; a core of die 1; a word that a partition of another die owns. -/
def farLinks (b : Bool) : SMap LinkState := (List.range 4).map (fun k => (k, { up := true, retrain := b, replays := 0 }))
def farBind : Binding := { sender := 0, out := 0, recv := 64, inp := 0 }
def farWord : Nat := 0x8000

/-- All memory is on die 1. -/
def farMemory : Capability := { running.cap with near := [0, 64] }
def waitingAt (l : Option Nat) (a : PendAct) : State := onCur (fun g => { g with pend := [pendAt l a] })
def waitingFor (a : PendAct) : State := waitingAt (some 0) a
def w32 : Width := { bytes := 4, signed := false }

theorem lands {s : State} {a : PendAct} {l : Option Nat} (h : s.cur.live = true ∧ s.cur.pend = [pendAt l a] ∧ a ≠ .ended ∧
    s.heldBack (pendAt l a) = false ∧ s.crosses a = false ∧ s.myRequests.all (fun r => r.reg.isSome) = true) : Lands s (pendAt l a) [] :=
  { live := h.1, pend := h.2.1, once := List.not_mem_nil, open_ := fun f hf => by cases List.mem_singleton.mp hf; exact h.2.2.1
    ahead := h.2.2.2.1, link := h.2.2.2.2.1, reds := noReds _ h.2.2.2.2.2 }

theorem still {s : State} (h : s.compat = false ∧ s.hist = [] ∧ s.cur.dirty = [] ∧ s.cur.whole = [] ∧ s.cur.dirtyBad = []) : Still s :=
  ⟨h.1, h.2.1, h.2.2.1, h.2.2.2.1, h.2.2.2.2⟩

/-- A result over a link that retrains; and a take behind an earlier take of its word. -/
theorem witness_LandingEvents_held : (∃ s : State, First s (pendOf (.load 0x8000 w32 3)) [] ∧ s.crosses (.load 0x8000 w32 3) = true) ∧
    ∃ (s : State) (e f : Pend), First s e [f] ∧ s.cur ∈ s.allGroups ∧ f ∈ s.cur.pend ∧ f.from_.owner = e.from_.owner ∧
      f.from_.point = e.from_.point ∧ f.from_.num < e.from_.num ∧ e.act = .tag .take 8 0 3 ∧ f.act = .tag .take 8 0 4 := by
  let f := pendOf (.tag .take 8 0 4)
  let e : Pend := { pendOf (.tag .take 8 0 3) with from_ := { f.from_ with num := 2 } }
  refine ⟨⟨{ waitingFor (.load 0x8000 w32 3) with links := farLinks true, cap := farMemory }, ⟨rfl, rfl, List.not_mem_nil, ?_⟩, ?_⟩,
    onCur (fun g => { g with pend := [e, f] }), e, f, ⟨rfl, rfl, ?_, ?_⟩, ?_⟩ <;> decide +kernel

/-- One register of a lane, from memory and from the scratchpad, one of them signed; four of them; one uniform register and two. -/
theorem witness_LandingEvents_loaded : ∀ x ∈ ([(some 0, .load 8 w32 3, w32), (some 0, .pad 8 { bytes := 1, signed := true } 3, { bytes := 1, signed := true }),
      (some 0, .pad 16 { bytes := 16, signed := false } 3, { bytes := 16, signed := false }),
      (none, .load 8 { bytes := 8, signed := false } 3, { bytes := 8, signed := false }),
      (none, .load 16 { bytes := 16, signed := false } 3, { bytes := 16, signed := false })] : List (Option Nat × PendAct × Width)),
    ∃ s : State, Lands s (pendAt x.1 x.2.1) [] ∧ Still s ∧ (∀ g a w q, x.2.1 ≠ .push g a w q) ∧
      ∃ bs val r, loads s x.2.1 = some (bs, false, val, x.2.2, r) ∧ 0 < x.2.2.bytes := by
  intro x hx
  refine ⟨waitingAt x.1 x.2.1, ?_⟩
  simp only [List.mem_cons, List.not_mem_nil, or_false] at hx
  rcases hx with rfl | rfl | rfl | rfl | rfl <;>
    exact ⟨lands (by decide +kernel), still (by decide +kernel), (fun _ _ _ _ h => nomatch h), _, _, _, rfl, by decide⟩

theorem witness_LandingEvents_poisoned : ∃ (s : State) (bs : List Byte), Lands s (pendOf (.load 8 w32 3)) [] ∧ Still s ∧
    loads s (.load 8 w32 3) = some (bs, true, 8, w32, 3) :=
  ⟨{ waitingFor (.load 8 w32 3) with memBad := [1] }, _, lands (by decide +kernel), still (by decide +kernel), rfl⟩

theorem witness_LandingEvents_outside : ∃ s : State, Lands s (pendOf (.window 8 w32 3)) [] ∧ Placed s ∧ s.traces = [] ∧
    s.windowAt s.launch (.ofNat 64 8) w32.bytes false = none :=
  ⟨waitingFor (.window 8 w32 3), lands (by decide +kernel), placed _ (by decide +kernel), by decide +kernel⟩

/-- A shadow's load into a queue that has room, and into a full one. -/
theorem witness_LandingEvents_pushed : ∀ n ∈ [0, 7, 8], ∃ (s : State) (g : Group), Lands s (pendOf (.push true 8 w32 2)) [] ∧ Still s ∧
    s.cur.key.shadow = true ∧ s.findGroup { s.cur.key with shadow := false } = some g ∧ (g.queue 0 2).length = n ∧
    loads s (.push true 8 w32 2) = some (s.bytes 8 4, false, .ofNat 64 8, w32, 2) := by
  intro n hn
  let g := running.cur.setQueue 0 2 (List.replicate n 7)
  let w := waitingFor (.push true 8 w32 2)
  let s : State := { w with cur := { w.cur with key := { w.cur.key with shadow := true } }, groups := [g] }
  simp only [List.mem_cons, List.not_mem_nil, or_false] at hn
  rcases hn with rfl | rfl | rfl <;>
    exact ⟨s, g, lands (by decide +kernel), still (by decide +kernel), rfl, by decide +kernel, by decide +kernel, by rfl⟩

theorem witness_LandingEvents_word : ∀ a ∈ [PendAct.word 3 7, .uword 3 7, .pred 7 true], ∃ s : State, Lands s (pendOf a) [] := by
  intro a ha
  refine ⟨waitingFor a, lands ?_⟩
  revert a; decide +kernel

/-- XLATE of a base under the lease, and of one outside it. -/
def wideLeaf : Leaf := { aLeaf with size := 2 ^ 30 }
def translating (b : DWord) : State := { leased (waitingFor (.xlate b 1)) with tables := [wideLeaf] }
theorem oneLeaf (b : DWord) : ∀ f ∈ (translating b).tables, f.ctx = (translating b).launch.ctx → ∀ v, f.va ≤ v → v < f.va + f.size →
    (translating b).leafOf (translating b).launch.ctx v = some f := by
  intro f hf hc v hl hv
  have e : (translating b).tables = [wideLeaf] := rfl
  rw [e] at hf
  cases List.mem_singleton.mp hf
  rw [State.leafOf, e, ← hc, List.find?_cons_of_pos]
  simp only [beq_self_eq_true, Bool.true_and, Bool.and_eq_true, decide_eq_true_eq]
  exact ⟨hl, hv⟩

theorem witness_LandingEvents_xlate : ∀ b ∈ ([0x40, 0x100000] : List DWord), Lands (translating b) (pendOf (.xlate b 1)) [] ∧
    (translating b).translate (translating b).launch.ctx b.toNat = some b.toNat ∧ (translating b).launch.covers b.toNat = (b == 0x40) := by
  intro b hb
  simp only [List.mem_cons, List.not_mem_nil, or_false] at hb
  rcases hb with rfl | rfl <;> exact ⟨lands (by decide +kernel), by decide +kernel, by decide +kernel⟩

/-- A take, a peek, a fill and a forced fill of a full word, an empty one and a poisoned one. -/
theorem witness_LandingEvents_tags : ∀ op ∈ [TagOp.take, .peek, .fill, .force], ∀ b ∈ [true, false], ∀ p ∈ [true, false],
    ∃ s : State, Lands s (pendOf (.tag op 8 7 3)) [] ∧ s.wg.full (8 / 4) = b ∧ s.wg.padPoison 8 4 = p := by
  intro op ho b hb p hp
  let s : State := { waitingFor (.tag op 8 7 3) with wg := { running.wg with tags := if b then [2] else [], padBad := if p then [1] else [] } }
  refine ⟨s, lands ?_, ?_⟩ <;> revert op b p <;> decide +kernel

theorem witness_LandingEvents_tagRanges : (∃ s : State, Lands s (pendOf (.tags 8 16 true)) []) ∧ ∃ s : State, Lands s (pendOf (.tagq 8 3)) [] :=
  ⟨⟨waitingFor (.tags 8 16 true), lands (by decide +kernel)⟩, waitingFor (.tagq 8 3), lands (by decide +kernel)⟩

/-- A fence of every scope, with an older value of a scratchpad word for it to cut off. -/
theorem witness_LandingEvents_fenceE : ∀ n ∈ [2, 3, 5], ∃ (s : State) (o : PadOld), Lands s (pendAt none (.fence n)) [] ∧ s.atomq = [] ∧ s.compat = false ∧
    mapGet [] s.wg.padOld 2 = [o] ∧ o.by_ = some s.owner := by
  intro n hn
  let w := waitingAt none (.fence n)
  simp only [List.mem_cons, List.not_mem_nil, or_false] at hn
  rcases hn with rfl | rfl | rfl <;>
    exact ⟨{ w with wg := { w.wg with padOld := [(2, [{ val := 7, by_ := some w.owner, fences := [0] }])] } }, _, lands (by decide +kernel),
      rfl, by decide +kernel, rfl, by decide +kernel⟩

def aRequest : AtomReq :=
  { id := 1, from_ := running.cur.key, core := 0, lane := 0, op := .add, wide := false, pa := 64, x := 3, y := 0, reg := some 3,
    acq := false, rel := false, scope := 5, know := [], rels := [] }

/-- A request of 32 bits and one of 64 whose owner stands on another die, over a link that works and over one that retrains. -/
theorem witness_LandingEvents_atom : ∀ b ∈ [true, false], ∀ w ∈ [true, false], ∃ (s : State) (r : AtomReq), s.cur.live = true ∧ s.groups = [] ∧ s.atomq = [r] ∧
    r.from_ = s.cur.key ∧ r.wide = w ∧ r.pa % r.bytes = 0 ∧ s.memBad = [] ∧ s.hist = [] ∧ s.cur.dirty = [] ∧ s.atomWaits r = b := by
  intro b hb w hw
  refine ⟨{ waitingFor (.atom 1) with atomq := [{ aRequest with pa := farWord, wide := w }], links := farLinks b, cap := farMemory }, { aRequest with pa := farWord, wide := w }, ?_⟩
  revert b w; decide +kernel

/-- Counters below and at the target, and a continuation that is no address. -/
theorem witness_LandingEvents_counter : ∀ n ∈ [0, 1], ∀ c ∈ ([260, 0x100000000000000] : List DWord), ∃ s : State, s.cur.live = true ∧ s.hist = [] ∧ 64 % 8 = 0 ∧
    s.cur.wait = .counter 64 1 5 c ∧ canonical c = (c == 260) ∧ s.natAt 64 8 = n ∧ Plain s := by
  intro n hn c hc
  let s : State := { onCur (fun g => { g with wait := .counter 64 1 5 c }) with mem := if n = 0 then [] else [(64, 1)] }
  refine ⟨s, rfl, rfl, rfl, rfl, ?_, ?_, plain _ ⟨rfl, rfl, rfl, rfl⟩⟩
  · simp only [List.mem_cons, List.not_mem_nil, or_false] at hc
    rcases hc with rfl | rfl <;> decide +kernel
  · change State.natAt { running with mem := if n = 0 then [] else [(64, 1)] } 64 8 = n
    revert n; decide +kernel

theorem witness_LandingEvents_doze : ∃ s : State, s.cur.live = true ∧ (∀ g ∈ s.groups, g.key ≠ s.cur.key) ∧ s.cur.wait = .doze 5 :=
  ⟨onCur (fun g => { g with wait := .doze 5 }), rfl, by decide +kernel, rfl⟩

theorem witness_LandingEvents_nopre : ∀ n ∈ [0, 5], ∃ s : State, s.cur.live = true ∧ (∀ g ∈ s.groups, g.key ≠ s.cur.key) ∧ s.cur.nopre = some n :=
  fun n h => ⟨onCur (fun g => { g with nopre := some n }), rfl, by revert n; decide +kernel, rfl⟩

theorem witness_LandingEvents_walk : ∃ (s : State) (leaf : Leaf), Alone s ∧ s.launch.covers 64 = true ∧ s.leafOf s.launch.ctx 64 = some leaf ∧ leaf ∉ s.core.tlb :=
  ⟨leased running, { aLeaf with size := 2 ^ 30, used := true, dirtied := true }, alone _ (by decide +kernel) (placed _ (by decide +kernel)),
    by decide +kernel⟩

/-- A copy to a counter of this die, and to one of a die over a link that retrains. -/
theorem witness_EngineEvents_copied : ∀ b ∈ [true, false], ∃ (s : State) (c : Copy), s.copies = [c] ∧ c.sent = none ∧ c.dkind ≠ 4 ∧
    (∀ k < c.words, k ∈ c.moved) ∧ c.counter % 8 = 0 ∧ s.traces = [] ∧ Settled s ∧ s.wayWaits (dieOf c.core) c.counter = b := by
  intro b hb
  refine ⟨{ running with copies := [{ aCopy 1 with moved := [0] }], links := farLinks b, cap := farMemory }, { aCopy 1 with moved := [0] },
    rfl, rfl, by decide, by decide +kernel, rfl, rfl, ⟨rfl, ?_⟩, ?_⟩ <;> revert b <;> decide +kernel

theorem witness_EngineEvents_moves : ∃ (s : State) (c : Copy), s.copies = [c] ∧ c.sent = none ∧ c.moved = [] ∧ 0 < c.words ∧ c.wg = s.wg.uid ∧ s.wg.status = .running ∧
    (∀ w ∈ s.wgs, w.uid ≠ s.wg.uid) ∧ c.skind = 1 ∧ c.dkind = 1 ∧ c.zero = false ∧ c.full = false ∧ s.traces = [] ∧ c.src.toNat % 4 = 0 ∧
    c.src.toNat + 4 ≤ s.wg.size ∧ c.dst.toNat + 4 ≤ s.wg.size ∧ s.wg.padPoison c.src.toNat 4 = false ∧ mapGet [] s.wg.padOld (c.src.toNat / 4) = [] :=
  ⟨{ running with copies := [aCopy 1] }, aCopy 1, by decide +kernel⟩

theorem witness_EngineEvents_entry : (let s := quad [1]; (s.wg.joint.filter (fun e => e.1 / 4 == 0)).length < 4) ∧
    (let s := quad [0, 1, 2, 3]; let issues := s.wg.joint.filter (fun e => e.1 / 4 == 0)
     issues.length = 4 ∧ (∀ e ∈ issues, e.2 = zero0) ∧
      (∀ a ∈ zero0.areas (s.nbAt s.wg.core s.wg.uid 0 zero0.tile), a.1 % 64 = 0 ∧ (a.2 ≠ 0 → a.1 + a.2 ≤ s.wg.size)) ∧
      s.foreignFrames s.wg.core s.launch.ctx = [] ∧ (∀ x ∈ s.wg.tiles, x.quad = 0 → x.tile = zero0.tile → x.spilled = false) ∧
      (s.core.mq.filter (fun x => x.wg == s.wg.uid && x.quad == 0)).length < 8 ∧ (s.core.frameOf s.wg.uid 0 zero0.tile).isSome ∧
      s.core.id = s.wg.core ∧ s.launch.uid = s.wg.launch ∧ s.traces = []) := by decide +kernel

def aCmd (w : MatWord) : MatCmd := { wg := 1, quad := 0, tile := 0, word := w, known := [], serial := 4, taken := none }

/-- The engine with that command at its head. -/
def engaged (w : MatWord) : State := { quad [] with core := { (quad []).core with mq := [aCmd w] } }
theorem witness_EngineEvents_zeroed : (engaged zero0).core.mq = [aCmd zero0] ∧ (engaged zero0).core.frameOf 1 0 0 = some 5 ∧ zero0.major = 0x39 ∧
    zero0.fn = 1 ∧ (engaged zero0).traces = [] ∧ (∃ g ∈ (engaged zero0).groupsOf 1, g.key.gid / 4 = 0) := by decide +kernel

/-- MMA of each kind of format, of 1 to 4 blocks, MSCL, ACCLD and ACCST. -/
theorem witness_EngineEvents_served : ∀ w ∈ ([⟨0x38, 0, 0x20, 0, 0⟩, ⟨0x38, 0, 0x21, 1, 0⟩, ⟨0x38, 0, 0x22, 0, 0⟩, ⟨0x37, 0, 0x12, 2, 0⟩, ⟨0x39, 0, 0, 0, 0⟩,
    ⟨0x39, 2, 0, 0, 0⟩, ⟨0x39, 3, 0, 0, 0⟩] : List MatWord), Serves (engaged w) (aCmd w) [] 5 := by
  intro w hw
  refine ⟨rfl, ?_, ?_, ?_, ?_, ?_, ?_, ?_, ?_⟩
  all_goals
    simp only [List.mem_cons, List.not_mem_nil, or_false] at hw
    rcases hw with rfl | rfl | rfl | rfl | rfl | rfl | rfl <;> decide +kernel

/-- The operand elements of an untouched scratchpad are zeros, which BlockRule asks for as numbers. -/
theorem witness_EngineEvents_elements : ∀ k < 64, (elementOf (engaged ⟨0x38, 0, 0x22, 0, 0⟩) ⟨0x38, 0, 0x22, 0, 0⟩ 0 0 k).Is 0 := by
  have h : ∀ k < 64, elementOf (engaged ⟨0x38, 0, 0x22, 0, 0⟩) ⟨0x38, 0, 0x22, 0, 0⟩ 0 0 k = f32.decode 0 := by decide +kernel
  exact fun k hk => h k hk ▸ witness_FloatRounding.2.1

/-- A channel to a core of another die, over a link that works and over one that retrains. -/
theorem witness_EngineEvents_arrival : ∀ b ∈ [true, false], ∃ (s : State) (c : Chan), s.launch.chans[0]? = some c ∧ c.transit = [entry] ∧
    (∀ l ∈ s.launches, l.uid ≠ s.launch.uid) ∧ s.linkWaits (dieOf c.bind.sender) (dieOf c.bind.recv) = b := by
  intro b hb
  refine ⟨{ onLaunch (fun l => { l with chans := [{ chan [] with transit := [entry], bind := farBind }] }) with links := farLinks b },
    { chan [] with transit := [entry], bind := farBind }, ?_⟩
  revert b; decide +kernel

theorem witness_EngineEvents_toyBox : ∃ (s : State) (c : Chan), s.launch.chans[0]? = some c ∧ c.toyOn = false ∧ c.closed = false ∧ s.cur.live = true ∧
    s.cur.wait = .send c.bind.out 0 ∧ s.wg.uid = s.cur.key.wg ∧ s.wg.core = c.bind.sender ∧ s.core.id = s.wg.core ∧ s.wg.launch = s.launch.uid ∧
    4096 ≤ (s.time.now - 0) * clockAt s.core.point / 1000 ∧ c.room (entriesOf (s.cur.width / s.launch.lanesPer)) = false ∧
    (∀ l ∈ s.launches, l.uid ≠ s.launch.uid) ∧ s.traces = [] :=
  ⟨{ channelled (List.replicate 63 entry) with
      cur := { running.cur with wait := .send 0 0 }, time := { running.time with now := 1000000 } }, chan (List.replicate 63 entry), by decide +kernel⟩

theorem witness_EngineEvents_cycle : State.reset.waiters = [] ∧ ∃ (s : State) (c : Chan), Alone s ∧ s.cur.sup = false ∧ s.cur.parked = false ∧ s.cur.pend = [] ∧
    s.cur.wait = .receive 0 ∧ chanOf s 0 0 = some c ∧ c.transit = [] ∧
    c.fifo.length + c.toy.length < entriesOf (s.cur.width / s.launch.lanesPer) ∧ (∀ d < 4, s.launch.pendingOn d = []) ∧ s.core.rdv = [] :=
  ⟨by decide +kernel, { channelled [] with cur := { running.cur with wait := .receive 0 } }, chan [],
    alone _ (by decide +kernel) (placed _ (by decide +kernel)), by decide +kernel⟩

def rdv (p : RdvPhase) (t : Nat) : Rendezvous := { launch := 1, phase := p, target := t, since := 0 }
def spanning (p : RdvPhase) (t : Nat) : State := { running with
  cur := { running.cur with wait := .span t }, core := { running.core with rdv := [rdv p t] } }

theorem witness_SpanEvents_grant : ∃ (s : State) (r : Rendezvous), s.core.rdv = [r] ∧ r.phase = .energy ∧ s.traces = [] := ⟨spanning .energy 2, rdv .energy 2, by decide +kernel⟩
theorem witness_SpanEvents_timeout : ∃ (s : State) (r : Rendezvous), Alone s ∧ s.cur.wait = .span 2 ∧ s.core.rdv = [r] ∧ r.phase = .energy ∧ r.launch = s.launch.uid :=
  ⟨spanning .energy 2, rdv .energy 2, alone _ (by decide +kernel) (placed _ (by decide +kernel)), by decide +kernel⟩

/-- A move to the point where the core stands, and one to another point. -/
theorem witness_SpanEvents_moves : ∀ t ∈ [1, 2], ∃ (s : State) (r : Rendezvous), Alone s ∧ s.atomq = [] ∧ s.cur.wait = .span t ∧ s.core.rdv = [r] ∧ r.phase = .moving ∧
    r.launch = s.launch.uid ∧ s.launch.paced = false ∧ r.target = t ∧ s.core.point = 1 := by
  intro t ht
  simp only [List.mem_cons, List.not_mem_nil, or_false] at ht
  rcases ht with rfl | rfl
  · exact ⟨spanning .moving 1, rdv .moving 1, alone _ (by decide +kernel) (placed _ (by decide +kernel)), by decide +kernel⟩
  · exact ⟨spanning .moving 2, rdv .moving 2, alone _ (by decide +kernel) (placed _ (by decide +kernel)), by decide +kernel⟩

/-- The rail is known, with adaptation frozen. -/
theorem witness_SpanEvents_frozen : ∃ s : State, s.core.frozen = true ∧ railAt s.core.point ≤ railAt 2 + s.core.rail :=
  ⟨onCore (fun c => { c with frozen := true, rail := railAt 1 }), by decide +kernel⟩

def strings0 : Strings := { core := 0, up := [1], down := [1] }

/-- A core that has not ended its step, and one that has and has heard of the neighbour's end. -/
theorem witness_SpanEvents_steps : (∃ (s : State) (p : Pace), Alone s ∧ s.core.paces.find? (fun p => p.launch == s.launch.uid) = some p ∧ p.ended ≤ p.step) ∧
    ∃ (s : State) (p : Pace), Alone s ∧ s.core.paces.find? (fun p => p.launch == s.launch.uid) = some p ∧ p.ended = p.step + 1 ∧
      s.core.rdv = [] ∧ p.finished = false ∧
      (∀ u ∈ p.strings.up, p.step + 1 ≤ mapGet 0 p.heard u) ∧
      (∀ d ∈ p.strings.down, p.step + 2 - s.wg.kern.dmin ≤ mapGet 0 p.heard d) :=
  ⟨⟨stepping { pace0 with strings := strings0 }, { pace0 with strings := strings0 }, alone _ (by decide +kernel) (placed _ (by decide +kernel)),
    by decide +kernel⟩,
   stepping { pace0 with strings := strings0, ended := 1, heard := [(1, 1)] }, { pace0 with strings := strings0, ended := 1, heard := [(1, 1)] },
    alone _ (by decide +kernel) (placed _ (by decide +kernel)), by decide +kernel⟩

/-- Every group of the workgroup has retired, its scratchpad is still needed. -/
theorem witness_SpanEvents_retired : ∃ (s : State) (p : Pace), s.cur.live = false ∧ s.groups = [] ∧ s.wgs = [] ∧ s.core.id = s.wg.core ∧
    s.wg.launch = s.launch.uid ∧ s.wg.status = .running ∧ s.wg.uid ≠ 0 ∧ s.core.paces.find? (fun p => p.launch == s.launch.uid) = some p ∧
    p.ended = p.step + 1 ∧ s.core.rdv = [] ∧ p.finished = false ∧ (∀ u ∈ p.strings.up, p.step + 1 ≤ mapGet 0 p.heard u) ∧
    (∀ d ∈ p.strings.down, p.step + 2 - s.wg.kern.dmin ≤ mapGet 0 p.heard d) :=
  ⟨{ stepping { pace0 with ended := 1 } with cur := { running.cur with live := false } }, { pace0 with ended := 1 }, by decide +kernel⟩

/-! ### Witnesses: launches, saves, the device and the network -/

/-- Bring-up has ended. -/
def up : State := { running with phase := 9 }
theorem witness_LaunchEvents_submit : State.reset.phase < 9 ∧ up.phase = 9 ∧ (0x100 : DWord).toNat % 128 = 0 ∧ (0x110 : DWord).toNat % 128 ≠ 0 ∧
    (up.structBytes 0 none 0x100 128).isSome = true ∧ up.structBytes 7 none 0x100 128 = none ∧ (∀ l ∈ up.allLaunches, l.uid < up.nextId) := by decide +kernel

theorem witness_LaunchEvents_kill : up.phase = 9 ∧ up.launch.uid ≠ 0 ∧ up.launch.state = .running ∧ up.traces = [] ∧
    (BitVec.ofNat 64 up.launch.packet).toNat = up.launch.packet := by decide +kernel

theorem witness_LaunchEvents_home : ∃ f, up.leafOf 0 (0x12340 : DWord).toNat = some f ∧ up.homes = [] :=
  ⟨{ aLeaf with size := 2 ^ 30, used := true, dirtied := true }, by decide +kernel⟩

/-- One workgroup of the running launch is still to be placed on die 0; and nothing is. -/
def pending : State := { onLaunch (fun l => { l with shares := [{ die := 0, next := 1, stop := 2 }], pools := [{ die := 0, since := 0, held := true }]
                                                     words := [0, 0x0001000100000002, 0x1001001001, 0, 0, 0, 0, 0] })
  with core := { running.core with curve := 15 } }

theorem witness_LaunchEvents_place : (∀ x ∈ running.launches, x.state ≠ .pooled) ∧ running.order 0 = [] ∧ (∀ x ∈ pending.launches, x.state ≠ .pooled) ∧
    pending.order 0 = [pending.launch] ∧ pending.launch.waiting = [] ∧ pending.nextPlace pending.launch 0 [] = some (1, 0) ∧
    (pending.die 0).covers pending.launch.estimate = true ∧ (∀ w ∈ pending.allWgs, w.uid < pending.nextId) := by decide +kernel

/-- The launch's workgroup has not retired; it has, with STATUS and with a counter. -/
theorem witness_LaunchEvents_done : ∀ s ∈ [running, onLaunch (fun l => { l with retired := 1, statusPa := some 0x100 }),
      onLaunch (fun l => { l with retired := 1, countPa := some 0x100 })],
    s.launch.state = .running ∧ (∀ l ∈ s.launches, l.uid ≠ s.launch.uid) ∧ s.atomq = [] ∧ s.traces = [] ∧
    (s.launch.retired < s.launch.gridN ∨ (s.launch.gridN ≤ s.launch.retired ∧ s.busy s.launch.uid = false ∧
      (∀ c ∈ s.copies, c.launch ≠ s.launch.uid) ∧ s.hist = [] ∧ ∀ g ∈ s.allGroups, g.dirty = [])) := by decide +kernel

theorem witness_LaunchEvents_ended : ∃ s : State, s.launch.state = .ending ∧ (∀ l ∈ s.launches, l.uid ≠ s.launch.uid) ∧ s.atomq = [] ∧ s.traces = [] ∧
    s.launch.statusPa = some 0x100 ∧ s.launch.countPa = none ∧ s.busy s.launch.uid = false :=
  ⟨onLaunch (fun l => { l with state := .ending, statusPa := some 0x100 }), by decide +kernel⟩

theorem witness_LaunchEvents_retire : ∃ s : State, s.wg.status = .draining ∧ s.wgs = [] ∧ s.wg.launch = s.launch.uid ∧ s.launch.state = .running ∧
    s.launch.paced = false ∧ s.core.id = s.wg.core ∧ s.core.mq = [] ∧ s.copies = [] ∧ s.atomq = [] ∧ s.traces = [] :=
  ⟨onWg (fun w => { w with status := .draining }), by decide +kernel⟩

theorem witness_LaunchEvents_handover : ∃ s : State, s.wg.status = .handing 0x1000 0 ∧ s.wg.uid = s.cur.key.wg ∧ s.launch.uid = s.wg.launch ∧
    s.core.id = s.wg.core ∧ s.core.mq = [] ∧ s.copies = [] ∧
    s.objects.find? (fun k => k.addr == (0x1000 : DWord).toNat && k.ctx == s.launch.ctx) = some succ :=
  ⟨{ onWg (fun w => { w with status := .handing 0x1000 0 }) with objects := [succ] }, by decide +kernel⟩

/-- A header of R350 for one word of code at 0x1000; and no header there. -/
def object : State := { running with mem := [(0x1000, 4), (0x1007, 3), (0x100C, 255), (0x100D, 255), (0x100E, 255), (0x100F, 255), (0x1013, 8), (0x1014, 0xF0)] }
theorem witness_LaunchEvents_loaded : object.phase < 9 ∧ 9 ≤ ({ object with phase := 9 } : State).phase ∧ (running.structBytes 0 none 0x1000 256).isSome = true ∧
    (∀ h, running.structBytes 0 none 0x1000 256 = some h → headerKernel running.cap.stepping 0 0x1000 h = none) ∧
    (object.structBytes 0 none 0x1000 256).any (fun h => (headerKernel object.cap.stepping 0 0x1000 h).any (fun k =>
      (object.structBytes 0 none 0x1100 k.extent).any (fun code => decide (∀ i < k.extent / 4, lifetimeBad object.cap.stepping (natOf code (4 * i) 4) = false)))) = true := by
  have h : (running.structBytes 0 none 0x1000 256).all (fun h => (headerKernel running.cap.stepping 0 0x1000 h).isNone) = true := by decide +kernel
  refine ⟨by decide +kernel, by decide +kernel, by decide +kernel, fun x hx => ?_, by decide +kernel⟩
  rw [hx] at h; simpa using h

/-- A movable launch of a higher priority waits for the core that the running one holds. -/
def waiter : Launch := { Launch.loaded 2 with
  words := [1, 0x0001000100000001, 0x19001001001, 0, 0, 0, 0, 0], state := .queued, placed := [], shares := [{ die := 0, next := 0, stop := 1 }]
  pools := [{ die := 0, since := 0, held := true }] }

def blocked (now : Nat) : State := { running with
  launches := [waiter], core := { running.core with curve := 15 }, time := { running.time with now := now }
  dies := [(0, { Die.idle with lacking := some (2, 0) })] }

theorem witness_SaveEvents_request : (blocked 5).order 0 = [waiter] ∧ ((blocked 5).die 0).lacking = some (waiter.uid, 0) ∧
    (blocked 5).time.now < 0 + 10000000 ∧ ((blocked 10000000).die 0).lacking = some (waiter.uid, 0) ∧
    (blocked 10000000).order 0 = [waiter] ∧ 0 + 10000000 ≤ (blocked 10000000).time.now ∧ waiter.waiting = [] ∧
    (blocked 10000000).nextPlace waiter 0 [] = none ∧ Alone (blocked 10000000) ∧ (blocked 10000000).cur.pend = [] ∧
    (blocked 10000000).wg.request = none ∧
    (coresOf 0).filterMap ((blocked 10000000).victims waiter) = [[(blocked 10000000).wg]] := by
  refine ⟨?_, ?_, ?_, ?_, ?_, ?_, ?_,
    ?_, alone _ (by decide +kernel) (placed _ (by decide +kernel)), ?_⟩ <;> decide +kernel

def requested (now : Nat) (evict : Bool) : State := { onWg (fun w => { w with request := some (0, evict, 1000000) }) with
  time := { running.time with now := now } }

/-- Before and at the grace time, with EVICT and without. -/
theorem witness_SaveEvents_overdue : ∀ n ∈ [999999, 1000000], ∀ b ∈ [true, false], Alone (requested n b) ∧
    (requested n b).wg.request = some (0, b, 1000000) ∧ (requested n b).time.now = n := by
  have h : ∀ n ∈ [999999, 1000000], ∀ b ∈ [true, false], (let s := requested n b; (s.cur.live = true ∧ s.cur.key.shadow = false ∧ s.groups = [] ∧
      s.wgs = [] ∧ s.core.id = s.wg.core ∧ s.cores = [] ∧ s.traces = []) ∧ s.wg.uid = s.cur.key.wg ∧ s.wg.uid ≠ 0 ∧ s.wg.status = .running ∧
      s.wg.launch = s.launch.uid ∧ s.launch.state = .running) := by decide +kernel
  exact fun n hn b hb => ⟨alone _ (h n hn b hb).1 (placed _ (h n hn b hb).2), rfl, rfl⟩

def parked : State := { requested 5 false with cur := { running.cur with parked := true }, dies := [(0, { Die.idle with savePool := [0x10000] })] }
theorem witness_SaveEvents_saved : Alone parked ∧ parked.cur.parked = true ∧ parked.cur.pend = [] ∧ parked.wg.request.isSome ∧ parked.wg.tested = none ∧
    (parked.die (dieOf parked.wg.core)).savePool = [0x10000] ∧ 0x10000 % 4 = 0 ∧ parked.core.mq = [] ∧ parked.copies = [] ∧ parked.atomq = [] ∧
    parked.wg.padBad = [] ∧ (parked.cluster (clusterOf parked.wg.core)).testing = none ∧ parked.launch.packet < 2 ^ 64 ∧
    (∀ l ∈ parked.launches, l.uid ≠ parked.launch.uid) :=
  ⟨alone _ (by decide +kernel) (placed _ (by decide +kernel)), by decide +kernel⟩

theorem witness_SaveEvents_early : Alone running ∧ running.cur.parked = false := ⟨runAlone, by decide +kernel⟩

/-- Group 0 has parked; group 1 waits for it at a CLAIM. -/
def stuck : State := { parked with groups := [{ second with wait := .claim 1 }], wg := { parked.wg with claimQ := [1] } }
theorem witness_SaveEvents_unparked : stuck.wg.request.isSome ∧ ((stuck.groupsOf stuck.wg.uid).filter (fun g => !g.parked)) ≠ [] ∧
    ∀ g ∈ (stuck.groupsOf stuck.wg.uid).filter (fun g => !g.parked), ∃ p, stuck.partiesOf g = some p ∧ p.outside = false ∧
      ∀ k ∈ p.groups, (∃ h ∈ (stuck.groupsOf stuck.wg.uid).filter (fun g => !g.parked), h.key = k) ∨
        ∀ h, stuck.findGroup k = some h → h.parked = true := by
  refine ⟨by decide +kernel, by decide +kernel, ?_⟩
  rw [show (stuck.groupsOf stuck.wg.uid).filter (fun g => !g.parked) = [{ second with wait := .claim 1 }] by decide +kernel]
  intro g hg
  rw [List.mem_singleton.mp hg]
  refine ⟨{ kind := 5, outside := false, groups := [running.cur.key] }, by decide +kernel, rfl, fun k hk => .inr fun h hh => ?_⟩
  rw [List.mem_singleton.mp hk, show stuck.findGroup running.cur.key = some parked.cur by decide +kernel] at hh
  cases hh; decide +kernel

/-- A saved workgroup with room on its core, whose point its area names, and without. -/
def savedWg (c : BitVec 4) : State := { onWg (fun w => { w with status := .saved 0x10000 }) with
  mem := [(0x1000F, 1)], core := { running.core with curve := c }, cur := .absent }

theorem witness_SaveEvents_restored : ∀ c ∈ ([0, 15] : List (BitVec 4)), (savedWg c).wg.status = .saved 0x10000 ∧ (savedWg c).launch.uid = (savedWg c).wg.launch ∧
    (savedWg c).launch.state = .running ∧ (savedWg c).restoreCore (savedWg c).wg (savedWg c).launch 0x10000 0 = (c != 0) := by decide +kernel

theorem witness_SaveEvents_due : (State.reset.cluster 3).testing = none ∧ (State.reset.cluster 3).inTest = false ∧ (State.reset.cluster 3).retryAt = none ∧
    State.reset.onCluster' 3 = [] ∧ State.reset.atomq = [] := by decide +kernel

def tested (now : Nat) (begun : Bool) : State := { running with
  clusters := [(0, { Cluster.idle with testing := some 0, inTest := begun })], time := { running.time with now := now } }

theorem witness_SaveEvents_deadline : ∀ n ∈ [1999999, 2000000], ((tested n false).cluster 0).testing = some 0 ∧ ((tested n false).cluster 0).inTest = false ∧
    (tested n false).clusterParked 0 = false ∧ ((tested n false).cluster 0).misses < 3 ∧ (tested n false).time.now = n := by decide +kernel

theorem witness_SaveEvents_tested : ∀ b ∈ [true, false], ((tested 5 b).cluster 0).inTest = b ∧ (tested 5 b).atomq = [] := by decide +kernel

def anError (place : ErrorPlace) (corr copy : Bool) : StorageError := { place := place, core := 0, array := 2, correctable := corr, hasCopy := copy }

/-- A corrected error, one of a unit with a copy, one without, a pseudo-channel that fails beside one that had failed, and an endpoint. -/
theorem witness_DeviceEvents_error : (let e := anError (.memory 0x40) true false; e.core = running.core.id ∧ mapGet [] running.core.errors e.array = [] ∧
      (∀ k base len, e.place ≠ .pseudoChannel k base len) ∧ (∀ k ch out, e.place ≠ .endpoint k ch out) ∧ e.correctable = true) ∧
    (let e := anError (.memory 0x40) false true; e.correctable = false ∧ e.hasCopy = true) ∧
    (let e := anError (.memory 0x40) false false; e.correctable = false ∧ e.hasCopy = false ∧ e.place = .memory 0x40) ∧
    (∃ s : State, s.withdrawn = [(0x1000, 0x1000)] ∧ (anError (.pseudoChannel 0 0x1800 0x1000) false false).place = .pseudoChannel 0 0x1800 0x1000) ∧
    (anError (.endpoint 0 1 true) false false).place = .endpoint 0 1 true :=
  ⟨⟨rfl, by decide +kernel, (fun _ _ _ h => nomatch h), (fun _ _ _ h => nomatch h), rfl⟩, ⟨rfl, rfl⟩, ⟨rfl, rfl, rfl⟩,
    ⟨{ running with withdrawn := [(0x1000, 0x1000)] }, rfl, rfl⟩, rfl⟩

theorem witness_DeviceEvents_freeze : ∃ s : State, s.core.crossed = some 0 ∧ s.core.frozen = true ∧ s.traces = [] :=
  ⟨onCore (fun c => { c with crossed := some 0, frozen := true }), rfl, rfl, rfl⟩

/-- Before bring-up has ended and after it. -/
theorem witness_DeviceEvents_droop : (List.replicate 8 900).length = 8 ∧ State.reset.traces = [] ∧ State.reset.phase < 9 ∧ up.traces = [] ∧ 9 ≤ up.phase := by
  decide +kernel

/-- A cluster that is due, with and without an excess before; and one whose core has just slewed. -/
def excessive (b : Bool) (slew : Option Nat) : State := { up with
  clusters := [(0, { Cluster.idle with excess := b })], core := { running.core with slewed := slew } }

theorem due (b : Bool) : SupplyDue (excessive b none) 0 := by
  refine ⟨fun t h => ?_, fun i hi t h => ?_, fun i hi r hr => ?_⟩
  · rw [show ((excessive b none).cluster 0).supplyAt = none by cases b <;> decide +kernel] at h; cases h
  · have : ∀ b ∈ [true, false], ∀ i < 8, ((excessive b none).getCore (8 * 0 + i)).slewed = none := by decide +kernel
    rw [this b (by cases b <;> decide) i hi] at h; cases h
  · have : ∀ b ∈ [true, false], ∀ i < 8, ((excessive b none).getCore (8 * 0 + i)).rdv = [] := by decide +kernel
    rw [this b (by cases b <;> decide) i hi] at hr; cases hr

theorem witness_DeviceEvents_supply : 9 ≤ (excessive false none).phase ∧ ((excessive false none).cluster 0).excess = false ∧ SupplyDue (excessive false none) 0 ∧
    ¬SupplyDue (excessive false (some 0)) 0 :=
  ⟨by decide +kernel, by decide +kernel, due false, fun h => absurd (h.slew 0 (by decide) 0 (by decide +kernel)) (by decide +kernel)⟩

theorem witness_DeviceEvents_withdraw : ∃ s : State, 9 ≤ s.phase ∧ (s.cluster 0).excess = true ∧ SupplyDue s 0 ∧ s.traces = [] ∧ s.atomq = [] ∧
    s.core.present = true ∧ s.core.id / 8 = 0 ∧ s.residents s.core.id ≠ [] :=
  ⟨excessive true none, by decide +kernel, by decide +kernel, due true, by decide +kernel⟩

theorem witness_DeviceEvents_headroom : 9 ≤ up.phase ∧ ([30, 97] : List Int) ≠ [] := by decide

/-- Within the 1,500 W and beyond. -/
theorem witness_DeviceEvents_caps : 9 ≤ up.phase ∧ (((List.range 4).filter (· ≠ 0)).map (fun i => (up.die i).capW)).sum + 300 ≤ 1500 ∧
    1500 < (((List.range 4).filter (· ≠ 0)).map (fun i => (up.die i).capW)).sum + 1501 := by decide +kernel

theorem witness_DeviceEvents_input : running.launch.uid ≠ 0 ∧ running.launch.state = .running ∧ ∀ l ∈ running.launches, l.uid ≠ running.launch.uid := by
  decide +kernel

/-- A package of one die, with a key of n bytes. -/
def firmware (input rom : Bool) (n : Nat) : Firmware :=
  { inputOk := input, romOk := rom, images := List.replicate 3 { bytes := [1], signature := List.replicate 29792 0 }, key := List.replicate n 0
    badLinks := [3], domain := 4, dies := 1, clusters := 0xFF, ports := 1, coresUp := [1], near := [64], second := 0, stepping := 0xB1
    serial := 7, now := 1000, traces := [], savePool := [[0x10000]], spillPool := [], cap := [375], power := [(0, 1, 1000)]
    cores := [{ core := 0, cells := [16, 16, 16, 16], codeBase := 0, codeLen := 4096, handler := 0, dataBase := 4096, dataLen := 4096 }]
    endpoints := [] }

/-- Bring-up that fails at each of its first steps: the image is refused for a key of the wrong length. -/
theorem witness_DeviceEvents_stops : State.reset.phase = 0 ∧ State.reset.failed = none ∧ (firmware true true 63).images.length = 3 ∧
    (firmware false true 64).inputOk = false ∧ (firmware true false 64).romOk = false ∧
    ∃ i, (firmware true true 63).images[0]? = some i ∧ ¬Verified (firmware true true 63) i ∧ ∀ x ∈ (firmware true true 63).images.take 0, Verified (firmware true true 63) x := by
  refine ⟨rfl, rfl, rfl, rfl, rfl, _, rfl, fun h => absurd h.1 ?_, fun _ h => nomatch h⟩

  rw [show (firmware true true 63).key = List.replicate 63 0 from rfl, List.length_replicate]; decide

/-- Bring-up that ends: everything that is not left to the free functions holds (log entry 4). -/
theorem witness_DeviceEvents_up : (firmware true true 64).inputOk = true ∧ (firmware true true 64).romOk = true ∧ (firmware true true 64).images.length = 3 ∧
    (Config.digest (firmware true true 64).key = Config.fusedKey →
      (∀ i ∈ (firmware true true 64).images, Config.verifies (firmware true true 64).key i.bytes i.signature = true) →
      ∀ i ∈ (firmware true true 64).images, Verified (firmware true true 64) i) :=
  ⟨rfl, rfl, rfl, fun hd hv i hi => ⟨List.length_replicate, hd, by rw [List.eq_of_mem_replicate hi]; exact List.length_replicate, hv i hi⟩⟩

theorem witness_DeviceEvents_attest : (List.replicate 32 (0 : Byte)).length = 32 ∧ 3 ≤ up.phase := by decide +kernel

/-- A link between dies and one to the hub, retraining or not. -/
theorem witness_DeviceEvents_links : ∀ b ∈ [true, false], ∀ k ∈ [3, 7], ∃ s : State, k < 8 ∧ (mapGet .idle s.links k).up = true ∧ (mapGet .idle s.links k).retrain = b := by
  intro b hb k hk
  refine ⟨{ running with links := [(k, { up := true, retrain := b, replays := 0 })] }, ?_⟩
  simp only [List.mem_cons, List.not_mem_nil, or_false] at hb hk
  rcases hb with rfl | rfl <;> rcases hk with rfl | rfl <;> decide

def aMessage : Message := { launch := 1, queue := 0, port := 0, peer := 0, job := 0, seq := 0, op := .send, tag := 0, bytes := [1, 2, 3, 4] }
def aPosted : Posted := { queue := 0, op := .send, buf := 0x3000, length := 0x2000, tag := 0, inc := 1, counter := 0x2000 }

/-- A receive queue under ROD or not, on a package whose port 0 is healthy. -/
def aQueue (ordered send : Bool) : NetQueue := { spec := { spec 0 send with ordered := ordered }, error := false, next := 0 }
def receiver (ordered : Bool) (posted : List Posted) : State := { onLaunch (fun l => { l with queues := [aQueue ordered false], posted := posted }) with
  cap := { running.cap with ports := 1 } }

theorem arrives (o : Bool) (p : List Posted) (m : Message) (h : m.port = 0 ∧ m.peer = 0 ∧ m.job = 0 ∧ m.seq = 0) :
    Arrives (receiver o p) (aQueue o false) m :=
  { port := by rw [h.1]; exact ⟨by decide, (by change (1 : BitVec 12).getLsbD 0 = true; decide), fun k hk => nomatch hk⟩
    peer := by rw [h.2.1, h.2.2.1]; exact ⟨rfl, rfl⟩
    order := fun _ => by rw [h.2.2.2]; rfl }

theorem expected (o : Bool) (p : List Posted) (m : Message) (h : m.launch = 1 ∧ m.queue = 0) : Expected (receiver o p) (aQueue o false) m :=
  { launch := h.1, running := rfl, one := (fun _ h => nomatch h), queue := by rw [h.2]; cases o <;> rfl, whole := rfl }

theorem fills (o : Bool) (m : Message) (h : m.queue = 0 ∧ m.op = .send ∧ m.bytes.length ≤ 0x2000) :
    Fills (receiver o [aPosted]) m aPosted [] 0x3000 where
  posted := rfl
  queue := h.1.symm
  op := ⟨rfl, h.2.1⟩
  room := h.2.2
  map := fun i hi => by
    have e : (receiver o [aPosted]).tables = running.tables := rfl
    have f : running.tables = [{ aLeaf with size := 2 ^ 30, used := true, dirtied := true }] := by decide +kernel
    have hs : i < 0x2000 := Nat.lt_of_lt_of_le hi h.2.2
    have hb : aPosted.buf.toNat = 0x3000 := by decide
    have hc : (receiver o [aPosted]).launch.ctx = 0 := rfl
    rw [State.translate, State.leafOf, e, f, hb, hc, List.find?_cons_of_pos (by simp [aLeaf]; omega)]
    simp [aLeaf]

/-- A message of the queue's peer, with no entry posted, and one of another peer, out of order and at an absent port. -/
theorem witness_NetworkEvents_unmatched : Expected (receiver true []) (aQueue true false) aMessage ∧
    (∀ p ∈ (receiver true []).launch.posted, ¬Matches p aMessage) ∧ Arrives (receiver true []) (aQueue true false) aMessage ∧
    (∀ m ∈ [{ aMessage with peer := 1 }, { aMessage with job := 1 }, { aMessage with seq := 1 }, { aMessage with port := 1 }],
      Expected (receiver true []) (aQueue true false) m ∧ ¬Arrives (receiver true []) (aQueue true false) m) := by
  refine ⟨expected _ _ _ ⟨rfl, rfl⟩, (fun _ h => nomatch h), arrives _ _ _ ⟨rfl, rfl, rfl, rfl⟩, fun m hm => ⟨?_, fun h => ?_⟩⟩
  all_goals
    simp only [List.mem_cons, List.not_mem_nil, or_false] at hm
    rcases hm with rfl | rfl | rfl | rfl
  · exact expected _ _ _ ⟨rfl, rfl⟩
  · exact expected _ _ _ ⟨rfl, rfl⟩
  · exact expected _ _ _ ⟨rfl, rfl⟩
  · exact expected _ _ _ ⟨rfl, rfl⟩
  · exact absurd h.peer.1 (by decide +kernel)
  · exact absurd h.peer.2 (by decide +kernel)
  · exact absurd (h.order rfl) (by decide +kernel)
  · exact absurd h.port.2.1 (by decide +kernel)

theorem witness_NetworkEvents_receive : Expected (receiver true [aPosted]) (aQueue true false) aMessage ∧
    Arrives (receiver true [aPosted]) (aQueue true false) aMessage ∧ Fills (receiver true [aPosted]) aMessage aPosted [] 0x3000 ∧ aPosted.counter % 8 = 0 ∧
    (aPosted.counter + 8 ≤ 0x3000 ∨ 0x3000 + aMessage.bytes.length ≤ aPosted.counter) ∧ (receiver true [aPosted]).traces = [] ∧ Settled (receiver true [aPosted]) :=
  ⟨expected _ _ _ ⟨rfl, rfl⟩, arrives _ _ _ ⟨rfl, rfl, rfl, rfl⟩, fills _ _ ⟨rfl, rfl, by decide⟩, by decide, by decide, rfl, rfl, by decide +kernel⟩

/-- The second packet of a message of 4,097 bytes, under ROD and not. -/
theorem witness_NetworkEvents_packet : ∀ o ∈ [true, false], ∃ m, Expected (receiver o [aPosted]) (aQueue o false) m ∧
    Arrives (receiver o [aPosted]) (aQueue o false) m ∧ Fills (receiver o [aPosted]) m aPosted [] 0x3000 ∧ 4096 * 1 < m.bytes.length ∧
    Settled (receiver o [aPosted]) := by
  refine fun o ho => ⟨{ aMessage with bytes := List.replicate 4097 1 }, expected _ _ _ ⟨rfl, rfl⟩, arrives _ _ _ ⟨rfl, rfl, rfl, rfl⟩,
    fills _ _ ⟨rfl, rfl, ?_⟩, ?_, ⟨rfl, ?_⟩⟩
  · rw [List.length_replicate]; decide
  · rw [List.length_replicate]; decide
  · revert o; decide +kernel

def anOut (next : Option Nat) : OutMsg :=
  { id := 4, copy := 1, launch := 1, queue := 0, arg := 0, port := 0, packets := [[1]], sentAt := 0, retry := 3, next := next }

def sender (next : Option Nat) (now : Nat) : State := { onLaunch (fun l => { l with queues := [aQueue true true] }) with
  outMsgs := [anOut next], copies := [aCopy 1], time := { running.time with now := now } }

theorem sent (next : Option Nat) (now : Nat) : Sent (sender next now) (anOut next) (aQueue true true) :=
  { msg := rfl, launch := rfl, queues := rfl, number := rfl, send := rfl, one := fun _ h => nomatch h }

/-- Within the queue's timeout of 1 ms and at its end, with a retransmission that is set and without. -/
theorem witness_NetworkEvents_again : ∀ n ∈ [none, some 5], ∀ now ∈ [999999, 1000000], Sent (sender n now) (anOut n) (aQueue true true) ∧
    (sender n now).traces = [] ∧ (anOut n).sentAt + (aQueue true true).spec.timeout.getD 100000000 = 1000000 :=
  fun n _ _ _ => ⟨sent _ _, rfl, (Nat.zero_add _).trans (show (some 1000000).getD 100000000 = 1000000 by decide)⟩

theorem witness_NetworkEvents_acknowledged : ∀ n ∈ [none, some 5], (sender n 0).outMsgs = [anOut n] ∧ (sender n 0).copies = [aCopy 1] ∧
    (aCopy 1).id = (anOut n).copy ∧ (aCopy 1).counter % 8 = 0 ∧ (sender n 0).traces = [] ∧ Settled (sender n 0) := by
  refine fun n hn => ⟨rfl, rfl, rfl, rfl, rfl, rfl, ?_⟩
  revert n; decide +kernel

/-- A good stamp at the PTP port and at another one, and a port that is absent. -/
theorem witness_NetworkEvents_ptp : ∃ s : State, s.traces = [] ∧ s.time.port = some 3 ∧ s.cap.ports.getLsbD 3 = true ∧ s.cap.ports.getLsbD 5 = true ∧
    s.cap.ports.getLsbD 4 = false ∧ (1000 : DWord).toNat ≤ s.time.now + 8 ∧ s.time.now ≤ (1000 : DWord).toNat + 8 ∧ s.time.domain = 0 :=
  ⟨{ running with time := { running.time with port := some 3, now := 1008 }, cap := { running.cap with ports := 0x28 } }, by decide +kernel⟩

def anAccess (core : Nat) (at_ : Option Nat) : AppAccess :=
  { core := core, ctx := 0, va := 0x40, bytes := [1, 2, 3, 4], atomic := some .add, expect := 0, release := false, acquire := false, portAt := at_ }

theorem witness_NetworkEvents_app : up.writableAt 0 0x40 = some 0x40 ∧ State.reset.phase < 9 ∧ 9 ≤ up.phase ∧ Settled up ∧
    (anAccess 15 none).portAt = none ∧ (anAccess 15 none).core < 16 ∧ 16 ≤ (anAccess 16 none).core ∧ (anAccess 15 none).atomic = some .add ∧
    ({ anAccess 15 none with atomic := none } : AppAccess).atomic = none ∧ (anAccess 15 none).bytes.length = 4 ∧ 0x40 % 4 = 0 :=
  ⟨by decide +kernel, by decide +kernel, by decide +kernel, ⟨rfl, by decide +kernel⟩, by decide⟩

theorem witness_NetworkEvents_port : up.phase = 9 ∧ (∀ n ∈ [8, 0, 16], (anAccess 15 (some n)).core < 16 ∧ (anAccess 15 (some n)).portAt = some n) := by decide +kernel

/-- A number that is free, one that is taken, and a port that is not there. -/
theorem witness_NetworkEvents_opened : ∃ s : State, (spec 0 true).launch = s.launch.uid ∧ (∀ l ∈ s.launches, l.uid ≠ s.launch.uid) ∧
    s.launch.state = .running ∧ (spec 0 true).number < 65536 ∧ 1000000 ≤ (spec 0 true).timeout.getD 100000000 ∧
    (spec 0 true).timeout.getD 100000000 ≤ 10000000000 ∧ (spec 0 true).port = none ∧ s.cap.ports ≠ 0 ∧ s.cap.ports.getLsbD 1 = false ∧
    (∀ x ∈ s.launch.queues, x.spec.number = (spec 0 true).number → x.spec.send = (spec 0 true).send → x.error = true) ∧
    (∃ x ∈ s.launch.queues, x.spec.number = (spec 0 false).number ∧ x.spec.send = (spec 0 false).send ∧ x.error = false) :=
  ⟨receiver true [], by decide +kernel⟩

end Sys2Proof.Tests
end

section
/-!
PROOFS. The sequential integer words (chapter 4): division (R57), logic and shifts (R61), bit operations (R62, R63) and LOOP (R74).
The values are proved for every width, the words from the shapes of Laws/Shapes.lean.
-/

namespace Sys2Proof.Machine

/-! ### Words of the integer tables -/

section
variable {i : Instr} {x : LaneWord} {y : GroupWord}

/-! A word stands in one of the four tables of intDoes, so that its row there is all that there is to show. -/

theorem intDoes_of_intWord (h : intWord i = some x) (hx : x.Does i) (hp : intPairWord i = none := by rfl)
    (hl : logicWord i = none := by rfl) (hu : uniWord i = none := by rfl) : intDoes i := by
  simp [intDoes, h, hp, hl, hu, hx]

theorem intDoes_of_intPairWord (h : intPairWord i = some x) (hx : x.Does i) (hi : intWord i = none := by rfl)
    (hl : logicWord i = none := by rfl) (hu : uniWord i = none := by rfl) : intDoes i := by
  simp [intDoes, h, hi, hl, hu, hx]

theorem intDoes_of_logicWord (h : logicWord i = some x) (hx : x.Does i) (hi : intWord i = none := by rfl)
    (hp : intPairWord i = none := by rfl) (hu : uniWord i = none := by rfl) : intDoes i := by
  simp [intDoes, h, hi, hp, hu, hx]

theorem intDoes_of_uniWord (h : uniWord i = some y) (hy : y.Does i) (hi : intWord i = none := by rfl)
    (hp : intPairWord i = none := by rfl) (hl : logicWord i = none := by rfl) : intDoes i := by
  simp [intDoes, h, hi, hp, hl, hy]
end

/-! ### Division (R57) -/

section
variable {w : ℕ} {r : Run} {x y : BitVec w}

/-- A signed value inside the type's range is neither wrapped nor clamped. -/
theorem toInt_narrow_of_mem (hw : 0 < w) (sat : Bool) {e : ℤ} (hlo : lowest w ≤ e) (hhi : e ≤ highest w) :
    (narrow w sat true e).toInt = e := by
  unfold lowest at hlo
  unfold highest at hhi
  have hclamp : clampInt (-(2 ^ (w - 1))) (2 ^ (w - 1) - 1) e = e := by
    rw [clampInt, if_neg (by omega), if_neg (by omega)]
  have hofInt : (BitVec.ofInt w e).toInt = e := BitVec.toInt_ofInt_eq_self hw hlo (by omega)
  cases sat <;> simp [narrow, hclamp, hofInt]

/-- Under SAT a signed value above the range becomes the largest number. -/
theorem toInt_narrow_of_highest_lt (hw : 0 < w) {e : ℤ} (h : highest w < e) : (narrow w true true e).toInt = highest w := by
  unfold highest at *
  have hpos : (0 : ℤ) < 2 ^ (w - 1) := Int.pow_pos (by decide)
  have hclamp : clampInt (-(2 ^ (w - 1))) (2 ^ (w - 1) - 1) e = 2 ^ (w - 1) - 1 := by
    rw [clampInt, if_neg (by omega), if_pos h]
  simp only [narrow, hclamp, if_true]
  exact BitVec.toInt_ofInt_eq_self hw (by omega) (by omega)

theorem toInt_eq_lowest_iff (hw : 0 < w) : x.toInt = lowest w ↔ x = BitVec.intMin w := by
  rw [← BitVec.toInt_inj, BitVec.toInt_intMin_of_pos hw, lowest]

theorem toInt_eq_neg_one_iff (hw : 0 < w) : y.toInt = -1 ↔ y = -1#w := by
  rw [← BitVec.toInt_inj, BitVec.neg_one_eq_allOnes, BitVec.toInt_allOnes, if_pos hw]

theorem ne_zero_of_toInt_ne_zero (h : y.toInt ≠ 0) : y ≠ 0 := by
  rintro rfl
  exact h BitVec.toInt_zero

/-- Without SAT IDIV.s is the wrapping signed division of words (R57). -/
theorem divS_eq_sdiv (hy : y ≠ 0) (hs : r.sat = false) : divS r x y = x.sdiv y := by
  rw [divS, if_neg hy, narrow, hs, if_neg Bool.false_ne_true, ← BitVec.toInt_inj, BitVec.toInt_ofInt, BitVec.toInt_sdiv]

/-- IREM of either signedness is the remainder of words, which a zero divisor leaves the dividend (R57). -/
theorem remS_eq_srem (x y : BitVec w) : remS x y = x.srem y := by
  unfold remS
  split
  case isTrue h => rw [h]; exact BitVec.srem_zero.symm
  case isFalse => rw [← BitVec.toInt_srem, BitVec.ofInt_toInt]

theorem remN_eq_umod (x y : BitVec w) : remN x y = x % y := by
  unfold remN
  split
  case isTrue h => rw [h]; exact BitVec.umod_zero.symm
  case isFalse => rw [← BitVec.toNat_umod, BitVec.ofNat_toNat, BitVec.setWidth_eq]

/-- The smallest number by −1 is the one quotient that the type cannot hold. -/
theorem tdiv_mem_range (hw : 0 < w) (h : ¬(x.toInt = lowest w ∧ y.toInt = -1)) :
    lowest w ≤ x.toInt.tdiv y.toInt ∧ x.toInt.tdiv y.toInt ≤ highest w := by
  rw [toInt_eq_lowest_iff hw, toInt_eq_neg_one_iff hw, not_and_or] at h
  rw [← BitVec.toInt_sdiv_of_ne_or_ne x y h]
  exact ⟨BitVec.le_toInt _, BitVec.toInt_le⟩

/-- IDIV.s truncates toward zero, but for its overflow (R57). -/
theorem toInt_divS (hw : 0 < w) (hy : y.toInt ≠ 0) (h : ¬(x.toInt = lowest w ∧ y.toInt = -1)) :
    (divS r x y).toInt = x.toInt.tdiv y.toInt := by
  obtain ⟨hlo, hhi⟩ := tdiv_mem_range hw h
  rw [divS, if_neg (ne_zero_of_toInt_ne_zero hy), toInt_narrow_of_mem hw _ hlo hhi]

theorem toNat_divN (hy : y.toNat ≠ 0) : (divN x y).toNat = x.toNat / y.toNat := by
  have hne : y ≠ 0 := by rintro rfl; exact hy BitVec.toNat_zero
  rw [divN, if_neg hne, ← BitVec.toNat_udiv, BitVec.ofNat_toNat, BitVec.setWidth_eq]

theorem toInt_remS (x y : BitVec w) : (remS x y).toInt = x.toInt.tmod y.toInt := by
  rw [remS_eq_srem, BitVec.toInt_srem]

/-- A remainder other than 0 has the sign of the dividend (R57). -/
theorem toInt_remS_neg_iff (h : (remS x y).toInt ≠ 0) : (remS x y).toInt < 0 ↔ x.toInt < 0 := by
  rw [toInt_remS] at *
  have hdvd : ¬y.toInt ∣ x.toInt := fun hd => h (Int.tmod_eq_zero_of_dvd hd)
  have hsign := Int.sign_tmod x.toInt y.toInt
  rw [if_neg hdvd] at hsign
  rw [← Int.sign_eq_neg_one_iff_neg, hsign, Int.sign_eq_neg_one_iff_neg]

/-- IDIV.n by zero gives all ones (R57). -/
theorem toNat_divN_zero (x : BitVec w) : (divN x 0).toNat = 2 ^ w - 1 := by
  have hones : BitVec.ofInt w (-1) = BitVec.allOnes w := by rw [BitVec.ofInt_neg, ← BitVec.neg_one_eq_allOnes]; rfl
  rw [divN, if_pos rfl, hones, BitVec.toNat_allOnes]

/-- IDIV.s by zero gives the smallest number, with SAT or without (R57). -/
theorem toInt_divS_zero (hw : 0 < w) (r : Run) (x : BitVec w) : (divS r x 0).toInt = lowest w := by
  rw [divS, if_pos rfl]
  exact BitVec.toInt_ofInt_eq_self hw le_rfl (neg_lt_self (Int.pow_pos (by decide)))

/-- The overflow of IDIV.s: under SAT the largest number, otherwise it wraps to the dividend (R57). -/
theorem toInt_divS_overflow (hw : 0 < w) (hx : x.toInt = lowest w) (hy : y.toInt = -1) :
    (divS r x y).toInt = if r.sat then highest w else lowest w := by
  have hne : y ≠ 0 := ne_zero_of_toInt_ne_zero (by rw [hy]; decide)
  cases hs : r.sat
  case false =>
    rw [divS_eq_sdiv hne hs, (toInt_eq_lowest_iff hw).mp hx, (toInt_eq_neg_one_iff hw).mp hy, BitVec.intMin_sdiv_neg_one]
    exact (toInt_eq_lowest_iff hw).mpr rfl
  case true =>
    have hq : x.toInt.tdiv y.toInt = 2 ^ (w - 1) := by rw [hx, hy, lowest, Int.tdiv_neg, Int.tdiv_one, neg_neg]
    rw [divS, if_neg hne, hs, hq]
    exact toInt_narrow_of_highest_lt hw (Int.sub_one_lt_of_le le_rfl)

theorem remS_overflow (hy : y.toInt = -1) : remS x y = 0 := by
  rw [← BitVec.toInt_inj, toInt_remS, hy, Int.tmod_neg, Int.tmod_one]
  exact BitVec.toInt_zero.symm

theorem divisionRule (hw : 0 < w) : DivisionRule w where
  quoS _ _ _ := toInt_divS hw
  quoN _ _ := toNat_divN
  restS x y _ := by rw [toInt_remS, Int.tmod_def, mul_comm]
  restN x y _ := by rw [remN_eq_umod, BitVec.toNat_umod, Nat.mod_eq_sub, mul_comm]
  sign _ _ _ := toInt_remS_neg_iff
  byZero r x := ⟨toNat_divN_zero x, toInt_divS_zero hw r x, by rw [remS_eq_srem]; exact BitVec.srem_zero,
    by rw [remN_eq_umod]; exact BitVec.umod_zero⟩
  limit _ _ _ hx hy := ⟨toInt_divS_overflow hw hx hy, remS_overflow hy⟩

end

/-- Settles O37: the values are those of `divisionRule`, and each word is the row of its table. -/
theorem integerDivision : Obligations.IntegerDivision :=
  ⟨divisionRule (by decide), divisionRule (by decide), fun _ _ _ _ => ⟨
    intDoes_of_intWord rfl (lane2_does fun _ => rfl), intDoes_of_intWord rfl (lane2_does fun _ => rfl),
    intDoes_of_intWord rfl (lane2_does fun _ => rfl), intDoes_of_intWord rfl (lane2_does fun _ => rfl),
    intDoes_of_intPairWord rfl (pair2_does fun _ => rfl), intDoes_of_intPairWord rfl (pair2_does fun _ => rfl),
    intDoes_of_intPairWord rfl (pair2_does fun _ => rfl), intDoes_of_intPairWord rfl (pair2_does fun _ => rfl),
    intDoes_of_uniWord rfl (uni2_does fun _ => rfl), intDoes_of_uniWord rfl (uni2_does fun _ => rfl),
    intDoes_of_uniWord rfl (uni2_does fun _ => rfl), intDoes_of_uniWord rfl (uni2_does fun _ => rfl)⟩⟩

/-! ### Logic and shifts (R61) -/

section
variable {w : ℕ}

/-! A shift of words by w or more leaves nothing, so SHL and SHRL are those shifts for every count (R61). -/

theorem shlOp_eq_shiftLeft (x y : BitVec w) : shlOp x y = x <<< low32 y := by
  unfold shlOp
  split
  case isTrue h => exact (BitVec.shiftLeft_eq_zero h).symm
  case isFalse => rfl

theorem shrlOp_eq_ushiftRight (x y : BitVec w) : shrlOp x y = x >>> low32 y := by
  unfold shrlOp
  split
  case isTrue h => exact (BitVec.ushiftRight_eq_zero h).symm
  case isFalse => rfl

theorem getLsbD_shlOp (x y : BitVec w) {k : ℕ} (hk : k < w) :
    (shlOp x y).getLsbD k = (decide (low32 y ≤ k) && x.getLsbD (k - low32 y)) := by
  rw [shlOp_eq_shiftLeft, BitVec.getLsbD_shiftLeft, decide_eq_true hk, Bool.true_and, ← decide_not]
  simp only [not_lt]

theorem getLsbD_shrlOp (x y : BitVec w) (k : ℕ) : (shrlOp x y).getLsbD k = x.getLsbD (k + low32 y) := by
  rw [shrlOp_eq_ushiftRight, BitVec.getLsbD_ushiftRight, Nat.add_comm]

/-- Past the top bit SHRA reads the top bit, so that a count of w or more leaves copies of the sign (R61). -/
theorem getLsbD_shraOp (x y : BitVec w) {k : ℕ} (hk : k < w) :
    (shraOp x y).getLsbD k = x.getLsbD (min (k + low32 y) (w - 1)) := by
  rw [shraOp, BitVec.getLsbD_sshiftRight, BitVec.msb_eq_getLsbD_last, decide_eq_false (not_le.mpr hk), Bool.not_false,
    Bool.true_and, ← apply_ite x.getLsbD]
  congr 1
  split <;> omega

theorem shiftRule (w : ℕ) : ShiftRule w where
  logic x y k hk := by simp [andOp, orOp, xorOp, andnOp, ornOp, hk]
  left x y _ := getLsbD_shlOp x y
  right x y k _ := getLsbD_shrlOp x y k
  arith x y _ := getLsbD_shraOp x y
end

/-- Settles O38: the values are those of `shiftRule`, and each word is the row of its table. -/
theorem logicAndShifts : Obligations.LogicAndShifts :=
  ⟨shiftRule 32, shiftRule 64, fun _ _ _ _ => ⟨
    intDoes_of_logicWord rfl (lane2_does fun _ => rfl), intDoes_of_logicWord rfl (lane2_does fun _ => rfl),
    intDoes_of_logicWord rfl (lane2_does fun _ => rfl), intDoes_of_logicWord rfl (lane2_does fun _ => rfl),
    intDoes_of_logicWord rfl (lane2_does fun _ => rfl), intDoes_of_logicWord rfl (lane2_does fun _ => rfl),
    intDoes_of_logicWord rfl (lane2_does fun _ => rfl), intDoes_of_logicWord rfl (lane2_does fun _ => rfl),
    intDoes_of_logicWord rfl (pair2_does fun _ => rfl), intDoes_of_logicWord rfl (pair2_does fun _ => rfl),
    intDoes_of_logicWord rfl (pair2_does fun _ => rfl), intDoes_of_logicWord rfl (pair2_does fun _ => rfl),
    intDoes_of_logicWord rfl (pair2_does fun _ => rfl), intDoes_of_logicWord rfl (pair2_does fun _ => rfl),
    intDoes_of_logicWord rfl (pair2_does fun _ => rfl), intDoes_of_logicWord rfl (pair2_does fun _ => rfl),
    intDoes_of_uniWord rfl (uni2_does fun _ => rfl), intDoes_of_uniWord rfl (uni2_does fun _ => rfl),
    intDoes_of_uniWord rfl (uni2_does fun _ => rfl), intDoes_of_uniWord rfl (uni2_does fun _ => rfl),
    intDoes_of_uniWord rfl (uni2_does fun _ => rfl), intDoes_of_uniWord rfl (uni2_does fun _ => rfl),
    intDoes_of_uniWord rfl (uni2_does fun _ => rfl), intDoes_of_uniWord rfl (uni2_does fun _ => rfl)⟩⟩

/-! ### Rotation and reversal (R62) -/

section
variable {w : ℕ}

theorem rotlOp_eq_rotateLeft (x y : BitVec w) : rotlOp x y = x.rotateLeft (low32 y) := BitVec.rotateLeft_def.symm

/-- Bit k of x goes to bit k + n, counted around the word. -/
theorem getLsbD_rotlOp (x y : BitVec w) {k : ℕ} (hk : k < w) :
    (rotlOp x y).getLsbD ((k + low32 y) % w) = x.getLsbD k := by
  have hm : low32 y % w < w := Nat.mod_lt _ (by omega)
  have hto : (k + low32 y) % w = if w ≤ k + low32 y % w then k + low32 y % w - w else k + low32 y % w := by
    rw [Nat.add_mod_eq_ite, Nat.mod_eq_of_lt hk]
  rw [rotlOp_eq_rotateLeft, BitVec.getLsbD_rotateLeft, hto]
  by_cases hwrap : w ≤ k + low32 y % w
  · rw [if_pos hwrap, decide_eq_true (by omega), cond_true]
    congr 1
    omega
  · rw [if_neg hwrap, decide_eq_false (by omega), cond_false, decide_eq_true (by omega), Bool.true_and, Nat.add_sub_cancel]

theorem getLsbD_brevOp (x : BitVec w) {k : ℕ} (hk : k < w) : (brevOp x).getLsbD (w - 1 - k) = x.getLsbD k := by
  rw [brevOp, BitVec.getLsbD_reverse, BitVec.getMsbD_eq_getLsbD, decide_eq_true (by omega), Bool.true_and]
  congr 1
  omega

/-! ### Counts (R62) -/

theorem leadZeros_le (x : BitVec w) (n : ℕ) : leadZeros x n ≤ n := by
  induction n with
  | zero => exact le_rfl
  | succ n ih => unfold leadZeros; split <;> omega

/-- The bits that leadZeros counts are 0. -/
theorem getLsbD_of_lt_leadZeros (x : BitVec w) {n k : ℕ} (hk : k < leadZeros x n) : x.getLsbD (n - 1 - k) = false := by
  induction n generalizing k with
  | zero => exact absurd hk (Nat.not_lt_zero k)
  | succ n ih =>
    unfold leadZeros at hk
    split at hk
    case isTrue => omega
    case isFalse h =>
      cases k with
      | zero => simpa using h
      | succ k =>
        have := ih (k := k) (by omega)
        rwa [show n + 1 - 1 - (k + 1) = n - 1 - k by omega]

/-- The bit after those that leadZeros counts, if there is one, is 1. -/
theorem getLsbD_leadZeros (x : BitVec w) {n : ℕ} (hn : leadZeros x n < n) : x.getLsbD (n - 1 - leadZeros x n) = true := by
  induction n with
  | zero => exact absurd hn (Nat.not_lt_zero _)
  | succ n ih =>
    unfold leadZeros at hn ⊢
    split at hn
    case isTrue h => rw [if_pos h]; exact h
    case isFalse h =>
      rw [if_neg h, show n + 1 - 1 - (1 + leadZeros x n) = n - 1 - leadZeros x n by omega]
      exact ih (by omega)

theorem trailZeros_le (x : BitVec w) (n i : ℕ) : trailZeros x n i ≤ n := by
  induction n generalizing i with
  | zero => exact le_rfl
  | succ n ih => have := ih (i + 1); unfold trailZeros; split <;> omega

theorem getLsbD_of_lt_trailZeros (x : BitVec w) {n i k : ℕ} (hk : k < trailZeros x n i) : x.getLsbD (i + k) = false := by
  induction n generalizing i k with
  | zero => exact absurd hk (Nat.not_lt_zero k)
  | succ n ih =>
    unfold trailZeros at hk
    split at hk
    case isTrue => omega
    case isFalse h =>
      cases k with
      | zero => simpa using h
      | succ k =>
        rw [show i + (k + 1) = i + 1 + k by omega]
        exact ih (by omega)

theorem getLsbD_trailZeros (x : BitVec w) {n i : ℕ} (hn : trailZeros x n i < n) : x.getLsbD (i + trailZeros x n i) = true := by
  induction n generalizing i with
  | zero => exact absurd hn (Nat.not_lt_zero _)
  | succ n ih =>
    unfold trailZeros at hn ⊢
    split at hn
    case isTrue h => rw [if_pos h]; exact h
    case isFalse h =>
      rw [if_neg h, ← Nat.add_assoc]
      exact ih (by omega)

theorem onesIn_eq_length_filter (x : BitVec w) (n : ℕ) : onesIn x n = ((List.range n).filter (fun k => x.getLsbD k)).length := by
  induction n with
  | zero => rfl
  | succ n ih =>
    rw [onesIn, ih, List.range_succ, List.filter_append, List.length_append, Nat.add_comm]
    cases h : x.getLsbD n <;> simp [h]

/-- A count of at most w fits a word of w bits. -/
theorem toNat_ofNat_of_le {n : ℕ} (hn : n ≤ w) : (BitVec.ofNat w n).toNat = n :=
  (BitVec.toNat_ofNat n w).trans (Nat.mod_eq_of_lt (hn.trans_lt Nat.lt_two_pow_self))

theorem toNat_clzOp (x : BitVec w) : (clzOp x).toNat = leadZeros x w := toNat_ofNat_of_le (leadZeros_le x w)
theorem toNat_ctzOp (x : BitVec w) : (ctzOp x).toNat = trailZeros x w 0 := toNat_ofNat_of_le (trailZeros_le x w 0)

theorem toNat_popcOp (x : BitVec w) : (popcOp x).toNat = ((List.range w).filter (fun k => x.getLsbD k)).length := by
  have hle : onesIn x w ≤ w := by
    rw [onesIn_eq_length_filter]
    exact (List.length_filter_le _ _).trans_eq List.length_range
  rw [popcOp, toNat_ofNat_of_le hle, onesIn_eq_length_filter]

/-! ### BFX (R63) -/

/-- The position and the length that a field descriptor gives, the length cut at the width: bits [7:0] and [15:8] of b. -/
def fieldPos (y : BitVec w) : ℕ := y.toNat % 256
def fieldLen (y : BitVec w) : ℕ := min (y.toNat / 256 % 256) w

theorem low32_mod_256 (y : BitVec w) : low32 y % 256 = fieldPos y := by unfold low32 fieldPos; omega
theorem min_low32_div_256 (y : BitVec w) : min (low32 y / 256 % 256) w = fieldLen y := by
  unfold low32 fieldLen
  congr 1
  omega

theorem signExtend_eq_ite {n : ℕ} (f : BitVec n) :
    f.signExtend w = if 2 ^ (n - 1) ≤ f.toNat then .ofInt w ((f.toNat : ℤ) - 2 ^ n) else .ofNat w f.toNat := by
  rw [BitVec.signExtend, BitVec.toInt_eq_msb_cond, BitVec.msb_eq_decide]
  by_cases h : 2 ^ (n - 1) ≤ f.toNat
  · rw [if_pos h, if_pos (decide_eq_true h), Nat.cast_pow, Nat.cast_ofNat]
  · rw [if_neg h, if_neg (by simpa using h), BitVec.ofInt_natCast]

/-- No field: an empty one, or one that begins past the width. -/
theorem bfxOp_eq_zero (sx : Bool) (x : BitVec w) {y : BitVec w} (h : fieldLen y = 0 ∨ w ≤ fieldPos y) : bfxOp sx x y = 0 := by
  unfold bfxOp
  simp only [low32_mod_256, min_low32_div_256]
  exact if_pos (by simpa using h)

/-- A field inside the word is taken out and extended with its top bit, or with zeros. -/
theorem bfxOp_eq_extend (sx : Bool) (x : BitVec w) {y : BitVec w} (h : ¬(fieldLen y = 0 ∨ w ≤ fieldPos y)) :
    bfxOp sx x y = if sx then (x.extractLsb' (fieldPos y) (fieldLen y)).signExtend w
      else (x.extractLsb' (fieldPos y) (fieldLen y)).setWidth w := by
  have hf : x.toNat / 2 ^ fieldPos y % 2 ^ fieldLen y = (x.extractLsb' (fieldPos y) (fieldLen y)).toNat := by
    rw [BitVec.extractLsb'_toNat, Nat.shiftRight_eq_div_pow]
  unfold bfxOp
  simp only [low32_mod_256, min_low32_div_256, hf]
  rw [if_neg (by simpa using h), signExtend_eq_ite, ← BitVec.ofNat_toNat]
  cases sx
  case false => rfl
  case true => simp only [Bool.true_and, decide_eq_true_eq, if_true]

theorem getLsbD_bfxOp (sx : Bool) (x y : BitVec w) {k : ℕ} (hk : k < w) :
    (bfxOp sx x y).getLsbD k = if fieldLen y = 0 ∨ w ≤ fieldPos y then false
      else if k < fieldLen y then x.getLsbD (fieldPos y + k) else (sx && x.getLsbD (fieldPos y + fieldLen y - 1)) := by
  by_cases h : fieldLen y = 0 ∨ w ≤ fieldPos y
  · rw [if_pos h, bfxOp_eq_zero sx x h]
    exact BitVec.getLsbD_zero
  · rw [if_neg h, bfxOp_eq_extend sx x h]
    have htop : (x.extractLsb' (fieldPos y) (fieldLen y)).msb = x.getLsbD (fieldPos y + fieldLen y - 1) := by
      rw [BitVec.msb_eq_getLsbD_last, BitVec.getLsbD_extractLsb', decide_eq_true (by omega), Bool.true_and,
        Nat.add_sub_assoc (by omega)]
    cases sx
    case false =>
      rw [if_neg Bool.false_ne_true, BitVec.getLsbD_setWidth, BitVec.getLsbD_extractLsb', decide_eq_true hk]
      by_cases hin : k < fieldLen y <;> simp [hin]
    case true =>
      rw [if_pos rfl, BitVec.getLsbD_signExtend, BitVec.getLsbD_extractLsb', htop, decide_eq_true hk]
      by_cases hin : k < fieldLen y <;> simp [hin]

theorem bitRule (w : ℕ) : BitRule w where
  turn x y _ := getLsbD_rotlOp x y
  lead x := ⟨_, toNat_clzOp x, leadZeros_le x w, fun _ => getLsbD_of_lt_leadZeros x, getLsbD_leadZeros x⟩
  trail x := by
    refine ⟨_, toNat_ctzOp x, trailZeros_le x w 0, fun k hk => ?_, fun hn => ?_⟩
    · simpa using getLsbD_of_lt_trailZeros x hk
    · simpa using getLsbD_trailZeros x hn
  ones := toNat_popcOp
  back x _ := getLsbD_brevOp x
  field sx x y _ := getLsbD_bfxOp sx x y

end

/-- Settles O39: the values are those of `bitRule`, and each word is the row of its table. -/
theorem bitOperations : Obligations.BitOperations :=
  ⟨bitRule 32, bitRule 64, fun _ _ _ _ => ⟨
    intDoes_of_logicWord rfl (lane2_does fun _ => rfl), intDoes_of_logicWord rfl (lane1_does fun _ => rfl),
    intDoes_of_logicWord rfl (lane1_does fun _ => rfl), intDoes_of_logicWord rfl (lane1_does fun _ => rfl),
    intDoes_of_logicWord rfl (lane1_does fun _ => rfl), intDoes_of_logicWord rfl (lane2_does fun _ => rfl),
    intDoes_of_logicWord rfl (lane2_does fun _ => rfl), intDoes_of_logicWord rfl (pair2_does fun _ => rfl),
    intDoes_of_logicWord rfl (pair1_does fun _ => rfl), intDoes_of_logicWord rfl (pair1_does fun _ => rfl),
    intDoes_of_logicWord rfl (pair1_does fun _ => rfl), intDoes_of_logicWord rfl (pair1_does fun _ => rfl),
    intDoes_of_logicWord rfl (pair2_does fun _ => rfl), intDoes_of_logicWord rfl (pair2_does fun _ => rfl),
    intDoes_of_uniWord rfl (uni2_does fun _ => rfl), intDoes_of_uniWord rfl (uni1_does fun _ => rfl),
    intDoes_of_uniWord rfl (uni1_does fun _ => rfl), intDoes_of_uniWord rfl (uni1_does fun _ => rfl),
    intDoes_of_uniWord rfl (uni1_does fun _ => rfl), intDoes_of_uniWord rfl (uni2_does fun _ => rfl),
    intDoes_of_uniWord rfl (uni2_does fun _ => rfl)⟩⟩

/-! ### LOOP (R74) -/

/-- A completion changes neither the uniform registers nor the lanes of its group. -/
@[simp] theorem Group.sget_complete (g : Group) (m : Mask) (sp : Bool) (pc : DWord) (r : ℕ) : (g.complete m sp pc).sget r = g.sget r := rfl
@[simp] theorem Group.lane_complete (g : Group) (m : Mask) (sp : Bool) (pc : DWord) (j : ℕ) : (g.complete m sp pc).lane j = g.lane j := rfl

@[simp] theorem Group.lane_sset (g : Group) (r : ℕ) (x : DWord) (j : ℕ) : (g.sset r x).lane j = g.lane j := by
  unfold Group.lane
  rw [Group.sset_lanes]

/-- The bits of an IMM stand above the 9 of the word (R32). -/
theorem toInt_append_imm9 (v : BitVec 24) (i : BitVec 9) : (v ++ i).toInt = v.toInt * 512 + i.toNat := by
  have hnat : (v ++ i).toNat = v.toNat * 512 + i.toNat := by
    rw [BitVec.toNat_append, Nat.shiftLeft_eq, mul_comm, ← Nat.two_pow_add_eq_or_of_lt i.isLt, mul_comm]
  have := i.isLt
  rw [BitVec.toInt_eq_toNat_cond, BitVec.toInt_eq_toNat_cond, hnat]
  split <;> split <;> omega

theorem State.imm9_of_none {s : State} (i : BitVec 9) (h : s.cur.run.imm = none) : s.imm9 i = i.toInt := by
  rw [State.imm9, h]

theorem State.imm9_of_some {s : State} (i : BitVec 9) {v : BitVec 24} (h : s.cur.run.imm = some v) :
    s.imm9 i = v.toInt * 512 + i.toNat := by
  rw [State.imm9, h]
  exact toInt_append_imm9 v i

/-- The group after a LOOP whose guard is true: its counter less one, and behind the word or at the target. -/
def afterLoop (c : Ctl) (d : BitVec 6) (i : BitVec 9) (s : State) : Group :=
  (s.cur.sset d.toNat (s.cur.sget d.toNat - 1)).complete s.cur.act c.sp
    (if s.cur.sget d.toNat - 1 = 0 then s.cur.pc + 4 else branchAt s (s.imm9 i))

section
variable {c : Ctl} {d : BitVec 6} {i : BitVec 9} {s : State}

theorem exec_loop (hi : Issues s (.loop c d i) .takes 0 false true true) (hw : wellFormed (.loop c d i) = true)
    (hg : s.cur.guard c = true) (hd : s.cur.key.shadow = true → d.toNat < 16) (ht : canonical (branchAt s (s.imm9 i)) = true) :
    exec (.loop c d i) s = .next (s.setCur (afterLoop c d i s)) := by
  have hregs : s.cur.key.shadow = true → ∀ r ∈ [d.toNat], r < 16 := fun h r hr => List.mem_singleton.mp hr ▸ hd h
  refine (issue_form (f := takesForm (.loop c d i) 0 true true) hi.toClears rfl hw).trans (congrArg _ ?_)
  rw [underGuard_on _ hg, uniBody_ok _ hregs]
  by_cases hn : s.cur.sget d.toNat - 1 = 0
  · simp only [afterLoop, hn, if_true]
    exact commit_next (by simpa using hi.live) hi.fits
  · simp only [afterLoop, hn, if_false]
    exact commit_jump ht nofun

theorem sget_afterLoop (r : ℕ) :
    (afterLoop c d i s).sget r = if r = d.toNat ∧ d.toNat ≠ 0 then s.cur.sget d.toNat - 1 else s.cur.sget r := by
  rw [afterLoop, Group.sget_complete, Group.sget_sset]

theorem pc_afterLoop :
    (afterLoop c d i s).pc = if s.cur.sget d.toNat = 1 then s.cur.pc + 4 else branchAt s (s.imm9 i) := by
  rw [afterLoop, Group.complete_pc]
  simp only [sub_eq_zero]

theorem pc_afterLoop_taken (h : s.cur.sget d.toNat ≠ 1) : (afterLoop c d i s).pc = branchAt s (s.imm9 i) := by
  rw [pc_afterLoop, if_neg h]

/-- A register other than s0, which never changes (R4): the counter is less by one, the others stay. -/
theorem sget_afterLoop_of_ne_zero {r : ℕ} (hr : r ≠ 0) :
    (afterLoop c d i s).sget r = if r = d.toNat then s.cur.sget r - 1 else s.cur.sget r := by
  rw [sget_afterLoop]
  by_cases h : r = d.toNat
  · rw [if_pos ⟨h, h ▸ hr⟩, if_pos h, h]
  · rw [if_neg (fun hc => h hc.1), if_neg h]

@[simp] theorem act_afterLoop : (afterLoop c d i s).act = s.cur.act := by simp [afterLoop]
@[simp] theorem lane_afterLoop (j : ℕ) : (afterLoop c d i s).lane j = s.cur.lane j := by simp [afterLoop]
end

/-- Settles O40: the state after LOOP is named, and each clause reads one of its parts. -/
theorem loopRule : Obligations.LoopRule := by
  intro c d i s hi hw hg hd _ target ht
  have htarget : branchAt s (s.imm9 i) = target := by
    refine congrArg (fun o => s.cur.pc + BitVec.ofInt 64 (4 * o)) ?_
    split
    case h_1 h => exact State.imm9_of_none i h
    case h_2 h => exact State.imm9_of_some i h
  rw [← htarget] at ht ⊢
  have hd0 : d ≠ 0 → d.toNat ≠ 0 := fun h he => h (BitVec.eq_of_toNat_eq he)
  refine ⟨_, exec_loop hi hw hg hd ht, fun r _ => ?registers, fun h => pc_afterLoop_taken (by rw [h]; nofun), fun _ h => ?one,
    fun hne h => ⟨?wraps, pc_afterLoop_taken (by rw [h]; nofun)⟩, fun _ h => pc_afterLoop_taken h, rfl, act_afterLoop,
    lane_afterLoop⟩
  case registers =>
    split
    case isTrue hr => rw [hr]; rfl
    case isFalse hr => exact sget_afterLoop_of_ne_zero hr
  case one => exact pc_afterLoop.trans (if_pos h)
  case wraps => exact (sget_afterLoop_of_ne_zero (hd0 hne)).trans (by rw [if_pos rfl, h]; rfl)

end Sys2Proof.Machine
end

section
/-!
PROOFS. The number formats (chapter 5): the binary8 codes that are no finite numbers (R95). Each column of R95's table is a function of the
variant, Decode8 is shown to give what the table says of a code in it, and a finite number for every other code.
-/

namespace Sys2Proof.Machine

/-! ### The table of R95 -/

/-- The infinity columns of R95's table: the code of the infinity of a sign, where the variant has it. -/
def B8.infCode (b : B8) (neg : Bool) : Option ℕ :=
  if b.fin_ then none else if b.uns then (if neg then none else some 0xFE) else some (if neg then 0xFF else 0x7F)

section
variable {b : B8} {c : ℕ}

theorem B8.infCode_false_eq_some_iff : b.infCode false = some c ↔ b.fin_ = false ∧ c = if b.uns then 0xFE else 0x7F := by
  cases hf : b.fin_ <;> cases hu : b.uns <;> simp [B8.infCode, hf, hu, eq_comm]

theorem B8.infCode_true_eq_some_iff : b.infCode true = some c ↔ b.fin_ = false ∧ b.uns = false ∧ c = 0xFF := by
  cases hf : b.fin_ <;> cases hu : b.uns <;> simp [B8.infCode, hf, hu, eq_comm]

theorem B8.decode_nanCode (b : B8) : b.decode b.nanCode = .nan false := if_pos rfl

theorem B8.decode_of_infCode {neg : Bool} (h : b.infCode neg = some c) : b.decode c = .inf neg := by
  cases neg
  case false =>
    obtain ⟨hf, rfl⟩ := B8.infCode_false_eq_some_iff.mp h
    cases hu : b.uns <;> simp [B8.decode, B8.nanCode, hf, hu]
  case true =>
    obtain ⟨hf, hu, rfl⟩ := B8.infCode_true_eq_some_iff.mp h
    simp [B8.decode, B8.nanCode, hf, hu]

/-- Every code outside the table is a finite number of R94. -/
theorem B8.decode_finite (hn : c ≠ b.nanCode) (hi : ∀ neg, b.infCode neg ≠ some c) :
    ∃ neg m e, b.decode c = .fin neg m e := by
  have hno {P : Prop} (neg : Bool) (h : P → b.infCode neg = some c) : ¬P := mt h (hi neg)
  rw [B8.decode, if_neg hn, if_neg (hno false (by simp +contextual [B8.infCode])),
    if_neg (hno true (by simp +contextual [B8.infCode])), if_neg (hno false (by simp +contextual [B8.infCode]))]
  dsimp only
  by_cases he : (if b.uns then c else c % 128) / 2 ^ (b.p - 1) = 0
  · exact ⟨_, _, _, if_pos he⟩
  · exact ⟨_, _, _, if_neg he⟩

/-- What Decode8 can give: a row of the table, or a finite number. -/
theorem B8.decode_cases (b : B8) (c : ℕ) :
    (c = b.nanCode ∧ b.decode c = .nan false) ∨ (∃ neg, b.infCode neg = some c ∧ b.decode c = .inf neg) ∨
      ∃ neg m e, b.decode c = .fin neg m e := by
  by_cases hn : c = b.nanCode
  · exact .inl ⟨hn, hn ▸ b.decode_nanCode⟩
  by_cases hi : ∃ neg, b.infCode neg = some c
  · exact .inr (.inl (hi.imp fun _ h => ⟨h, B8.decode_of_infCode h⟩))
  · exact .inr (.inr (B8.decode_finite hn (not_exists.mp hi)))

/-- A code decodes to NaN only where the table has it, and the NaN is quiet (R90). -/
theorem B8.decode_eq_nan_iff {signalling : Bool} : b.decode c = .nan signalling ↔ signalling = false ∧ c = b.nanCode := by
  refine ⟨fun h => ?_, fun ⟨hs, hc⟩ => hs ▸ hc ▸ b.decode_nanCode⟩
  obtain ⟨hc, hd⟩ | ⟨_, _, hd⟩ | ⟨_, _, _, hd⟩ := b.decode_cases c <;> cases hd.symm.trans h
  exact ⟨rfl, hc⟩

theorem B8.decode_eq_inf_iff {neg : Bool} : b.decode c = .inf neg ↔ b.infCode neg = some c := by
  refine ⟨fun h => ?_, B8.decode_of_infCode⟩
  obtain ⟨_, hd⟩ | ⟨_, hi, hd⟩ | ⟨_, _, _, hd⟩ := b.decode_cases c <;> cases hd.symm.trans h
  exact hi
end

/-! ### The variant of a format code (R38) -/

theorem b8Of_fin_eq_false_iff (f : ℕ) : (b8Of f).fin_ = false ↔ ¬f / 8 % 2 = 1 := by simp [b8Of]

theorem b8Of_uns {f : ℕ} (hf : f < 32) : (b8Of f).uns = decide (f / 16 = 1) := by
  have h : f / 16 % 2 = f / 16 := by omega
  rw [b8Of, h]
  rfl

/-- Settles O42: each clause is a column of R95's table, read at the variant of the format code. -/
theorem binary8Specials : Obligations.Binary8Specials := by
  intro f code hf _ _
  have huns := b8Of_uns hf
  refine ⟨?nan, ?signalling, ?posInf, ?negInf⟩
  case nan => simp [B8.decode_eq_nan_iff, B8.nanCode, huns]
  case signalling => simp [B8.decode_eq_nan_iff]
  case posInf => rw [B8.decode_eq_inf_iff, B8.infCode_false_eq_some_iff, b8Of_fin_eq_false_iff, huns]; simp
  case negInf => rw [B8.decode_eq_inf_iff, B8.infCode_true_eq_some_iff, b8Of_fin_eq_false_iff, huns]; simp

end Sys2Proof.Machine
end

section
/-!
PROOFS. VOTE, of the cross-lane words (R144). The three words differ only in the function that makes one bit of the predicates
in V, so what they write and what they leave is proved once, and each word adds the meaning of its function.
-/

namespace Sys2Proof.Machine

@[simp] theorem Group.cget_complete (g : Group) (m : Mask) (sp : Bool) (pc : DWord) (r : ℕ) : (g.complete m sp pc).cget r = g.cget r := rfl

/-- R126: the visible lanes that act are the even ones under protection, and all of them otherwise. -/
theorem State.onVisible_eq_filter (s : State) (c : Ctl) :
    s.onVisible c = (s.cur.on c).filter (fun j => !s.launch.isProt || j % 2 == 0) := rfl

section
variable {c : Ctl} {q p : BitVec 3} {s : State} {f : List Bool → Bool}

theorem voteBody_on (q p : ℕ) (hon : s.cur.on c ≠ []) :
    voteBody c q p f s = .next (s.setCur (s.cur.cset q (f ((s.onVisible c).map (fun j => s.cur.pget j p))))) :=
  if_neg (mt List.isEmpty_iff.mp hon)

/-- What every VOTE does: c(q) becomes the bit that f makes of the predicates in V, which here means Q; c0 stays 1, and the other
condition registers stay as they are. -/
theorem vote_writes {i : Instr} {Q : Prop}
    (he : exec i s = issue (bareForm i true false) c.sp s (voteBody c q.toNat p.toNat f)) (hi : Issues s i .none 0 false false true)
    (hw : wellFormed i = true) (hon : s.cur.on c ≠ []) (hf : f ((s.onVisible c).map (fun j => s.cur.pget j p.toNat)) = true ↔ Q) :
    ∃ t, exec i s = .next t ∧ t.cur.cget 0 = true ∧ (q ≠ 0 → (t.cur.cget q.toNat = true ↔ Q)) ∧
      ∀ r, r < 8 → r ≠ q.toNat → t.cur.cget r = s.cur.cget r := by
  have hexec := he.trans (issue_form hi.toClears rfl hw)
  rw [voteBody_on _ _ hon, commit_next (by simpa using hi.live) hi.fits] at hexec
  refine ⟨_, hexec, rfl, fun hq => ?written, fun r hr hne => ?kept⟩
  case written =>
    have hq0 : q.toNat ≠ 0 := fun h => hq (BitVec.eq_of_toNat_eq h)
    rw [← hf]
    simp [Group.cget_cset _ _ _ _ q.isLt, hq0]
  case kept => simp [Group.cget_cset _ _ _ _ hr, hne]
end

/-- Bits are all equal where all of them are 1 or none is. -/
theorem all_or_not_any_eq_true_iff (l : List Bool) : (l.all id || !l.any id) = true ↔ ∀ x ∈ l, ∀ y ∈ l, x = y := by
  rw [Bool.or_eq_true, List.all_eq_true, Bool.not_eq_true', List.any_eq_false]
  constructor
  case mp =>
    rintro (hall | hnone) x hx y hy
    · exact (hall x hx).trans (hall y hy).symm
    · exact (Bool.eq_false_of_not_eq_true (hnone x hx)).trans (Bool.eq_false_of_not_eq_true (hnone y hy)).symm
  case mpr =>
    intro hsame
    by_cases ht : true ∈ l
    · exact .inl fun x hx => hsame x hx true ht
    · exact .inr fun x hx hxt => ht (hxt ▸ hx)

/-- Settles O41: the three words write by `vote_writes`, and each bit is read as what it says of the predicates in V. -/
theorem votes : Obligations.Votes := by
  intro c q p s hi hon hany hall hsame V
  have hV : s.onVisible c = V := s.onVisible_eq_filter c
  refine ⟨vote_writes (f := fun l => l.any id) rfl (hi _ (by simp)) hany hon ?any,
    vote_writes (f := fun l => l.all id) rfl (hi _ (by simp)) hall hon ?all,
    vote_writes (f := fun l => l.all id || !l.any id) rfl (hi _ (by simp)) hsame hon ?same⟩
  case any => rw [hV, List.any_map, List.any_eq_true]; rfl
  case all => rw [hV, List.all_map, List.all_eq_true]; rfl
  case same => rw [hV, all_or_not_any_eq_true_iff]; simp only [List.forall_mem_map]

end Sys2Proof.Machine
end
